-- ==== Sys2Proof/Word.lean ====
section
/-! DEFINITION. Word.lean: the word types of the machine (R15, R199) and their plainest arithmetic. -/

namespace Sys2Proof

/-- A byte of memory or of a buffer. -/
abbrev Byte := BitVec 8

/-- A 64-bit scalar register or dword. -/
abbrev W64 := BitVec 64

/-- The 96-bit instruction word (R199). -/
abbrev Word96 := BitVec 96

/-- A vector register (R283). -/
abbrev VReg := BitVec 2048

/-- A context number (R30, R216). -/
abbrev Ctx := BitVec 16

/-- The integer of the low `n` bits of `x`, two's complement (`Sext` of R20). -/
def sextInt (n x : Nat) : Int :=
  let u := x % 2 ^ n
  if 2 * u < 2 ^ n then (u : Int) else (u : Int) - (2 ^ n : Nat)

/-- The low `n` bits of an integer as an unsigned number. -/
def lowBits (n : Nat) (x : Int) : Nat := (x % ((2 ^ n : Nat) : Int)).toNat

/-- A truth value as the number 0 or 1. -/
def bit (b : Bool) : Nat := if b then 1 else 0

end Sys2Proof
end

