-- ==== Sys2Proof/Config.lean ====
section
/-! DEFINITION. Config.lean: what an implementation or the outside world fixes and the spec leaves open.
Every `opaque` here is a free value: nothing evaluates it and no statement rests on a value of it. -/

namespace Sys2Proof.Config

/-- A free 64-bit value for use number `n` (log 2). -/
opaque free64 : Nat → BitVec 64

/-- A free number for use number `n`: choices the spec leaves to the implementation, such as the
L1 victim of R98 or the free journal entry of R104 (log 2). -/
opaque freeNat : Nat → Nat

/-- A free byte for use number `n`, offset `i` (log 2). -/
opaque freeByte : Nat → Nat → BitVec 8

/-- What host memory holds where nothing of the model has written it (R28, R38; log 5). -/
opaque hostByte : Nat → BitVec 8

/-- Whether the host refuses a write to this host physical address (R109; log 5). -/
opaque hostRefuses : Nat → Bool

/-- SHA-512 of a byte string, as R498 uses it (log 12). -/
opaque sha512 : List (BitVec 8) → BitVec 512

/-- The ECDSA P-521 signature by the device's identity key over a digest (R499; log 12). -/
opaque identitySign : Nat → BitVec 512 → List (BitVec 8)

/-- Whether a vendor authorisation verifies: target state, serial digest, signature (R490, R500; log 12). -/
opaque lifecycleVerify : Nat → List (BitVec 8) → Bool

/-- A stage of the firmware bundle: what the header says of it, and its bytes in boot flash (R497). -/
structure Stage where
  digest : BitVec 512
  target : Nat
  size : Nat
  image : List (BitVec 8)
  deriving DecidableEq, Repr

/-- The firmware bundle in boot flash: the fields of its header and its three stages (R497, R500, R501). -/
structure Bundle where
  major : Nat
  minor : Nat
  svn : Nat
  stages : List Stage
  /-- the vendor's P-521 public key, and the signature over the header -/
  key : List (BitVec 8)
  sig : List (BitVec 8)
  diagnostic : Bool
  manufacturing : Bool
  deriving DecidableEq, Repr

/-- The 4 KiB of a bundle's header; R497 gives its fields and no layout (log 12). -/
opaque headerImage : Bundle → List (BitVec 8)

/-- Whether an ECDSA P-521 signature over a digest verifies under a public key (R497; log 12). -/
opaque ecdsaVerify : List (BitVec 8) → BitVec 512 → List (BitVec 8) → Bool

/-- The manufacturing key hash in the boot ROM (R501; log 12). -/
opaque romKeyHash : BitVec 512

/-- The key hash that the transition to PROVISIONED fuses (R501; log 12). -/
opaque vendorKeyHash : BitVec 512

/-- The digest of a lifecycle state and the fuse configuration (R498; log 12). -/
opaque fuseDigest : Nat → BitVec 512

/-- Entry `n` of the firmware's service table in region 0xFF (R379; log 13). -/
opaque serviceEntry : Nat → BitVec 64

/-- The ceiling of the awning record of a context and id on a peer device, if it holds one (R355; log 16). -/
opaque peerCeil : Nat → BitVec 16 → Nat → Option Nat

/-- Whether the host attaches a debugger to a context (R251, R500; log 3). -/
opaque debuggerAttached : BitVec 16 → Bool

/-- The die temperature code of cluster `cl` at time `t` (R471; log 14). -/
opaque temperature : Nat → Nat → BitVec 12

/-- The core-rail limit that firmware derives from the power envelope, in units (R469). -/
opaque railLimit : Nat

/-- The phase of the medium-class clock against the tick at reset, in 32nds of a tick (R11). -/
opaque mediumPhase : Nat

end Sys2Proof.Config
end

