-- ==== Sys2Proof/Syntax.lean ====
section
/-! DEFINITION. Syntax.lean: the instructions and steps of the machine, one constructor of `Instr` per row of
spec/opcode_table.json. The first 171 rows are forms of the 96-bit word (R199, R214); the other 116 rows are steps
of the agents around the cores (slices, engines, Exchange, firmware, host, fabric), named in the table by their rule. -/

namespace Sys2Proof

/-! ### Operands of the instruction word -/

abbrev SReg := Fin 16
abbrev VIdx := Fin 16
abbrev PReg := Fin 8
abbrev MReg := Fin 8
abbrev KReg := Fin 8

/-- What every word carries beside its operation (R199, R206, R207). -/
structure Hdr where
  sw : Bool
  g : PReg
  gn : Bool
  pcl : Fin 4
  ra : Bool
  rb : Bool
  nt : Bool
  deriving DecidableEq, Repr

/-- A scalar register or an 18-bit immediate (kinds 000 and 110). -/
inductive SI where
  | reg (r : SReg)
  | imm (v : BitVec 18)
  deriving DecidableEq, Repr

/-- An immediate of kind 110 or 111 (R202). -/
inductive LImm where
  | short (v : BitVec 18)
  | long (v : BitVec 39)
  deriving DecidableEq, Repr

/-- A scalar register or an immediate of either kind. -/
inductive SL where
  | reg (r : SReg)
  | imm (v : LImm)
  deriving DecidableEq, Repr

/-- A scalar register or a key register: the base of an address (R257). -/
inductive SK where
  | s (r : SReg)
  | k (r : KReg)
  deriving DecidableEq, Repr

/-- A buffer address of kind 101, or a scalar in the endpoint layout of R138. -/
inductive BuS where
  | bu (buf : Fin 4) (off16 : BitVec 16)
  | s (r : SReg)
  deriving DecidableEq, Repr

/-- A broadcast operand of the vector unit (R291). -/
inductive Bc where
  | v (r : VIdx)
  | s (r : SReg)
  | imm (v : BitVec 18)
  deriving DecidableEq, Repr

/-- A COPY endpoint operand (R371). -/
inductive CopyOp where
  | s (r : SReg)
  | bu (buf : Fin 4) (off16 : BitVec 16)
  | k (r : KReg)
  deriving DecidableEq, Repr

/-- Widths of the integer instructions (R227). -/
inductive Wid where
  | w64 | w32 | w16 | w8
  deriving DecidableEq, Repr

/-- Saturation of ADD, SUB, VADD, VSUB (R227, R290). -/
inductive SatM where
  | wrap | ss | us
  deriving DecidableEq, Repr

/-- Element types (R205). -/
inductive Ty where
  | i8 | i16 | i32 | i64 | i4 | bf16 | f16 | f32 | f64 | mk8 | ci4 | ci8
  deriving DecidableEq, Repr

/-- Rounding modes of R238. -/
inductive Rm where
  | rne | rtz | rdn | rup
  deriving DecidableEq, Repr

/-- Scopes (R14). -/
inductive Scope where
  | task | issue | core | cluster | die | device | group | domain | system
  deriving DecidableEq, Repr

/-- Orders (R204). -/
inductive Order where
  | rlx | acq | rel | ar | sc
  deriving DecidableEq, Repr

/-- Integer conditions (R236). -/
inductive Cond where
  | eq | ne | lt | le | gt | ge | ltu | leu | gtu | geu | tst | ntst
  deriving DecidableEq, Repr

/-- Floating conditions (R241). -/
inductive FCond where
  | eq | ne | lt | le | gt | ge | un | or
  deriving DecidableEq, Repr

/-- Operations of AMO (R255). -/
inductive AmoOp where
  | swap | add | and | or | xor | min | max
  deriving DecidableEq, Repr

/-- Fields KGET reads (R255, R268). -/
inductive KField where
  | off | base | len | attr | hi
  deriving DecidableEq, Repr

/-- Fields JRD reads (R255, R281). -/
inductive JField where
  | off | attr | mask
  | d (i : Fin 8)
  deriving DecidableEq, Repr

/-- Fields RGRD reads (R255, R279). -/
inductive RField where
  | base | len | attr
  deriving DecidableEq, Repr

/-- Reductions (R290, R298). -/
inductive RedOp where
  | add | min | max
  deriving DecidableEq, Repr

/-- Lane shifts (R290, R301). -/
inductive ShfOp where
  | dn | up | rot
  deriving DecidableEq, Repr

/-- Condition of VCMP by its element type (R294). -/
inductive VCond where
  | int (c : Cond)
  | flt (c : FCond)
  deriving DecidableEq, Repr

/-- The pairs MOV accepts (R232). -/
inductive MovPair where
  | ss (d b : SReg)
  | si (d : SReg) (v : BitVec 18)
  | sp (d : SReg) (b : PReg)
  | sm (d : SReg) (b : MReg)
  | ps (d : PReg) (b : SReg)
  | pp (d b : PReg)
  | pi (d : PReg) (v : BitVec 18)
  | ms (d : MReg) (b : SReg)
  | mm (d b : MReg)
  | kk (d b : KReg)
  deriving DecidableEq, Repr

/-- The two forms of RGSET (R278). -/
inductive RgArg where
  | key (k : KReg)
  | range (a : SReg) (b : SI)
  deriving DecidableEq, Repr

/-- The address operand of VLDG (R310, R311). -/
inductive VldgArg where
  | plain (a : SK) (b : SI)
  | shp (a : SK) (buf : Fin 4) (off16 : BitVec 16)
  deriving DecidableEq, Repr

/-- What SUCC writes (R351). -/
inductive SuccArg where
  | nxt (b : SL)
  | byt (b : SL)
  | both (b : SL)
  | clr
  deriving DecidableEq, Repr

/-- Chit kinds software sends (R349). -/
inductive ChitSel where
  | rel | bar | byte
  deriving DecidableEq, Repr

/-- Cell modes (R192). -/
inductive CellMode where
  | f2 | i64 | ci32
  deriving DecidableEq, Repr

/-! Shapes of operand lists, shared by instructions of one form. -/

structure IntS where
  wid : Wid
  satm : SatM
  d : SReg
  a : SReg
  b : SI
  deriving DecidableEq, Repr

structure Int3 where
  wid : Wid
  d : SReg
  a : SReg
  b : SI
  deriving DecidableEq, Repr

structure Int2 where
  wid : Wid
  d : SReg
  a : SReg
  deriving DecidableEq, Repr

structure F3 where
  rm : Rm
  dbl : Bool
  d : SReg
  a : SReg
  b : SReg
  deriving DecidableEq, Repr

/-- Loads from an address: type, extension, destination, address. -/
structure LdA where
  ty : Ty
  uns : Bool
  d : SReg
  a : SK
  b : SI
  deriving DecidableEq, Repr

/-- Stores to an address: type, data, address. -/
structure StA where
  ty : Ty
  d : SI
  a : SK
  b : SI
  deriving DecidableEq, Repr

/-- Vector operations of three operands (R289, R290). -/
structure V3 where
  msk : MReg
  ty : Ty
  zr : Bool
  d : VIdx
  a : VIdx
  b : Bc
  deriving DecidableEq, Repr

/-- Vector operations of two operands. -/
structure V2 where
  msk : MReg
  ty : Ty
  zr : Bool
  d : VIdx
  a : VIdx
  deriving DecidableEq, Repr

/-- Complex vector operations (R302). -/
structure VC where
  msk : MReg
  ty : Ty
  zr : Bool
  cj : Bool
  sh : Fin 16
  d : VIdx
  a : VIdx
  b : VIdx
  deriving DecidableEq, Repr

/-- Matrix passes (R313). -/
structure MP where
  ty : Ty
  bty : Ty
  d : SI
  a : BuS
  b : BuS
  deriving DecidableEq, Repr

/-! ### Operands of the steps of other agents -/

/-- What a peer's request asks for (R60). -/
inductive PKind where
  | load
  | store (bytes : List (Option Byte)) (tag : Bool)
  | amo (opc : AmoOp) (ty : Ty) (x : W64)
  | cas (ty : Ty) (expect new : W64)
  deriving DecidableEq, Repr

/-- A request between devices (R60): requester, context, address and forward count, with what the receiver's checks need. -/
structure PeerReq where
  dev : Nat
  core : Nat
  id : Nat
  ctx : Ctx
  region : BitVec 8
  off : Nat
  n : Nat
  kind : PKind
  fc : Nat
  /-- an access of an engine, a porter or a fetcher (R37) -/
  eng : Bool := false
  /-- an atomic of order ACQ, AR or SC (R37) -/
  ac : Bool := false
  /-- an access of a SYS ticket (R42) -/
  sys : Bool := false
  /-- a prefetch (R280) -/
  pref : Bool := false
  /-- in the ordered class (R85) -/
  ord : Bool := true
  /-- the devices of the stubs that relayed it, the latest first (R61) -/
  path : List Nat := []
  /-- an SC form, with its place in its core's sequence (R272, R401) -/
  sc : Bool := false
  seq : BitVec 32 := 0
  /-- the port of its stream's path, taken when it left the egress (R87, R88) -/
  port : Option Nat := none
  /-- the colour of a window access's sender (R463) -/
  colour : Bool := false
  deriving DecidableEq, Repr

/-- Which access an agent handles: a part of a core's outstanding access, a draining journal entry of a core,
or a peer's request. -/
inductive AccRef where
  | pend (core id part : Nat)
  | jrn (core idx : Nat)
  | peer (r : PeerReq)
  deriving DecidableEq, Repr

/-- Kinds of chit (R352); `tlSet` and `tlAdd` are the two TL-UPDATEs, and `barInit` is what BARI sends to the record's
home slice (R37, R362). -/
inductive ChitKind where
  | release | depDecr | barArrive | barInit | byteArrive | tlSet | tlAdd | askReply | faultReply
  deriving DecidableEq, Repr

/-- A chit as it travels (R352): lane, context, object address and argument; `tdev`, `tdie` and `tcore` name the
target, `colour` the sender's colour (R463). -/
structure Chit where
  kind : ChitKind
  lane : Fin 8
  ctx : Ctx
  tdev : Nat
  tdie : Nat
  tcore : Nat
  region : BitVec 8
  off : Nat
  arg : W64
  colour : Bool
  /-- the die of the crier a release comes from (R437) -/
  die : Option Nat := none
  deriving DecidableEq, Repr

/-- A chit in flight within the device, by its place in the list of those sent, or one of another device, with the device and the
module core that sent it. -/
inductive ChitRef where
  | sent (k : Nat)
  | ext (dev core : Nat) (c : Chit)
  deriving DecidableEq, Repr

/-- A watch on its way to its slice, by its place, or one of a core of another device, whose successor `nxt` stands there (R365). -/
inductive WatchRef where
  | sent (k : Nat)
  | ext (dev core : Nat) (ctx : Ctx) (region : BitVec 8) (off : Nat) (threshold nxt : W64)
  deriving DecidableEq, Repr

/-- Classes of fabric traffic (R85). -/
inductive TClass where
  | ordered
  | adaptive
  | chit (lane : Fin 8)
  deriving DecidableEq, Repr

/-- Registers of region 0xFF that firmware writes and that have no row of their own (R18). -/
inductive FwReg where
  | migcfg
  | doubling
  | route (dest : Nat)
  | ownerCache (set way : Nat)
  | budTarget (cluster : Nat)
  | bellx (die : Nat)
  | dev
  /-- firmware reads a way of the owner cache, or the registers of a cluster (R18, R51, R470) -/
  | readOwner (set way : Nat)
  | readCluster (cluster : Nat)
  deriving DecidableEq, Repr

/-- A launch that travels between devices (R356, R358): a ready fan member for the module core `core`, or (not `ready`)
a launch through a key, which parks by its DEPS on the anchor's device; `src` is the issuing device, `prio` the effective
priority, `shape` the shape record's S offset and bytes. With `ended` it is the news, sent back to the issuing device, that an
instance of its launch number `launch` has ended (R431, log 16). -/
structure Launch where
  src : Nat
  ctx : Ctx
  tkt : Nat
  image : BitVec 512
  foot : Option (BitVec 1024)
  rank : Nat
  fansz : Nat
  core : Nat
  ready : Bool
  prio : Nat
  shape : Option (Nat × List (BitVec 8))
  launch : Nat := 0
  ended : Bool := false
  deriving DecidableEq, Repr

/-- What one device sends to another (R60, R85). -/
inductive OutMsg where
  | request (target : Nat) (r : PeerReq)
  /-- verdict 0 done, 1 REFUSED, 2 FATAL, 3 LINK; `tag` of the first 16-byte unit asked for; `ord`: to an ordered request -/
  | reply (dev core id : Nat) (data : List (BitVec 8)) (tag : Bool) (verdict : Nat) (ctx : Ctx) (ord : Bool)
  | redirect (dev core id : Nat) (data : List (BitVec 8)) (tag : Bool) (verdict : Nat) (ctx : Ctx) (page : Nat) (big : Bool)
      (owner : Nat) (gen : BitVec 32)
  | redirectOnly (dev core id : Nat) (ctx : Ctx) (page : Nat) (big : Bool) (owner : Nat) (gen : BitVec 32)
  | ownerUpdate (dev : Nat) (ctx : Ctx) (page : Nat) (big : Bool) (owner : Nat) (gen : BitVec 32) (idx : Nat)
  | ownerAck (dev : Nat) (ctx : Ctx) (idx : Nat)
  | misroute (dev core id : Nat) (ctx : Ctx) (page : Nat)
  | chit (c : Chit)
  | watch (dev : Nat) (ctx : Ctx) (region : BitVec 8) (off : Nat) (threshold nxt : W64) (lane : Fin 8)
  | launch (dev : Nat) (l : Launch)
  | install (dev : Nat) (ctx : Ctx) (page : Nat) (big : Bool) (perms : Nat) (gen : BitVec 32)
  /-- the bytes of a migrating page, which step 3 of R56 writes to the new frame -/
  | pageData (dev : Nat) (ctx : Ctx) (page : Nat) (big : Bool) (data : List (BitVec 8))
  | copyDone (dev : Nat) (ctx : Ctx) (page : Nat) (idx : Nat)
  /-- a region 0x03 access at the bridge device, already translated to a host physical address (R38, R90) -/
  | hostReq (dev : Nat) (r : PeerReq) (pa : Nat)
  deriving DecidableEq, Repr

/-- A packet in the router (R83): class, source, destination, hop count, intermediate, context, flits (R74), and the message
it carries; none for the traffic of other devices, whose contents this device does not see. -/
structure Packet where
  cls : TClass
  src : Nat
  dst : Nat
  hc : Nat
  im : Option Nat
  ctx : Ctx
  flits : Nat
  body : Option OutMsg
  /-- its flits already sent over the port it is queued at (R86) -/
  sent : Nat := 0
  deriving DecidableEq, Repr

/-- A message of this device that enters its router, by its place in the list of those sent; a packet queued at an output
port of this router, by its place; or one that arrives from a link. -/
inductive PacketRef where
  | own (k : Nat)
  | queued (k : Nat)
  | arrives (p : Packet)
  deriving DecidableEq, Repr

/-- A page as its new owner receives it: its size, and the bytes of its copy (R56). -/
structure PageCopy where
  big : Bool
  data : List Byte
  deriving DecidableEq, Repr

/-- A link that completes training: its port and, for a doubling port, the graph port of this device whose link the far end names for
it (R80). -/
structure Trained where
  port : Nat
  far : Nat
  deriving DecidableEq, Repr

/-- The close of a colour cut: the context, and the old-colour messages sent and received that its other devices have reported to the
host; of use only in a fabric (R463). -/
structure CutSums where
  ctx : Ctx
  sent : Nat
  recv : Nat
  deriving DecidableEq, Repr

/-- The end of a migration's copy: the migration by its place, and the code of a context-fatal treatment of the context at the new
owner, or 0 where the new owner reports the last byte performed (R56, R512). -/
structure CopyEnd where
  k : Nat
  dead : BitVec 8
  deriving DecidableEq, Repr

/-- A link that goes down: its port here, and the contexts of the packets on their way here (R75). -/
structure LostLink where
  port : Nat
  inbound : List Ctx
  deriving DecidableEq, Repr

/-- An uncorrectable error as its slice finds it: the slice, and the physical address, or 0 where it is not known (R97, R446). -/
structure EccAt where
  slice : Nat
  pa : Nat
  deriving DecidableEq, Repr

/-- A window stopped by BRK (R251). -/
structure StopRef where
  core : Nat
  wid : Nat
  deriving DecidableEq, Repr

/-- The instructions and steps, one constructor per row of spec/opcode_table.json. -/
inductive Instr where
  -- Integer arithmetic and logic (R227 to R231)
  | add (h : Hdr) (o : IntS)
  | sub (h : Hdr) (o : IntS)
  | mul (h : Hdr) (o : Int3)
  | mulh (h : Hdr) (o : Int3)
  | mulhz (h : Hdr) (o : Int3)
  | div (h : Hdr) (o : Int3)
  | divz (h : Hdr) (o : Int3)
  | rem (h : Hdr) (o : Int3)
  | remz (h : Hdr) (o : Int3)
  | and (h : Hdr) (o : Int3)
  | or (h : Hdr) (o : Int3)
  | xor (h : Hdr) (o : Int3)
  | andn (h : Hdr) (o : Int3)
  | orn (h : Hdr) (o : Int3)
  | shl (h : Hdr) (o : Int3)
  | shr (h : Hdr) (o : Int3)
  | sar (h : Hdr) (o : Int3)
  | rol (h : Hdr) (o : Int3)
  | clz (h : Hdr) (o : Int2)
  | ctz (h : Hdr) (o : Int2)
  | popc (h : Hdr) (o : Int2)
  | brev (h : Hdr) (o : Int2)
  | bfx (h : Hdr) (sx : Bool) (d a : SReg) (b : SI)
  | bfi (h : Hdr) (d a : SReg) (b : SI)
  | min (h : Hdr) (o : Int3)
  | max (h : Hdr) (o : Int3)
  | minz (h : Hdr) (o : Int3)
  | maxz (h : Hdr) (o : Int3)
  | abs (h : Hdr) (sat : Bool) (o : Int2)
  -- Moves, selection and predicates (R232 to R237)
  | sel (h : Hdr) (pidx : PReg) (pneg : Bool) (d a : SReg) (b : SI)
  | mov (h : Hdr) (p : MovPair)
  | movi (h : Hdr) (d : SReg) (v : LImm)
  | movh (h : Hdr) (d : SReg) (v : LImm)
  | cmp (h : Hdr) (wid : Wid) (c : Cond) (d : PReg) (a : SReg) (b : SI)
  | plog (h : Hdr) (tt : BitVec 4) (d a b : PReg)
  -- Floating point (R238 to R243)
  | scvt (h : Hdr) (rm : Rm) (ty sty : Ty) (uns : Bool) (d a : SReg)
  | fadd (h : Hdr) (o : F3)
  | fsub (h : Hdr) (o : F3)
  | fmul (h : Hdr) (o : F3)
  | fma (h : Hdr) (o : F3)
  | fdiv (h : Hdr) (o : F3)
  | fsqrt (h : Hdr) (rm : Rm) (dbl : Bool) (d a : SReg)
  | fmin (h : Hdr) (dbl : Bool) (d a b : SReg)
  | fmax (h : Hdr) (dbl : Bool) (d a b : SReg)
  | fcmp (h : Hdr) (dbl : Bool) (c : FCond) (d : PReg) (a b : SReg)
  -- Control (R244 to R253)
  | br (h : Hdr) (v : LImm)
  | bri (h : Hdr) (b : SReg)
  | call (h : Hdr) (vw : Fin 4) (v : LImm)
  | calli (h : Hdr) (vw : Fin 4) (b : SReg)
  | ret (h : Hdr)
  | loop (h : Hdr) (d : SReg) (v : LImm)
  | endT (h : Hdr)
  | nop (h : Hdr)
  | trap (h : Hdr) (v : BitVec 18)
  | brk (h : Hdr) (v : BitVec 18)
  | mfs (h : Hdr) (d : SReg) (n : BitVec 12)
  | mts (h : Hdr) (n : BitVec 12) (b : SL)
  -- Memory, keys, atomics, fences (R254 to R282)
  | ld (h : Hdr) (o : LdA)
  | ldc (h : Hdr) (o : LdA)
  | st (h : Hdr) (o : StA)
  | ldaq (h : Hdr) (sc : Scope) (o : LdA)
  | strl (h : Hdr) (sc : Scope) (o : StA)
  | ldb (h : Hdr) (ty : Ty) (uns : Bool) (d : SReg) (a : BuS) (b : SI)
  | stb (h : Hdr) (ty : Ty) (d : SI) (a : BuS) (b : SI)
  | ldk (h : Hdr) (d : KReg) (a : SK) (b : SI)
  | stk (h : Hdr) (d : KReg) (a : SK) (b : SI)
  | kder (h : Hdr) (pm : BitVec 6) (d a : KReg) (b : SI)
  | kprm (h : Hdr) (pm : BitVec 6) (d a : KReg)
  | kadr (h : Hdr) (set : Bool) (d a : KReg) (b : SI)
  | kget (h : Hdr) (f : KField) (d : SReg) (a : KReg)
  | ktst (h : Hdr) (pm : BitVec 6) (d : PReg) (a : KReg) (b : SI)
  | kseal (h : Hdr) (d a : KReg)
  | amo (h : Hdr) (sc : Scope) (ord : Order) (ty : Ty) (opc : AmoOp) (d : SReg) (a : SK) (b : SI)
  | cas (h : Hdr) (sc : Scope) (ord : Order) (ty : Ty) (d : SReg) (a : SK) (b : SI)
  | ldsc (h : Hdr) (o : LdA)
  | stsc (h : Hdr) (o : StA)
  | fence (h : Hdr) (w a s : Bool)
  | fenr (h : Hdr) (sc : Scope) (ord : Order) (b : SI)
  | phase (h : Hdr) (sc : Scope)
  | rgset (h : Hdr) (slot : Fin 16) (x : RgArg)
  | rgclr (h : Hdr) (b : SI)
  | rgrd (h : Hdr) (slot : Fin 16) (f : RField) (d : SReg)
  | pref (h : Hdr) (l2 : Bool) (a : SK) (b : SI)
  | jrd (h : Hdr) (f : JField) (d : SReg) (b : SI)
  | jack (h : Hdr) (b : SI)
  -- Vector (R283 to R312)
  | vadd (h : Hdr) (satm : SatM) (o : V3)
  | vsub (h : Hdr) (satm : SatM) (o : V3)
  | vmul (h : Hdr) (o : V3)
  | vma (h : Hdr) (o : V3)
  | vmin (h : Hdr) (uns : Bool) (o : V3)
  | vmax (h : Hdr) (uns : Bool) (o : V3)
  | vabs (h : Hdr) (sat : Bool) (o : V2)
  | vneg (h : Hdr) (sat : Bool) (o : V2)
  | vand (h : Hdr) (o : V3)
  | vor (h : Hdr) (o : V3)
  | vxor (h : Hdr) (o : V3)
  | vshl (h : Hdr) (o : V3)
  | vshr (h : Hdr) (o : V3)
  | vsar (h : Hdr) (o : V3)
  | vcmp (h : Hdr) (msk : MReg) (ty : Ty) (any : Bool) (c : VCond) (d : MReg) (a : VIdx) (b : Bc)
  | vsel (h : Hdr) (msk : MReg) (ty : Ty) (d a : VIdx) (b : Bc)
  | vcvt (h : Hdr) (msk : MReg) (ty sty : Ty) (zr ef cont : Bool) (d a : VIdx) (part : BitVec 18)
  | vred (h : Hdr) (msk : MReg) (ty : Ty) (opc : RedOp) (uns : Bool) (d : SReg) (a : VIdx)
  | vdot (h : Hdr) (msk : MReg) (ty : Ty) (acc : Bool) (d : SReg) (a b : VIdx)
  | vscan (h : Hdr) (opc : RedOp) (uns : Bool) (o : V2)
  | vperm (h : Hdr) (o : V2) (b : VIdx)
  | vshf (h : Hdr) (k : ShfOp) (o : V2) (b : SI)
  | vbc (h : Hdr) (msk : MReg) (ty : Ty) (zr : Bool) (d : VIdx) (b : SI)
  | vext (h : Hdr) (ty : Ty) (uns : Bool) (d : SReg) (a : VIdx) (b : SI)
  | vins (h : Hdr) (ty : Ty) (d : VIdx) (a : SReg) (b : SI)
  | vld (h : Hdr) (msk : MReg) (ty : Ty) (zr : Bool) (d : VIdx) (a : BuS) (b : SI)
  | vst (h : Hdr) (msk : MReg) (ty : Ty) (d : VIdx) (a : BuS) (b : SI)
  | vldx (h : Hdr) (msk : MReg) (ty : Ty) (zr : Bool) (part : Fin 8) (d : VIdx) (a : BuS) (b : VIdx)
  | vstx (h : Hdr) (msk : MReg) (ty : Ty) (part : Fin 8) (d : VIdx) (a : BuS) (b : VIdx)
  | vldg (h : Hdr) (msk : MReg) (ty : Ty) (zr : Bool) (d : VIdx) (x : VldgArg)
  | vstg (h : Hdr) (msk : MReg) (ty : Ty) (d : VIdx) (a : SK) (b : SI)
  | vexp (h : Hdr) (o : V2)
  | vlog (h : Hdr) (o : V2)
  | vrcp (h : Hdr) (o : V2)
  | vrsq (h : Hdr) (o : V2)
  | vcmul (h : Hdr) (o : VC)
  | vcma (h : Hdr) (o : VC)
  | vclmp (h : Hdr) (uns : Bool) (o : V2) (b : SReg)
  | mkand (h : Hdr) (d a b : MReg)
  | mkor (h : Hdr) (d a b : MReg)
  | mkxor (h : Hdr) (d a b : MReg)
  | mknot (h : Hdr) (d a : MReg)
  | mkpop (h : Hdr) (d : SReg) (a : MReg)
  | mkset (h : Hdr) (first : Bool) (d : MReg) (b : SI)
  -- Matrix (R313 to R346)
  | mzero (h : Hdr) (cm : Option CellMode) (d : SI)
  | mpass (h : Hdr) (o : MP)
  | mpassc (h : Hdr) (cj : Bool) (o : MP)
  | mpassr (h : Hdr) (ty bty : Ty) (d : SI) (a : KReg) (b : BuS)
  | mscale (h : Hdr) (d : SI) (a b : BuS)
  | mdrain (h : Hdr) (ty : Ty) (ef hd : Bool) (hpri : Fin 8) (d : BuS) (a : SI)
  | mpack (h : Hdr) (ty : Ty) (d a b : BuS)
  | mtrn (h : Hdr) (ty : Ty) (d a : BuS) (b : SI)
  | mcopy (h : Hdr) (d a : SI)
  | mstat (h : Hdr) (d : SReg) (n : BitVec 18)
  | mclr (h : Hdr) (b : SI)
  | mcfg (h : Hdr) (b : SI)
  | mcancel (h : Hdr)
  | mrowdone (h : Hdr)
  -- Tasks, engines, system (R348 to R385)
  | spawn (h : Hdr) (d : Option BuS) (a : SK) (b : SI)
  | chit (h : Hdr) (kind : ChitSel) (cp : Fin 8) (cpv : Bool) (d : SI) (a : SK) (b : SI)
  | claim (h : Hdr) (b : SI)
  | unclaim (h : Hdr) (b : SI)
  | bari (h : Hdr) (a : SK) (b : SI)
  | bara (h : Hdr) (sc : Scope) (a : SK) (b : SI)
  | tlset (h : Hdr) (sc : Scope) (d : SI) (a : SK) (b : SI)
  | tladd (h : Hdr) (sc : Scope) (d : SI) (a : SK) (b : SI)
  | tlwatch (h : Hdr) (d : SI) (a : SK) (b : SI)
  | ask (h : Hdr) (dev : Bool) (d : BuS) (b : SI)
  | crinit (h : Hdr) (dev : Bool) (a : BuS) (b : SI)
  | copy (h : Hdr) (dring sring xf : Bool) (hpri : Fin 8) (dbuf sbuf : Bool) (d a : CopyOp) (b : SI)
  | copyc (h : Hdr) (a : BuS)
  | bbinit (h : Hdr) (d : BuS) (a b : SI)
  | rcfg (h : Hdr) (a : SReg) (b : SI)
  | rget (h : Hdr) (b : SI)
  | rgetFill (h : Hdr) (b : SI)
  | rput (h : Hdr) (b : SI)
  | rputFill (h : Hdr) (b : SI)
  | psub (h : Hdr) (d : BuS) (a : SK) (b : SI)
  | pdrop (h : Hdr) (b : SI)
  | svc (h : Hdr) (n : BitVec 18)
  | eret (h : Hdr)
  | ctxsave (h : Hdr) (d a b : SReg)
  | ctxload (h : Hdr) (a b : SReg)
  | nispill (h : Hdr) (d a b : SReg)
  | succ (h : Hdr) (x : SuccArg)
  | lput (h : Hdr)
  -- Steps of the core and its journal
  | swMarkerResume (core : Nat)
  | loadReply (core id : Nat) (ext : Option (Nat × List Byte × Bool × Nat))
  | issueStallRelease (core : Nat)
  | journalOpenTimeout (core idx : Nat)
  | journalEmit (core idx : Nat)
  | deferredEmit (core k : Nat)
  | journalAck (core idx : Nat)
  | storeRefused (core idx : Nat)
  | refusedTrapDelivery (core : Nat)
  -- Steps of the slices
  | sliceLoad (x : AccRef)
  | sliceStoreDrain (x : AccRef)
  | atomicPort (slice : Nat) (mesh : Option (Nat × Nat)) (fabric : Option PeerReq)
  | pageWalkDone (slice k : Nat)
  | pageFaultMessage (slice k : Nat) (resume : Bool)
  | faultReply (slice k : Nat)
  | uncorrectableError (ctx : Ctx) (found : EccAt)
  -- Migration
  | migrationCopyDone (copy : CopyEnd)
  | migrationNotice (ctx : Ctx) (page : Nat) (copy : PageCopy)
  | stubRequest (r : PeerReq)
  | stubReply (k : Nat) (data : List Byte) (tag : Bool) (verdict : Nat) (later : Option (Nat × BitVec 32 × Bool))
  | reclamationScan (idx : Nat)
  | ownerAck (idx : Nat)
  | stubDrainTimeout (idx : Nat)
  | redirect (x : AccRef) (data : List Byte) (tag : Bool) (verdict : Nat) (owner : Nat) (gen : BitVec 32) (big : Bool)
  | redirectOnly (x : AccRef) (owner : Nat) (gen : BitVec 32) (big : Bool)
  | redirectOnlyReissue (x : AccRef)
  | ownerUpdate (ctx : Ctx) (page : Nat) (big : Bool) (owner : Nat) (gen : BitVec 32) (stubDev stubIdx : Nat)
  | ownerAckSend (k : Nat)
  | egressRelease (x : AccRef)
  | misroute (x : AccRef)
  | directoryAnswer (x : AccRef) (owner : Option (Nat × BitVec 32 × Bool))
  -- Fabric
  | flitCrcFail (port : Nat)
  | linkDown (link : LostLink)
  | packetHop (x : PacketRef)
  | fabcfgWrite (v : W64)
  | windowAccess (x : AccRef)
  -- Rings, copies, matrix jobs
  | farSideInAdvance (core ring slot : Nat)
  | farSideOutAdvance (core ring : Nat)
  | pdropDone (core ring : Nat)
  | copyJobStart (core job : Nat)
  | copyPacketIssue (core job k : Nat)
  | copyPacketPerformed (core job k : Nat)
  | copyJobComplete (core job : Nat)
  | landingStage (core job k : Nat)
  | matrixJobStart (core : Nat)
  | matrixSlabCommit (core : Nat)
  | matrixRowCommit (core : Nat)
  | matrixJobComplete (core : Nat)
  | mpassrFetchArrival (core job run : Nat)
  | rowStage (core job : Nat)
  -- Waits that end
  | fenceDone (core : Nat)
  | phaseDone (core : Nat)
  | fenrDone (core : Nat)
  | endDrainDone (core : Nat)
  | spawnReadDone (core : Nat)
  | mstatDone (core : Nat)
  | mcancelDone (core : Nat)
  | ctxsaveDone (core : Nat)
  | ctxloadDone (core : Nat)
  | brkReply (stop : StopRef) (resume : Bool)
  | scAnnounce
  | scDeliver (core id : Nat)
  -- Chits and the crier
  | releaseChit (x : ChitRef)
  | depDecr (die : Nat) (k : Nat)
  | barArrive (x : ChitRef)
  | byteArrive (x : ChitRef)
  | tlUpdate (x : ChitRef)
  | watchArrival (x : WatchRef)
  | askArrival (k : Nat)
  | askReply (k : Nat)
  | crinitArrival (core : Nat)
  | crierAnswer (core : Nat)
  -- The Exchange
  | launchArrival (l : Launch)
  | creation (die : Nat)
  | ticketReadDone (die : Nat)
  | dispatch (die : Nat)
  | bell (die : Nat)
  | occupancyRefresh (die : Nat)
  | walkHop (k : Nat)
  | bounceReturn (k : Nat)
  | barrowTimeout (core k : Nat)
  | admission (core : Nat)
  | contextFatal (ctx : Ctx) (code : BitVec 8) (detail : W64)
  | cutClose (cut : CutSums)
  -- Power
  | powerLoop (targets : List (Nat × Nat)) (retain : List Nat)
  | budWrite (cluster value : Nat)
  | retreqSet (cluster : Nat)
  | retreqClear (cluster : Nat)
  | sensorRead (cluster : Nat)
  | exchangeStatusRead (die : Nat)
  | arbiterBoundary (cluster : Nat)
  | vectorIdleTimeout (core : Nat)
  | retentionEntryStart (cluster : Nat)
  | retentionEntryDone (cluster : Nat)
  | retentionExitDone (cluster : Nat) (parityOk : Bool)
  -- Host queues and firmware commands
  | submissionAccept (q : Nat)
  | ticketSubmission (q : Nat)
  | ctxnew (q : Nat)
  | ctxkill (q : Nat)
  | mapPage (q : Nat)
  | alloc (q : Nat)
  | awning (q : Nat)
  | faultvec (q : Nat)
  | keyput (q : Nat)
  | evict (q : Nat)
  | restore (q : Nat)
  | migrate (q : Nat) (peerStatus : Nat)
  | qcreate (q : Nat)
  | qreset (q : Nat)
  | attest (q : Nat)
  | lifecycle (q : Nat)
  | eventWrite (q : Nat)
  | moduleReset
  | registerWrite (r : FwReg) (value : Nat)
  | linkTrained (link : Trained)
  | migrationInstall (ctx : Ctx) (page : Nat) (big : Bool) (perms : Fin 16) (gen : BitVec 32) (oldOwner frame : Nat)
  deriving DecidableEq, Repr

end Sys2Proof
end

