-- ==== Sys2Proof/WellFormed.lean ====
section
/-! DEFINITION. WellFormed.lean: which terms of `Instr` stand for a word the decoder accepts (R201 to R205 and the
MOD layout of each instruction), as a Bool. A step of another agent is well formed when its numbers name something the
module has. -/

namespace Sys2Proof

namespace Ty

/-- Codes 0 to 3: the types UNS applies to (R256). -/
def isScalarInt : Ty → Bool
  | .i8 | .i16 | .i32 | .i64 => true
  | _ => false

/-- The types the data instructions accept (R256). -/
def isMem : Ty → Bool
  | .i4 | .ci4 | .ci8 => false
  | _ => true

/-- `Int` of R290. -/
def isVInt : Ty → Bool
  | .i8 | .i16 | .i32 => true
  | _ => false

/-- `Flt` of R290. -/
def isVFlt : Ty → Bool
  | .bf16 | .f16 | .f32 => true
  | _ => false

/-- `Num` of R290. -/
def isVNum (t : Ty) : Bool := t.isVInt || t.isVFlt

/-- `Wd` of R290. -/
def isVWd : Ty → Bool
  | .i64 | .i4 | .f64 => false
  | _ => true

/-- The types VCVT pairs freely (R296). -/
def isCvtReal : Ty → Bool
  | .i4 | .i8 | .i16 | .i32 | .bf16 | .f16 | .f32 | .mk8 => true
  | _ => false

/-- The complex types. -/
def isComplex : Ty → Bool
  | .ci4 | .ci8 => true
  | _ => false

/-- The targets of EF (R297). -/
def isEf : Ty → Bool
  | .bf16 | .f16 | .mk8 | .i8 | .i4 => true
  | _ => false

/-- Types of AMO (R256). -/
def isAmo : Ty → Bool
  | .i32 | .i64 | .f32 => true
  | _ => false

/-- Types of CAS (R256). -/
def isCas : Ty → Bool
  | .i32 | .i64 => true
  | _ => false

/-- Types of SCVT (R242). -/
def isScvt : Ty → Bool
  | .i4 | .ci4 | .ci8 => false
  | _ => true

/-- Floating operand types of a pass (R328). -/
def isPassF : Ty → Bool
  | .bf16 | .f16 | .mk8 => true
  | _ => false

/-- Integer operand types of a pass (R328). -/
def isPassI : Ty → Bool
  | .i8 | .i4 => true
  | _ => false

/-- Types MPACK accepts (R340). -/
def isPack : Ty → Bool
  | .bf16 | .f16 | .mk8 | .i8 | .i4 | .ci8 | .ci4 => true
  | _ => false

/-- Types MTRN accepts (R343). -/
def isTrn : Ty → Bool
  | .i64 | .i4 | .f64 => false
  | _ => true

/-- Lane width in bits (R178, R283). -/
def width : Ty → Nat
  | .i8 | .mk8 | .ci4 => 8
  | .i16 | .bf16 | .f16 | .ci8 => 16
  | .i32 | .f32 => 32
  | .i64 | .f64 => 64
  | .i4 => 4

/-- `k` of R296: how many parts a conversion between two types has. -/
def ratio (a b : Ty) : Nat := Nat.max a.width b.width / Nat.min a.width b.width

end Ty

/-- An immediate broadcast operand needs an Int type (R291). -/
def Bc.ok (t : Ty) : Bc → Bool
  | .imm _ => t.isVInt
  | _ => true

/-- An immediate of VBC needs an Int type (R291). -/
def SI.okFor (t : Ty) : SI → Bool
  | .imm _ => t.isVInt
  | .reg _ => true

/-- The vector index of an operand lies below the window's count (R162, R203). -/
def Bc.below (n : Nat) : Bc → Bool
  | .v r => r.val < n
  | _ => true

def LdA.ok (o : LdA) : Bool := o.ty.isMem && (!o.uns || o.ty.isScalarInt)

def V3.ok (o : V3) (t : Ty → Bool) : Bool := t o.ty && o.b.ok o.ty

/-- The types and shift VCMUL and VCMA accept (R290, R302). -/
def VC.ok (o : VC) : Bool :=
  (o.ty.isVFlt && o.sh.val == 0) || (o.ty == .ci8 && o.sh.val ≤ 7) || (o.ty == .ci4 && o.sh.val ≤ 3)

def MP.okReal (o : MP) : Bool :=
  (o.ty.isPassF && o.bty.isPassF) || (o.ty.isPassI && o.bty.isPassI)

/-- AMO and CAS of order SC take scope DEVICE only (R272). -/
def scOk (ord : Order) (sc : Scope) : Bool := ord != .sc || sc == .device

/-- The condition VCMP takes with a type (R294). -/
def VCond.ok (t : Ty) : VCond → Bool
  | .int _ => t.isVInt
  | .flt _ => t.isVFlt

/-- COPY's kind bits agree with its operand (R349). -/
def CopyOp.ok (o : CopyOp) (ring buf : Bool) : Bool :=
  match o with
  | .s _ => !(ring && buf)
  | _ => !ring && !buf

/-- An optional field cannot name s0 (R203). -/
def optBuSOk : Option BuS → Bool
  | some (.s r) => r.val != 0
  | _ => true

/-- Well-formedness of a word's MOD fields and operands; a step is checked where it takes place. -/
def Instr.wf : Instr → Bool
  | .scvt _ rm ty sty uns _ _ =>
      ty.isScvt && sty.isScvt && (!uns || ty.isScalarInt || sty.isScalarInt)
        && (rm == .rne || (ty != .mk8 && sty != .mk8))
  | .ld _ o | .ldc _ o | .ldsc _ o => o.ok
  | .ldaq _ _ o => o.ok
  | .st _ o | .stsc _ o => o.ty.isMem
  | .strl _ _ o => o.ty.isMem
  | .ldb _ ty uns _ _ _ => ty.isMem && (!uns || ty.isScalarInt)
  | .stb _ ty _ _ _ => ty.isMem
  | .amo _ sc ord ty opc _ _ _ =>
      ty.isAmo && scOk ord sc && (ty != .f32 || (opc != .and && opc != .or && opc != .xor))
  | .cas _ sc ord ty d _ _ => ty.isCas && scOk ord sc && d.val % 2 == 0
  | .fence _ w a s => w || a || s
  | .fenr _ _ ord _ => ord == .acq || ord == .rel || ord == .ar
  | .vadd _ s o | .vsub _ s o => o.ok Ty.isVNum && (s == .wrap || o.ty.isVInt)
  | .vmul _ o | .vma _ o => o.ok Ty.isVNum
  | .vmin _ u o | .vmax _ u o => o.ok Ty.isVNum && (!u || o.ty.isVInt)
  | .vabs _ _ o | .vneg _ _ o => o.ty.isVNum
  | .vand _ o | .vor _ o | .vxor _ o | .vshl _ o | .vshr _ o | .vsar _ o => o.ok Ty.isVInt
  | .vcmp _ _ ty _ c _ _ b => c.ok ty && b.ok ty
  | .vsel _ _ ty _ _ b => ty.isVWd && b.ok ty
  | .vcvt _ _ ty sty _ ef cont _ _ part =>
      ((ty.isCvtReal && sty.isCvtReal) || (ty.isComplex && sty.isComplex))
        && (!ef || (sty == .f32 && ty.isEf)) && (!cont || ef) && part.toNat < Ty.ratio ty sty
  | .vred _ _ ty _ _ _ _ => ty.isVNum
  | .vdot _ _ ty _ d _ _ => ty.isVFlt && d.val % 2 == 0
  | .vscan _ _ _ o => o.ty.isVNum
  | .vperm _ o _ => o.ty.isVWd
  | .vshf _ _ o _ => o.ty.isVWd
  | .vbc _ _ ty _ _ b => ty.isVWd && b.okFor ty
  | .vext _ ty _ _ _ _ | .vins _ ty _ _ _ => ty.isVWd
  | .vld _ _ ty _ _ _ _ | .vst _ _ ty _ _ _ => ty.isVWd
  | .vldx _ _ ty _ p _ _ _ | .vstx _ _ ty p _ _ _ => ty.isVWd && p.val < 32 / ty.width
  | .vldg _ _ ty _ _ _ | .vstg _ _ ty _ _ _ => ty.isVWd
  | .vexp _ o | .vlog _ o | .vrcp _ o | .vrsq _ o => o.ty.isVFlt
  | .vcmul _ o | .vcma _ o => o.ok
  | .vclmp _ u o _ => o.ty.isVNum && (!u || o.ty.isVInt)
  | .mpass _ o => o.okReal
  | .mpassc _ _ o => o.ty.isComplex && o.bty.isComplex
  | .mpassr _ ty bty _ _ _ => (ty.isPassF && bty.isPassF) || (ty.isPassI && bty.isPassI)
  | .mdrain _ ty _ _ _ _ _ => ty != .f64
  | .mpack _ ty _ _ _ => ty.isPack
  | .mtrn _ ty _ _ _ => ty.isTrn
  | .spawn _ d _ _ => optBuSOk d
  | .copy _ dring sring _ _ dbuf sbuf d a _ => d.ok dring dbuf && a.ok sring sbuf
  -- Every other word admits every value of its fields.
  | .add .. | .sub .. | .mul .. | .mulh .. | .mulhz .. | .div .. | .divz .. | .rem .. | .remz .. | .and .. | .or ..
  | .xor .. | .andn .. | .orn .. | .shl .. | .shr .. | .sar .. | .rol .. | .clz .. | .ctz .. | .popc .. | .brev ..
  | .bfx .. | .bfi .. | .min .. | .max .. | .minz .. | .maxz .. | .abs .. | .sel .. | .mov .. | .movi .. | .movh ..
  | .cmp .. | .plog .. | .fadd .. | .fsub .. | .fmul .. | .fma .. | .fdiv .. | .fsqrt .. | .fmin .. | .fmax ..
  | .fcmp .. | .br .. | .bri .. | .call .. | .calli .. | .ret .. | .loop .. | .endT .. | .nop .. | .trap .. | .brk ..
  | .ldk .. | .stk .. | .kder .. | .kprm .. | .kadr .. | .kget .. | .ktst .. | .kseal .. | .phase .. | .rgset ..
  | .rgclr .. | .rgrd .. | .pref .. | .jrd .. | .jack .. | .mkand .. | .mkor .. | .mkxor .. | .mknot .. | .mkpop ..
  | .mkset .. | .mzero .. | .mscale .. | .mcopy .. | .mstat .. | .mclr .. | .mcfg .. | .mcancel .. | .mrowdone ..
  | .chit .. | .claim .. | .unclaim .. | .bari .. | .bara .. | .tlset .. | .tladd .. | .tlwatch .. | .ask ..
  | .crinit .. | .copyc .. | .bbinit .. | .rcfg .. | .rget .. | .rgetFill .. | .rput .. | .rputFill .. | .psub ..
  | .pdrop .. | .svc .. | .eret .. | .ctxsave .. | .ctxload .. | .nispill .. | .succ .. | .lput .. => true
  | .mfs _ _ n | .mts _ n _ =>
      -- The assigned numbers of R216.
      let k := n.toNat
      k < 0x00A || (0x010 ≤ k && k < 0x015) || (0x020 ≤ k && k < 0x022) || (0x024 ≤ k && k < 0x028)
        || (0x030 ≤ k && k < 0x035) || (0x040 ≤ k && k < 0x070)
  | .redirect x _ _ _ _ _ _ | .redirectOnly x _ _ _ | .redirectOnlyReissue x | .egressRelease x | .misroute x
  | .directoryAnswer x _ =>
      match x with
      | .pend c _ _ => c < 768
      | .jrn c i => c < 768 && i < 128
      | .peer _ => false
  -- Steps of other agents: cores, slices, clusters, dies, queues and ports the module has (R3, R5, R73, R484).
  | .swMarkerResume c | .loadReply c _ _ | .issueStallRelease c | .journalOpenTimeout c _ | .journalEmit c _
  | .deferredEmit c _ | .journalAck c _ | .storeRefused c _ | .refusedTrapDelivery c
  | .farSideInAdvance c _ _ | .farSideOutAdvance c _ | .pdropDone c _ | .copyJobStart c _
  | .copyPacketIssue c _ _ | .copyPacketPerformed c _ _ | .copyJobComplete c _ | .landingStage c _ _
  | .matrixJobStart c | .matrixSlabCommit c | .matrixRowCommit c | .matrixJobComplete c
  | .mpassrFetchArrival c _ _ | .rowStage c _ | .fenceDone c | .phaseDone c | .fenrDone c | .endDrainDone c
  | .spawnReadDone c | .mstatDone c | .mcancelDone c | .ctxsaveDone c | .ctxloadDone c | .brkReply ⟨c, _⟩ _
  | .scDeliver c _ | .crinitArrival c | .crierAnswer c | .barrowTimeout c _ | .admission c | .vectorIdleTimeout c =>
      c < 768
  | .atomicPort s _ _ | .pageWalkDone s _ | .pageFaultMessage s _ _ | .faultReply s _ => s < 192
  | .flitCrcFail p | .linkDown ⟨p, _⟩ | .linkTrained ⟨p, _⟩ => p < 48
  | .depDecr d _ | .creation d | .ticketReadDone d | .dispatch d | .bell d | .occupancyRefresh d
  | .exchangeStatusRead d => d < 4
  | .budWrite c _ | .retreqSet c | .retreqClear c | .sensorRead c | .arbiterBoundary c | .retentionEntryStart c
  | .retentionEntryDone c | .retentionExitDone c _ => c < 192
  | .submissionAccept q | .ticketSubmission q | .ctxnew q | .ctxkill q | .mapPage q | .alloc q | .awning q
  | .faultvec q | .keyput q | .evict q | .restore q | .migrate q _ | .qcreate q | .qreset q | .attest q
  | .lifecycle q | .eventWrite q => q < 16
  | .reclamationScan i | .ownerAck i | .stubDrainTimeout i => i < 16384
  | .sliceLoad _ | .sliceStoreDrain _ | .uncorrectableError _ _ | .migrationCopyDone _ | .migrationNotice ..
  | .stubRequest _ | .stubReply .. | .ownerUpdate .. | .ownerAckSend _ | .packetHop _ | .fabcfgWrite _
  | .windowAccess _ | .scAnnounce | .releaseChit _ | .barArrive _ | .byteArrive _ | .tlUpdate _ | .watchArrival _
  | .askArrival _ | .askReply _ | .launchArrival _ | .walkHop _ | .bounceReturn _ | .contextFatal _ _ _
  | .cutClose _ | .powerLoop _ _ | .moduleReset | .registerWrite _ _ | .migrationInstall .. => true

end Sys2Proof
end

