-- ==== Sys2Proof/Decode.lean ====
section
/-! DEFINITION. Decode.lean: the decoder of the 96-bit word (R199 to R216), total on every number, and after it the
encoder written from the same tables. The decoder answers by name: an instruction, ILLEGAL or PRIV (R213). Fields are
cut out of the word by division and remainder, bit 0 being the least significant bit (R15, R199). -/

namespace Sys2Proof

/-- Why a word is not executed (R213). -/
inductive DecErr where
  /-- steps 1 to 5 of R213 -/
  | illegal
  /-- step 6 of R213 -/
  | priv
  deriving DecidableEq, Repr

/-- The word cut into the fields of R199. -/
structure Raw where
  h : Hdr
  op : Nat
  b77 : Nat
  mod : Nat
  d : Nat
  a : Nat
  b : Nat
  deriving DecidableEq, Repr

/-- The `n` bits of `w` from bit `lo` up. -/
def field (w lo n : Nat) : Nat := w / 2 ^ lo % 2 ^ n

/-- The fields of a word (R199). -/
def unpack (w : Nat) : Raw where
  h := { sw := field w 95 1 == 1
         g := Fin.ofNat 8 (field w 92 3)
         gn := field w 91 1 == 1
         pcl := Fin.ofNat 4 (field w 81 2)
         ra := field w 80 1 == 1
         rb := field w 79 1 == 1
         nt := field w 78 1 == 1 }
  op := field w 83 8
  b77 := field w 77 1
  mod := field w 63 14
  d := field w 42 21
  a := field w 21 21
  b := field w 0 21

/-- The word of a header, an opcode, MOD and three operand fields (R199). -/
def pack (h : Hdr) (op mod d a b : Nat) : Nat :=
  b + 2 ^ 21 * a + 2 ^ 42 * d + 2 ^ 63 * mod + 2 ^ 78 * bit h.nt + 2 ^ 79 * bit h.rb + 2 ^ 80 * bit h.ra
    + 2 ^ 81 * h.pcl.val + 2 ^ 83 * op + 2 ^ 91 * bit h.gn + 2 ^ 92 * h.g.val + 2 ^ 95 * bit h.sw

/-! ### Operand fields (R201 to R203): kind in [20:18], payload in [17:0] -/

/-- A kind and its payload as a field. -/
def mkF (kind payload : Nat) : Nat := 2 ^ 18 * kind + payload

def decIdx (n kind f : Nat) : Option (Fin n) :=
  if h : f % 2 ^ 18 < n then (if f / 2 ^ 18 = kind then some ⟨f % 2 ^ 18, h⟩ else none) else none

def decS (f : Nat) : Option SReg := decIdx 16 0 f
/-- A vector register below the window's count `vn` (R162, R203). -/
def decV (vn f : Nat) : Option VIdx :=
  match decIdx 16 1 f with
  | some r => if r.val < vn then some r else none
  | none => none
def decP (f : Nat) : Option PReg := decIdx 8 2 f
def decM (f : Nat) : Option MReg :=
  if 8 ≤ f % 2 ^ 18 then decIdx 8 2 (f - 8) else none
def decK (f : Nat) : Option KReg := decIdx 8 3 f
def decSys (f : Nat) : Option (BitVec 12) := (decIdx 4096 4 f).map fun n => BitVec.ofNat 12 n.val
def decBu (f : Nat) : Option (Fin 4 × BitVec 16) :=
  if f / 2 ^ 18 = 5 then some (Fin.ofNat 4 (f / 2 ^ 16 % 4), BitVec.ofNat 16 (f % 2 ^ 16)) else none
def decI (f : Nat) : Option (BitVec 18) :=
  if f / 2 ^ 18 = 6 then some (BitVec.ofNat 18 (f % 2 ^ 18)) else none
def decSI (f : Nat) : Option SI :=
  match decS f with
  | some r => some (.reg r)
  | none => (decI f).map .imm
def decSK (f : Nat) : Option SK :=
  match decS f with
  | some r => some (.s r)
  | none => (decK f).map .k
def decBuS (f : Nat) : Option BuS :=
  match decS f with
  | some r => some (.s r)
  | none => (decBu f).map fun x => .bu x.1 x.2
def decBc (vn f : Nat) : Option Bc :=
  match decS f with
  | some r => some (.s r)
  | none =>
    match decV vn f with
    | some r => some (.v r)
    | none => (decI f).map .imm
def decCopyOp (f : Nat) : Option CopyOp :=
  match decS f with
  | some r => some (.s r)
  | none =>
    match decK f with
    | some r => some (.k r)
    | none => (decBu f).map fun x => .bu x.1 x.2
/-- An immediate of kind 110 with A zero, or of kind 111 with its high bits in A (R202). -/
def decLImm (a b : Nat) : Option LImm :=
  if b / 2 ^ 18 = 7 then some (.long (BitVec.ofNat 39 (2 ^ 18 * a + b % 2 ^ 18)))
  else if a = 0 then (decI b).map .short else none
def decSL (a b : Nat) : Option SL :=
  match decS b with
  | some r => if a = 0 then some (.reg r) else none
  | none => (decLImm a b).map .imm
/-- A field the instruction does not use must be zero (R203). -/
def decZ (f : Nat) : Option Unit := if f = 0 then some () else none

def encS (r : SReg) : Nat := r.val
def encV (r : VIdx) : Nat := mkF 1 r.val
def encP (r : PReg) : Nat := mkF 2 r.val
def encM (r : MReg) : Nat := mkF 2 (8 + r.val)
def encK (r : KReg) : Nat := mkF 3 r.val
def encSys (n : BitVec 12) : Nat := mkF 4 n.toNat
def encBu (buf : Fin 4) (off : BitVec 16) : Nat := mkF 5 (2 ^ 16 * buf.val + off.toNat)
def encI (v : BitVec 18) : Nat := mkF 6 v.toNat
def encSI : SI → Nat
  | .reg r => encS r
  | .imm v => encI v
def encSK : SK → Nat
  | .s r => encS r
  | .k r => encK r
def encBuS : BuS → Nat
  | .s r => encS r
  | .bu b o => encBu b o
def encBc : Bc → Nat
  | .s r => encS r
  | .v r => encV r
  | .imm v => encI v
def encCopyOp : CopyOp → Nat
  | .s r => encS r
  | .k r => encK r
  | .bu b o => encBu b o
/-- The A field of an immediate. -/
def encLA : LImm → Nat
  | .short _ => 0
  | .long v => v.toNat / 2 ^ 18
/-- The B field of an immediate. -/
def encLB : LImm → Nat
  | .short v => encI v
  | .long v => mkF 7 (v.toNat % 2 ^ 18)
def encSLA : SL → Nat
  | .reg _ => 0
  | .imm v => encLA v
def encSLB : SL → Nat
  | .reg r => encS r
  | .imm v => encLB v

/-! ### Codes of MOD fields -/

/-- WID (R227). -/
def Wid.code : Wid → Nat
  | .w64 => 0
  | .w32 => 1
  | .w16 => 2
  | .w8 => 3

def Wid.ofCode : Nat → Option Wid
  | 0 => some .w64
  | 1 => some .w32
  | 2 => some .w16
  | 3 => some .w8
  | _ => none

/-- SATM (R227). -/
def SatM.code : SatM → Nat
  | .wrap => 0
  | .ss => 1
  | .us => 2

def SatM.ofCode : Nat → Option SatM
  | 0 => some .wrap
  | 1 => some .ss
  | 2 => some .us
  | _ => none

/-- TYPE (R205). -/
def Ty.code : Ty → Nat
  | .i8 => 0
  | .i16 => 1
  | .i32 => 2
  | .i64 => 3
  | .i4 => 4
  | .bf16 => 5
  | .f16 => 6
  | .f32 => 7
  | .f64 => 8
  | .mk8 => 9
  | .ci4 => 10
  | .ci8 => 11

def Ty.ofCode : Nat → Option Ty
  | 0 => some .i8
  | 1 => some .i16
  | 2 => some .i32
  | 3 => some .i64
  | 4 => some .i4
  | 5 => some .bf16
  | 6 => some .f16
  | 7 => some .f32
  | 8 => some .f64
  | 9 => some .mk8
  | 10 => some .ci4
  | 11 => some .ci8
  | _ => none

/-- RM (R238). -/
def Rm.code : Rm → Nat
  | .rne => 0
  | .rtz => 1
  | .rdn => 2
  | .rup => 3

def Rm.ofCode : Nat → Option Rm
  | 0 => some .rne
  | 1 => some .rtz
  | 2 => some .rdn
  | 3 => some .rup
  | _ => none

/-- SCOPE (R14). -/
def Scope.code : Scope → Nat
  | .task => 0
  | .issue => 1
  | .core => 2
  | .cluster => 3
  | .die => 4
  | .device => 5
  | .group => 6
  | .domain => 7
  | .system => 8

def Scope.ofCode : Nat → Option Scope
  | 0 => some .task
  | 1 => some .issue
  | 2 => some .core
  | 3 => some .cluster
  | 4 => some .die
  | 5 => some .device
  | 6 => some .group
  | 7 => some .domain
  | 8 => some .system
  | _ => none

/-- ORDER (R204). -/
def Order.code : Order → Nat
  | .rlx => 0
  | .acq => 1
  | .rel => 2
  | .ar => 3
  | .sc => 4

def Order.ofCode : Nat → Option Order
  | 0 => some .rlx
  | 1 => some .acq
  | 2 => some .rel
  | 3 => some .ar
  | 4 => some .sc
  | _ => none

/-- COND of CMP (R236). -/
def Cond.code : Cond → Nat
  | .eq => 0
  | .ne => 1
  | .lt => 2
  | .le => 3
  | .gt => 4
  | .ge => 5
  | .ltu => 6
  | .leu => 7
  | .gtu => 8
  | .geu => 9
  | .tst => 10
  | .ntst => 11

def Cond.ofCode : Nat → Option Cond
  | 0 => some .eq
  | 1 => some .ne
  | 2 => some .lt
  | 3 => some .le
  | 4 => some .gt
  | 5 => some .ge
  | 6 => some .ltu
  | 7 => some .leu
  | 8 => some .gtu
  | 9 => some .geu
  | 10 => some .tst
  | 11 => some .ntst
  | _ => none

/-- COND of FCMP (R241). -/
def FCond.code : FCond → Nat
  | .eq => 0
  | .ne => 1
  | .lt => 2
  | .le => 3
  | .gt => 4
  | .ge => 5
  | .un => 6
  | .or => 7

def FCond.ofCode : Nat → Option FCond
  | 0 => some .eq
  | 1 => some .ne
  | 2 => some .lt
  | 3 => some .le
  | 4 => some .gt
  | 5 => some .ge
  | 6 => some .un
  | 7 => some .or
  | _ => none

/-- OPC of AMO (R255). -/
def AmoOp.code : AmoOp → Nat
  | .swap => 0
  | .add => 1
  | .and => 2
  | .or => 3
  | .xor => 4
  | .min => 5
  | .max => 6

def AmoOp.ofCode : Nat → Option AmoOp
  | 0 => some .swap
  | 1 => some .add
  | 2 => some .and
  | 3 => some .or
  | 4 => some .xor
  | 5 => some .min
  | 6 => some .max
  | _ => none

/-- KF (R255). -/
def KField.code : KField → Nat
  | .off => 0
  | .base => 1
  | .len => 2
  | .attr => 3
  | .hi => 4

def KField.ofCode : Nat → Option KField
  | 0 => some .off
  | 1 => some .base
  | 2 => some .len
  | 3 => some .attr
  | 4 => some .hi
  | _ => none

/-- RF (R255). -/
def RField.code : RField → Nat
  | .base => 0
  | .len => 1
  | .attr => 2

def RField.ofCode : Nat → Option RField
  | 0 => some .base
  | 1 => some .len
  | 2 => some .attr
  | _ => none

/-- OPC of VRED (R290). -/
def RedOp.code : RedOp → Nat
  | .add => 0
  | .min => 1
  | .max => 2

def RedOp.ofCode : Nat → Option RedOp
  | 0 => some .add
  | 1 => some .min
  | 2 => some .max
  | _ => none

/-- X2 of VSHF (R290). -/
def ShfOp.code : ShfOp → Nat
  | .dn => 0
  | .up => 1
  | .rot => 2

def ShfOp.ofCode : Nat → Option ShfOp
  | 0 => some .dn
  | 1 => some .up
  | 2 => some .rot
  | _ => none

/-- KIND of CHIT (R349). -/
def ChitSel.code : ChitSel → Nat
  | .rel => 0
  | .bar => 1
  | .byte => 2

def ChitSel.ofCode : Nat → Option ChitSel
  | 0 => some .rel
  | 1 => some .bar
  | 2 => some .byte
  | _ => none

/-- JF (R255). -/
def JField.code : JField → Nat
  | .off => 0
  | .attr => 1
  | .mask => 2
  | .d i => 8 + i.val

def JField.ofCode (n : Nat) : Option JField :=
  if n = 0 then some .off else if n = 1 then some .attr else if n = 2 then some .mask
  else if 8 ≤ n ∧ n < 16 then some (.d (Fin.ofNat 8 (n - 8))) else none

/-- CM of MZERO (R314): 00 names the level's DMODE. -/
def cmCode : Option CellMode → Nat
  | none => 0
  | some .f2 => 1
  | some .i64 => 2
  | some .ci32 => 3

def cmOfCode : Nat → Option (Option CellMode)
  | 0 => some none
  | 1 => some (some .f2)
  | 2 => some (some .i64)
  | 3 => some (some .ci32)
  | _ => none

/-- COND of VCMP under a type (R294). -/
def VCond.code : VCond → Nat
  | .int c => c.code
  | .flt c => c.code

def VCond.ofCode (t : Ty) (n : Nat) : Option VCond :=
  if t.isVInt then (Cond.ofCode n).map .int
  else if t.isVFlt then (FCond.ofCode n).map .flt else none

/-- One bit of MOD as a truth value. -/
def decB : Nat → Option Bool
  | 0 => some false
  | 1 => some true
  | _ => none

/-- FP32 or FP64 of R238: code 7 or 8. -/
def decDbl : Nat → Option Bool
  | 7 => some false
  | 8 => some true
  | _ => none

def encDbl (b : Bool) : Nat := if b then 8 else 7

/-- The shared layout of scalar-float and memory MOD: three low bits, TYPE, ORDER or other, SCOPE (R204, R238, R255). -/
def modM (lo ty ord sc : Nat) : Nat := lo + 8 * ty + 128 * ord + 1024 * sc

/-- The vector layout of MOD (R289). -/
def modV (msk ty zr x2 x4 : Nat) : Nat := msk + 8 * ty + 128 * zr + 256 * x2 + 1024 * x4

/-- The fields of `modM`. -/
structure ModM where
  lo : Nat
  ty : Nat
  ord : Nat
  sc : Nat

def splitM (m : Nat) : ModM := ⟨m % 8, m / 8 % 16, m / 128 % 8, m / 1024⟩

/-- The fields of `modV`. -/
structure ModV where
  msk : MReg
  ty : Nat
  zr : Bool
  x2 : Nat
  x4 : Nat

def splitV (m : Nat) : ModV := ⟨Fin.ofNat 8 m, m / 8 % 16, m / 128 % 2 == 1, m / 256 % 4, m / 1024⟩

/-- A check of the decoder: fails to ILLEGAL when false. -/
def chk (b : Bool) : Option Unit := if b then some () else none

/-! ### Operand lists of one form -/

def decIntS (r : Raw) : Option IntS := do
  let wid ← Wid.ofCode (r.mod % 4)
  let satm ← SatM.ofCode (r.mod / 4)
  return ⟨wid, satm, ← decS r.d, ← decS r.a, ← decSI r.b⟩

def decInt3 (r : Raw) : Option Int3 := do
  let wid ← Wid.ofCode r.mod
  return ⟨wid, ← decS r.d, ← decS r.a, ← decSI r.b⟩

def decInt2 (r : Raw) (mod : Nat) : Option Int2 := do
  let wid ← Wid.ofCode mod
  decZ r.b
  return ⟨wid, ← decS r.d, ← decS r.a⟩

def decF3 (r : Raw) : Option F3 := do
  let rm ← Rm.ofCode (r.mod % 8)
  let dbl ← decDbl (r.mod / 8)
  return ⟨rm, dbl, ← decS r.d, ← decS r.a, ← decS r.b⟩

/-- FMIN and FMAX: RM must be 0 (R238). -/
def decFMin (r : Raw) (f : Hdr → Bool → SReg → SReg → SReg → Instr) : Option Instr := do
  chk (r.mod % 8 == 0)
  let dbl ← decDbl (r.mod / 8)
  return f r.h dbl (← decS r.d) (← decS r.a) (← decS r.b)

/-- Loads (R254): UNS in the low bit, SCOPE where `scoped` (R255, R256). -/
def decLd (r : Raw) (lo : Nat) : Option LdA := do
  let uns ← decB lo
  let ty ← Ty.ofCode (splitM r.mod).ty
  chk ((splitM r.mod).ord == 0)
  chk (ty.isMem && (!uns || ty.isScalarInt))
  return ⟨ty, uns, ← decS r.d, ← decSK r.a, ← decSI r.b⟩

def decSt (r : Raw) : Option StA := do
  let ty ← Ty.ofCode (splitM r.mod).ty
  chk ((splitM r.mod).lo == 0 && (splitM r.mod).ord == 0 && ty.isMem)
  return ⟨ty, ← decSI r.d, ← decSK r.a, ← decSI r.b⟩

def decV3 (vn : Nat) (r : Raw) (m : ModV) (ok : Ty → Bool) : Option V3 := do
  let ty ← Ty.ofCode m.ty
  let d ← decV vn r.d
  let a ← decV vn r.a
  let b ← decBc vn r.b
  chk (ok ty && b.ok ty)
  return ⟨m.msk, ty, m.zr, d, a, b⟩

def decV2 (vn : Nat) (r : Raw) (m : ModV) (ok : Ty → Bool) : Option V2 := do
  let ty ← Ty.ofCode m.ty
  chk (ok ty)
  return ⟨m.msk, ty, m.zr, ← decV vn r.d, ← decV vn r.a⟩

def decVC (vn : Nat) (r : Raw) (m : ModV) : Option VC := do
  let ty ← Ty.ofCode m.ty
  let cj ← decB m.x2
  let d ← decV vn r.d
  let a ← decV vn r.a
  let b ← decV vn r.b
  let o : VC := ⟨m.msk, ty, m.zr, cj, Fin.ofNat 16 m.x4, d, a, b⟩
  chk o.ok
  return o

def decMP (r : Raw) (m : Nat) : Option MP := do
  let ty ← Ty.ofCode (m / 8 % 16)
  let bty ← Ty.ofCode (m / 128)
  chk (m % 8 == 0)
  return ⟨ty, bty, ← decSI r.d, ← decBuS r.a, ← decBuS r.b⟩

/-- MKAND, MKOR, MKXOR. -/
def decMk (r : Raw) (f : Hdr → MReg → MReg → MReg → Instr) : Option Instr := do
  chk (r.mod == 0)
  return f r.h (← decM r.d) (← decM r.a) (← decM r.b)

/-- BARA, TLSET and TLADD carry SCOPE alone. -/
def decScope (r : Raw) : Option Scope := do
  chk (r.mod % 1024 == 0)
  Scope.ofCode (r.mod / 1024)

/-- Ring, awning and similar operations whose only operand is B. -/
def decB1 (r : Raw) (f : Hdr → SI → Instr) : Option Instr := do
  chk (r.mod == 0)
  decZ r.d
  decZ r.a
  return f r.h (← decSI r.b)

/-! ### The opcode map (R214), row by row -/

def dec0 (r : Raw) : Nat → Option Instr
  | 0x1 => do return .add r.h (← decIntS r)
  | 0x2 => do return .sub r.h (← decIntS r)
  | 0x3 => do return .mul r.h (← decInt3 r)
  | 0x4 => do return .mulh r.h (← decInt3 r)
  | 0x5 => do return .mulhz r.h (← decInt3 r)
  | 0x6 => do return .div r.h (← decInt3 r)
  | 0x7 => do return .divz r.h (← decInt3 r)
  | 0x8 => do return .rem r.h (← decInt3 r)
  | 0x9 => do return .remz r.h (← decInt3 r)
  | 0xA => do return .and r.h (← decInt3 r)
  | 0xB => do return .or r.h (← decInt3 r)
  | 0xC => do return .xor r.h (← decInt3 r)
  | 0xD => do return .andn r.h (← decInt3 r)
  | 0xE => do return .orn r.h (← decInt3 r)
  | 0xF => do return .shl r.h (← decInt3 r)
  | _ => none

/-- MOV's accepted pairs (R232). -/
def decMov (d b : Nat) : Option MovPair :=
  match decS d with
  | some d =>
    match decS b with
    | some b => some (.ss d b)
    | none =>
      match decI b with
      | some v => some (.si d v)
      | none =>
        match decP b with
        | some p => some (.sp d p)
        | none => (decM b).map (.sm d)
  | none =>
    match decP d with
    | some d =>
      match decS b with
      | some b => some (.ps d b)
      | none =>
        match decP b with
        | some p => some (.pp d p)
        | none => (decI b).map (.pi d)
    | none =>
      match decM d with
      | some d =>
        match decS b with
        | some b => some (.ms d b)
        | none => (decM b).map (.mm d)
      | none => do return .kk (← decK d) (← decK b)

def dec1 (r : Raw) : Nat → Option Instr
  | 0x0 => do return .shr r.h (← decInt3 r)
  | 0x1 => do return .sar r.h (← decInt3 r)
  | 0x2 => do return .rol r.h (← decInt3 r)
  | 0x3 => do return .clz r.h (← decInt2 r r.mod)
  | 0x4 => do return .ctz r.h (← decInt2 r r.mod)
  | 0x5 => do return .popc r.h (← decInt2 r r.mod)
  | 0x6 => do return .brev r.h (← decInt2 r r.mod)
  | 0x7 => do
      chk (r.mod % 4 == 0)
      return .bfx r.h (← decB (r.mod / 4)) (← decS r.d) (← decS r.a) (← decSI r.b)
  | 0x8 => do
      chk (r.mod == 0)
      return .bfi r.h (← decS r.d) (← decS r.a) (← decSI r.b)
  | 0x9 => do return .min r.h (← decInt3 r)
  | 0xA => do return .max r.h (← decInt3 r)
  | 0xB => do return .minz r.h (← decInt3 r)
  | 0xC => do return .maxz r.h (← decInt3 r)
  | 0xD => do return .abs r.h (← decB (r.mod / 4)) (← decInt2 r (r.mod % 4))
  | 0xE => do
      let pneg ← decB (r.mod / 8)
      return .sel r.h (Fin.ofNat 8 r.mod) pneg (← decS r.d) (← decS r.a) (← decSI r.b)
  | 0xF => do
      chk (r.mod == 0)
      decZ r.a
      return .mov r.h (← decMov r.d r.b)
  | _ => none

def dec2 (r : Raw) : Nat → Option Instr
  | 0x0 => do
      chk (r.mod == 0)
      return .movi r.h (← decS r.d) (← decLImm r.a r.b)
  | 0x1 => do
      chk (r.mod == 0)
      return .movh r.h (← decS r.d) (← decLImm r.a r.b)
  | 0x2 => do
      let wid ← Wid.ofCode (r.mod % 4)
      let c ← Cond.ofCode (r.mod / 4)
      return .cmp r.h wid c (← decP r.d) (← decS r.a) (← decSI r.b)
  | 0x3 => do
      chk (decide (r.mod < 16))
      return .plog r.h (BitVec.ofNat 4 r.mod) (← decP r.d) (← decP r.a) (← decP r.b)
  | 0x4 => do
      let rm ← Rm.ofCode (r.mod % 8)
      let ty ← Ty.ofCode (r.mod / 8 % 16)
      let sty ← Ty.ofCode (r.mod / 128 % 16)
      let uns ← decB (r.mod / 2048)
      decZ r.b
      let d ← decS r.d
      let a ← decS r.a
      let i := Instr.scvt r.h rm ty sty uns d a
      chk i.wf
      return i
  | 0x5 => do return .fadd r.h (← decF3 r)
  | 0x6 => do return .fsub r.h (← decF3 r)
  | 0x7 => do return .fmul r.h (← decF3 r)
  | 0x8 => do return .fma r.h (← decF3 r)
  | 0x9 => do return .fdiv r.h (← decF3 r)
  | 0xA => do
      let rm ← Rm.ofCode (r.mod % 8)
      let dbl ← decDbl (r.mod / 8)
      decZ r.b
      return .fsqrt r.h rm dbl (← decS r.d) (← decS r.a)
  | 0xB => decFMin r .fmin
  | 0xC => decFMin r .fmax
  | 0xD => do
      let c ← FCond.ofCode (r.mod % 8)
      let dbl ← decDbl (r.mod / 8)
      return .fcmp r.h dbl c (← decP r.d) (← decS r.a) (← decS r.b)
  | 0xE => do
      chk (r.mod == 0)
      decZ r.d
      return .br r.h (← decLImm r.a r.b)
  | 0xF => do
      chk (r.mod == 0)
      decZ r.d
      decZ r.a
      return .bri r.h (← decS r.b)
  | _ => none

def dec3 (r : Raw) : Nat → Option Instr
  | 0x0 => do
      chk (decide (r.mod < 4))
      decZ r.d
      return .call r.h (Fin.ofNat 4 r.mod) (← decLImm r.a r.b)
  | 0x1 => do
      chk (decide (r.mod < 4))
      decZ r.d
      decZ r.a
      return .calli r.h (Fin.ofNat 4 r.mod) (← decS r.b)
  | 0x2 => do
      chk (r.mod == 0 && r.d == 0 && r.a == 0 && r.b == 0)
      return .ret r.h
  | 0x3 => do
      chk (r.mod == 0)
      return .loop r.h (← decS r.d) (← decLImm r.a r.b)
  | 0x4 => do
      chk (r.mod == 0 && r.d == 0 && r.a == 0 && r.b == 0)
      return .endT r.h
  | 0x5 => do
      chk (r.mod == 0 && r.d == 0 && r.a == 0 && r.b == 0)
      return .nop r.h
  | 0x6 => do
      chk (r.mod == 0 && r.d == 0 && r.a == 0)
      return .trap r.h (← decI r.b)
  | 0x7 => do
      chk (r.mod == 0 && r.d == 0 && r.a == 0)
      return .brk r.h (← decI r.b)
  | 0x8 => do
      chk (r.mod == 0)
      decZ r.b
      let i := Instr.mfs r.h (← decS r.d) (← decSys r.a)
      chk i.wf
      return i
  | 0x9 => do
      chk (r.mod == 0)
      let i := Instr.mts r.h (← decSys r.d) (← decSL r.a r.b)
      chk i.wf
      return i
  | _ => none

def dec4 (r : Raw) : Nat → Option Instr
  | 0x0 => do
      chk ((splitM r.mod).sc == 0)
      return .ld r.h (← decLd r (splitM r.mod).lo)
  | 0x1 => do
      chk ((splitM r.mod).sc == 0)
      return .ldc r.h (← decLd r (splitM r.mod).lo)
  | 0x2 => do
      chk ((splitM r.mod).sc == 0)
      return .st r.h (← decSt r)
  | 0x3 => do return .ldaq r.h (← Scope.ofCode (splitM r.mod).sc) (← decLd r (splitM r.mod).lo)
  | 0x4 => do return .strl r.h (← Scope.ofCode (splitM r.mod).sc) (← decSt r)
  | 0x5 => do
      let uns ← decB (splitM r.mod).lo
      let ty ← Ty.ofCode (splitM r.mod).ty
      chk ((splitM r.mod).ord == 0 && (splitM r.mod).sc == 0)
      chk (ty.isMem && (!uns || ty.isScalarInt))
      return .ldb r.h ty uns (← decS r.d) (← decBuS r.a) (← decSI r.b)
  | 0x6 => do
      let ty ← Ty.ofCode (splitM r.mod).ty
      chk ((splitM r.mod).lo == 0 && (splitM r.mod).ord == 0 && (splitM r.mod).sc == 0 && ty.isMem)
      return .stb r.h ty (← decSI r.d) (← decBuS r.a) (← decSI r.b)
  | 0x7 => do
      chk (r.mod == 0)
      return .ldk r.h (← decK r.d) (← decSK r.a) (← decSI r.b)
  | 0x8 => do
      chk (r.mod == 0)
      return .stk r.h (← decK r.d) (← decSK r.a) (← decSI r.b)
  | 0x9 => do
      chk (decide (r.mod < 64))
      return .kder r.h (BitVec.ofNat 6 r.mod) (← decK r.d) (← decK r.a) (← decSI r.b)
  | 0xA => do
      chk (decide (r.mod < 64))
      decZ r.b
      return .kprm r.h (BitVec.ofNat 6 r.mod) (← decK r.d) (← decK r.a)
  | 0xB => do return .kadr r.h (← decB r.mod) (← decK r.d) (← decK r.a) (← decSI r.b)
  | 0xC => do
      decZ r.b
      return .kget r.h (← KField.ofCode r.mod) (← decS r.d) (← decK r.a)
  | 0xD => do
      chk (decide (r.mod < 64))
      return .ktst r.h (BitVec.ofNat 6 r.mod) (← decP r.d) (← decK r.a) (← decSI r.b)
  | 0xE => do
      chk (r.mod == 0)
      decZ r.b
      return .kseal r.h (← decK r.d) (← decK r.a)
  | 0xF => do
      let m := splitM r.mod
      let opc ← AmoOp.ofCode m.lo
      let ty ← Ty.ofCode m.ty
      let ord ← Order.ofCode m.ord
      let sc ← Scope.ofCode m.sc
      let d ← decS r.d
      let a ← decSK r.a
      let b ← decSI r.b
      let i := Instr.amo r.h sc ord ty opc d a b
      chk i.wf
      return i
  | _ => none

def dec5 (r : Raw) : Nat → Option Instr
  | 0x0 => do
      let m := splitM r.mod
      let ty ← Ty.ofCode m.ty
      let ord ← Order.ofCode m.ord
      let sc ← Scope.ofCode m.sc
      chk (m.lo == 0)
      let d ← decS r.d
      let a ← decSK r.a
      let b ← decSI r.b
      let i := Instr.cas r.h sc ord ty d a b
      chk i.wf
      return i
  | 0x1 => do
      chk ((splitM r.mod).sc == 5)
      return .ldsc r.h (← decLd r (splitM r.mod).lo)
  | 0x2 => do
      chk ((splitM r.mod).sc == 5)
      return .stsc r.h (← decSt r)
  | 0x3 => do
      let w ← decB (r.mod % 2)
      let a ← decB (r.mod / 2 % 2)
      let s ← decB (r.mod / 8)
      chk (r.mod / 4 % 2 == 0 && r.d == 0 && r.a == 0 && r.b == 0 && (w || a || s))
      return .fence r.h w a s
  | 0x4 => do
      let m := splitM r.mod
      let ord ← Order.ofCode m.ord
      let sc ← Scope.ofCode m.sc
      chk (m.lo == 0 && m.ty == 0 && r.d == 0 && r.a == 0)
      let i := Instr.fenr r.h sc ord (← decSI r.b)
      chk i.wf
      return i
  | 0x5 => do
      chk (r.d == 0 && r.a == 0 && r.b == 0)
      return .phase r.h (← decScope r)
  | 0x6 => do
      chk (decide (r.mod < 16))
      decZ r.d
      match decK r.a with
      | some k => do
          decZ r.b
          return .rgset r.h (Fin.ofNat 16 r.mod) (.key k)
      | none => do return .rgset r.h (Fin.ofNat 16 r.mod) (.range (← decS r.a) (← decSI r.b))
  | 0x7 => decB1 r .rgclr
  | 0x8 => do
      let f ← RField.ofCode (r.mod / 16)
      chk (r.a == 0 && r.b == 0)
      return .rgrd r.h (Fin.ofNat 16 r.mod) f (← decS r.d)
  | 0x9 => do
      decZ r.d
      return .pref r.h (← decB r.mod) (← decSK r.a) (← decSI r.b)
  | 0xA => do
      decZ r.a
      return .jrd r.h (← JField.ofCode r.mod) (← decS r.d) (← decSI r.b)
  | 0xB => decB1 r .jack
  | _ => none

def dec7 (vn : Nat) (r : Raw) (m : ModV) : Nat → Option Instr
  | 0x0 => do
      let o ← decV3 vn r m Ty.isVNum
      let i := Instr.vadd r.h (← SatM.ofCode m.x2) o
      chk (m.x4 == 0 && i.wf)
      return i
  | 0x1 => do
      let o ← decV3 vn r m Ty.isVNum
      let i := Instr.vsub r.h (← SatM.ofCode m.x2) o
      chk (m.x4 == 0 && i.wf)
      return i
  | 0x2 => do
      chk (m.x2 == 0 && m.x4 == 0)
      return .vmul r.h (← decV3 vn r m Ty.isVNum)
  | 0x3 => do
      chk (m.x2 == 0 && m.x4 == 0)
      return .vma r.h (← decV3 vn r m Ty.isVNum)
  | 0x4 => do
      let o ← decV3 vn r m Ty.isVNum
      let i := Instr.vmin r.h (← decB m.x2) o
      chk (m.x4 == 0 && i.wf)
      return i
  | 0x5 => do
      let o ← decV3 vn r m Ty.isVNum
      let i := Instr.vmax r.h (← decB m.x2) o
      chk (m.x4 == 0 && i.wf)
      return i
  | 0x6 => do
      chk (m.x4 == 0)
      decZ r.b
      return .vabs r.h (← decB m.x2) (← decV2 vn r m Ty.isVNum)
  | 0x7 => do
      chk (m.x4 == 0)
      decZ r.b
      return .vneg r.h (← decB m.x2) (← decV2 vn r m Ty.isVNum)
  | 0x8 => do
      chk (m.x2 == 0 && m.x4 == 0)
      return .vand r.h (← decV3 vn r m Ty.isVInt)
  | 0x9 => do
      chk (m.x2 == 0 && m.x4 == 0)
      return .vor r.h (← decV3 vn r m Ty.isVInt)
  | 0xA => do
      chk (m.x2 == 0 && m.x4 == 0)
      return .vxor r.h (← decV3 vn r m Ty.isVInt)
  | 0xB => do
      chk (m.x2 == 0 && m.x4 == 0)
      return .vshl r.h (← decV3 vn r m Ty.isVInt)
  | 0xC => do
      chk (m.x2 == 0 && m.x4 == 0)
      return .vshr r.h (← decV3 vn r m Ty.isVInt)
  | 0xD => do
      chk (m.x2 == 0 && m.x4 == 0)
      return .vsar r.h (← decV3 vn r m Ty.isVInt)
  | 0xE => do
      let ty ← Ty.ofCode m.ty
      let any ← decB m.x2
      let c ← VCond.ofCode ty m.x4
      let b ← decBc vn r.b
      chk (!m.zr && b.ok ty)
      return .vcmp r.h m.msk ty any c (← decM r.d) (← decV vn r.a) b
  | 0xF => do
      chk (!m.zr && m.x2 == 0 && m.x4 == 0)
      let o ← decV3 vn r m Ty.isVWd
      return .vsel r.h o.msk o.ty o.d o.a o.b
  | _ => none

def dec8 (vn : Nat) (r : Raw) (m : ModV) : Nat → Option Instr
  | 0x0 => do
      let ty ← Ty.ofCode m.ty
      let sty ← Ty.ofCode m.x4
      let d ← decV vn r.d
      let a ← decV vn r.a
      let p ← decI r.b
      let i := Instr.vcvt r.h m.msk ty sty m.zr (m.x2 % 2 == 1) (m.x2 / 2 == 1) d a p
      chk i.wf
      return i
  | 0x1 => do
      let ty ← Ty.ofCode m.ty
      let opc ← RedOp.ofCode m.x2
      let uns ← decB m.x4
      decZ r.b
      chk (!m.zr && ty.isVNum)
      return .vred r.h m.msk ty opc uns (← decS r.d) (← decV vn r.a)
  | 0x2 => do
      let ty ← Ty.ofCode m.ty
      let acc ← decB m.x2
      let d ← decS r.d
      let i := Instr.vdot r.h m.msk ty acc d (← decV vn r.a) (← decV vn r.b)
      chk (!m.zr && m.x4 == 0 && i.wf)
      return i
  | 0x3 => do
      decZ r.b
      return .vscan r.h (← RedOp.ofCode m.x2) (← decB m.x4) (← decV2 vn r m Ty.isVNum)
  | 0x4 => do
      chk (m.x2 == 0 && m.x4 == 0)
      return .vperm r.h (← decV2 vn r m Ty.isVWd) (← decV vn r.b)
  | 0x5 => do
      chk (m.x4 == 0)
      return .vshf r.h (← ShfOp.ofCode m.x2) (← decV2 vn r m Ty.isVWd) (← decSI r.b)
  | 0x6 => do
      let ty ← Ty.ofCode m.ty
      let b ← decSI r.b
      chk (m.x2 == 0 && m.x4 == 0 && ty.isVWd && b.okFor ty)
      decZ r.a
      return .vbc r.h m.msk ty m.zr (← decV vn r.d) b
  | 0x7 => do
      let ty ← Ty.ofCode m.ty
      let uns ← decB m.x2
      chk (m.msk == 0 && !m.zr && m.x4 == 0 && ty.isVWd)
      return .vext r.h ty uns (← decS r.d) (← decV vn r.a) (← decSI r.b)
  | 0x8 => do
      let ty ← Ty.ofCode m.ty
      chk (m.msk == 0 && !m.zr && m.x2 == 0 && m.x4 == 0 && ty.isVWd)
      return .vins r.h ty (← decV vn r.d) (← decS r.a) (← decSI r.b)
  | 0x9 => do
      let ty ← Ty.ofCode m.ty
      chk (m.x2 == 0 && m.x4 == 0 && ty.isVWd)
      return .vld r.h m.msk ty m.zr (← decV vn r.d) (← decBuS r.a) (← decSI r.b)
  | 0xA => do
      let ty ← Ty.ofCode m.ty
      chk (!m.zr && m.x2 == 0 && m.x4 == 0 && ty.isVWd)
      return .vst r.h m.msk ty (← decV vn r.d) (← decBuS r.a) (← decSI r.b)
  | 0xB => do
      let ty ← Ty.ofCode m.ty
      chk (m.x2 == 0 && decide (m.x4 < 8) && ty.isVWd)
      let i := Instr.vldx r.h m.msk ty m.zr (Fin.ofNat 8 m.x4) (← decV vn r.d) (← decBuS r.a) (← decV vn r.b)
      chk i.wf
      return i
  | 0xC => do
      let ty ← Ty.ofCode m.ty
      chk (!m.zr && m.x2 == 0 && decide (m.x4 < 8) && ty.isVWd)
      let i := Instr.vstx r.h m.msk ty (Fin.ofNat 8 m.x4) (← decV vn r.d) (← decBuS r.a) (← decV vn r.b)
      chk i.wf
      return i
  | 0xD => do
      let ty ← Ty.ofCode m.ty
      let shp ← decB m.x2
      chk (m.x4 == 0 && ty.isVWd)
      let d ← decV vn r.d
      let a ← decSK r.a
      if shp then do
        let x ← decBu r.b
        return .vldg r.h m.msk ty m.zr d (.shp a x.1 x.2)
      else do return .vldg r.h m.msk ty m.zr d (.plain a (← decSI r.b))
  | 0xE => do
      let ty ← Ty.ofCode m.ty
      chk (!m.zr && m.x2 == 0 && m.x4 == 0 && ty.isVWd)
      return .vstg r.h m.msk ty (← decV vn r.d) (← decSK r.a) (← decSI r.b)
  | 0xF => do
      chk (m.x2 == 0 && m.x4 == 0)
      decZ r.b
      return .vexp r.h (← decV2 vn r m Ty.isVFlt)
  | _ => none

def dec9 (vn : Nat) (r : Raw) (m : ModV) : Nat → Option Instr
  | 0x0 => do
      chk (m.x2 == 0 && m.x4 == 0)
      decZ r.b
      return .vlog r.h (← decV2 vn r m Ty.isVFlt)
  | 0x1 => do
      chk (m.x2 == 0 && m.x4 == 0)
      decZ r.b
      return .vrcp r.h (← decV2 vn r m Ty.isVFlt)
  | 0x2 => do
      chk (m.x2 == 0 && m.x4 == 0)
      decZ r.b
      return .vrsq r.h (← decV2 vn r m Ty.isVFlt)
  | 0x3 => do return .vcmul r.h (← decVC vn r m)
  | 0x4 => do return .vcma r.h (← decVC vn r m)
  | 0x5 => do
      let uns ← decB m.x2
      let o ← decV2 vn r m Ty.isVNum
      chk (m.x4 == 0 && (!uns || o.ty.isVInt))
      return .vclmp r.h uns o (← decS r.b)
  | 0x6 => decMk r .mkand
  | 0x7 => decMk r .mkor
  | 0x8 => decMk r .mkxor
  | 0x9 => do
      chk (r.mod == 0)
      decZ r.b
      return .mknot r.h (← decM r.d) (← decM r.a)
  | 0xA => do
      chk (r.mod == 0)
      decZ r.b
      return .mkpop r.h (← decS r.d) (← decM r.a)
  | 0xB => do
      chk (r.mod % 256 == 0)
      decZ r.a
      return .mkset r.h (← decB (r.mod / 256)) (← decM r.d) (← decSI r.b)
  | _ => none

def decBm (r : Raw) : Nat → Option Instr
  | 0x0 => do
      let cm ← cmOfCode r.mod
      decZ r.a
      decZ r.b
      return .mzero r.h cm (← decSI r.d)
  | 0x1 => do
      let o ← decMP r r.mod
      chk o.okReal
      return .mpass r.h o
  | 0x2 => do
      let o ← decMP r (r.mod % 2048)
      let cj ← decB (r.mod / 2048)
      chk (o.ty.isComplex && o.bty.isComplex)
      return .mpassc r.h cj o
  | 0x3 => do
      let ty ← Ty.ofCode (r.mod / 8 % 16)
      let bty ← Ty.ofCode (r.mod / 128)
      chk (r.mod % 8 == 0)
      let d ← decSI r.d
      let a ← decK r.a
      let b ← decBuS r.b
      let i := Instr.mpassr r.h ty bty d a b
      chk i.wf
      return i
  | 0x4 => do
      chk (r.mod == 0)
      return .mscale r.h (← decSI r.d) (← decBuS r.a) (← decBuS r.b)
  | 0x5 => do
      let ty ← Ty.ofCode (r.mod / 8 % 16)
      let hp := r.mod / 512
      chk (r.mod % 8 == 0 && decide (hp < 8) && ty != .f64)
      decZ r.b
      return .mdrain r.h ty (r.mod / 128 % 2 == 1) (r.mod / 256 % 2 == 1) (Fin.ofNat 8 hp) (← decBuS r.d) (← decSI r.a)
  | 0x6 => do
      let ty ← Ty.ofCode (r.mod / 8)
      chk (r.mod % 8 == 0 && ty.isPack)
      return .mpack r.h ty (← decBuS r.d) (← decBuS r.a) (← decBuS r.b)
  | 0x7 => do
      let ty ← Ty.ofCode (r.mod / 8)
      chk (r.mod % 8 == 0 && ty.isTrn)
      return .mtrn r.h ty (← decBuS r.d) (← decBuS r.a) (← decSI r.b)
  | 0x8 => do
      chk (r.mod == 0)
      decZ r.b
      return .mcopy r.h (← decSI r.d) (← decSI r.a)
  | 0x9 => do
      chk (r.mod == 0)
      decZ r.a
      return .mstat r.h (← decS r.d) (← decI r.b)
  | 0xA => decB1 r .mclr
  | 0xB => decB1 r .mcfg
  | 0xC => do
      chk (r.mod == 0 && r.d == 0 && r.a == 0 && r.b == 0)
      return .mcancel r.h
  | 0xD => do
      chk (r.mod == 0 && r.d == 0 && r.a == 0 && r.b == 0)
      return .mrowdone r.h
  | _ => none

/-- The software or the far-side form of RGET and RPUT (R349, R375, R376). -/
def decFill (r : Raw) (f g : Hdr → SI → Instr) : Option Instr := do
  let fill ← decB r.mod
  chk (r.d == 0 && r.a == 0)
  let b ← decSI r.b
  return if fill then g r.h b else f r.h b

def decD (r : Raw) : Nat → Option Instr
  | 0x0 => do
      chk (r.mod == 0)
      let a ← decSK r.a
      let b ← decSI r.b
      if r.d = 0 then return .spawn r.h none a b
      else do return .spawn r.h (some (← decBuS r.d)) a b
  | 0x1 => do
      let k ← ChitSel.ofCode (r.mod % 8)
      let cpv ← decB (r.mod / 64)
      return .chit r.h k (Fin.ofNat 8 (r.mod / 8)) cpv (← decSI r.d) (← decSK r.a) (← decSI r.b)
  | 0x2 => decB1 r .claim
  | 0x3 => decB1 r .unclaim
  | 0x4 => do
      chk (r.mod == 0)
      decZ r.d
      return .bari r.h (← decSK r.a) (← decSI r.b)
  | 0x5 => do
      decZ r.d
      return .bara r.h (← decScope r) (← decSK r.a) (← decSI r.b)
  | 0x6 => do return .tlset r.h (← decScope r) (← decSI r.d) (← decSK r.a) (← decSI r.b)
  | 0x7 => do return .tladd r.h (← decScope r) (← decSI r.d) (← decSK r.a) (← decSI r.b)
  | 0x8 => do
      chk (r.mod == 0)
      return .tlwatch r.h (← decSI r.d) (← decSK r.a) (← decSI r.b)
  | 0x9 => do
      decZ r.a
      return .ask r.h (← decB r.mod) (← decBuS r.d) (← decSI r.b)
  | 0xA => do
      decZ r.d
      return .crinit r.h (← decB r.mod) (← decBuS r.a) (← decSI r.b)
  | 0xB => do
      let d ← decCopyOp r.d
      let a ← decCopyOp r.a
      let b ← decSI r.b
      let dk := r.mod % 4
      let sk := r.mod / 4 % 4
      chk (decide (r.mod < 256))
      let kindOk := fun (o : CopyOp) (k : Nat) =>
        match o with
        | .s _ => k != 2
        | .bu _ _ => k == 1
        | .k _ => k == 2
      chk (kindOk d dk && kindOk a sk)
      let isS := fun (o : CopyOp) => match o with | .s _ => true | _ => false
      return .copy r.h (dk == 3) (sk == 3) (r.mod / 16 % 2 == 1) (Fin.ofNat 8 (r.mod / 32)) (isS d && dk == 1)
        (isS a && sk == 1) d a b
  | 0xC => do
      chk (r.mod == 0 && r.d == 0 && r.b == 0)
      return .copyc r.h (← decBuS r.a)
  | 0xD => do
      chk (r.mod == 0)
      return .bbinit r.h (← decBuS r.d) (← decSI r.a) (← decSI r.b)
  | 0xE => do
      chk (r.mod == 0)
      decZ r.d
      return .rcfg r.h (← decS r.a) (← decSI r.b)
  | 0xF => decFill r .rget .rgetFill
  | _ => none

def decE (r : Raw) : Nat → Option Instr
  | 0x0 => decFill r .rput .rputFill
  | 0x1 => do
      chk (r.mod == 0)
      return .psub r.h (← decBuS r.d) (← decSK r.a) (← decSI r.b)
  | 0x2 => decB1 r .pdrop
  | 0x3 => do
      chk (r.mod == 0 && r.d == 0 && r.a == 0)
      return .svc r.h (← decI r.b)
  | 0x4 => do
      chk (r.mod == 0 && r.d == 0 && r.a == 0 && r.b == 0)
      return .eret r.h
  | 0x5 => do
      chk (r.mod == 0)
      return .ctxsave r.h (← decS r.d) (← decS r.a) (← decS r.b)
  | 0x6 => do
      chk (r.mod == 0)
      decZ r.d
      return .ctxload r.h (← decS r.a) (← decS r.b)
  | 0x7 => do
      chk (r.mod == 0)
      return .nispill r.h (← decS r.d) (← decS r.a) (← decS r.b)
  | 0x8 => do
      decZ r.d
      if r.mod = 3 then do
        chk (r.a == 0 && r.b == 0)
        return .succ r.h .clr
      else do
        let b ← decSL r.a r.b
        if r.mod = 0 then return .succ r.h (.nxt b)
        else if r.mod = 1 then return .succ r.h (.byt b)
        else if r.mod = 2 then return .succ r.h (.both b)
        else none
  | 0x9 => do
      chk (r.mod == 0 && r.d == 0 && r.a == 0 && r.b == 0)
      return .lput r.h
  | _ => none

/-- The instruction of a word for a window of `vn` vector registers, none where R213 steps 1 to 5 give ILLEGAL. -/
def decodeRaw (vn : Nat) (r : Raw) : Option Instr :=
  if r.b77 ≠ 0 then none
  else
    match r.op / 16 with
    | 0x0 => dec0 r (r.op % 16)
    | 0x1 => dec1 r (r.op % 16)
    | 0x2 => dec2 r (r.op % 16)
    | 0x3 => dec3 r (r.op % 16)
    | 0x4 => dec4 r (r.op % 16)
    | 0x5 => dec5 r (r.op % 16)
    | 0x7 => dec7 vn r (splitV r.mod) (r.op % 16)
    | 0x8 => dec8 vn r (splitV r.mod) (r.op % 16)
    | 0x9 => dec9 vn r (splitV r.mod) (r.op % 16)
    | 0xB => decBm r (r.op % 16)
    | 0xD => decD r (r.op % 16)
    | 0xE => decE r (r.op % 16)
    | _ => none

/-- ERET, CTXSAVE, CTXLOAD and NISPILL are privileged (R215). No system register number from 0x800 up is assigned
(R216), so no MFS or MTS that decodes is. -/
def Instr.privileged : Instr → Bool
  | .eret _ | .ctxsave _ _ _ _ | .ctxload _ _ _ | .nispill _ _ _ _ => true
  | _ => false

/-- R213: the fate of a word in a frame with SYS bit `sys` and `vn` vector registers. -/
def decode (sys : Bool) (vn : Nat) (w : Nat) : Except DecErr Instr :=
  match decodeRaw vn (unpack w) with
  | none => .error .illegal
  | some i => if i.privileged && !sys then .error .priv else .ok i

/-- The word's bytes, byte 0 first (R200). -/
def wordBytes (w : Nat) : List Byte := (List.range 12).map fun i => BitVec.ofNat 8 (w / 2 ^ (8 * i))

/-- The number of a list of bytes, the first least significant (R15, R200). -/
def ofBytes : List Byte → Nat
  | [] => 0
  | b :: bs => b.toNat + 256 * ofBytes bs

/-- The instruction the decoder reads from the 12 bytes of a word, in a SYS frame with 16 vector registers. -/
def decodeTableWord (_nbits w : Nat) : Option Instr :=
  match decode true 16 (ofBytes (wordBytes w)) with
  | .ok i => some i
  | .error _ => none


/-! ### The encoder (R199 to R205, R214) -/

def LdA.mod (o : LdA) (sc : Nat) : Nat := modM (bit o.uns) o.ty.code 0 sc
def StA.mod (o : StA) (sc : Nat) : Nat := modM 0 o.ty.code 0 sc
def packLd (h : Hdr) (op sc : Nat) (o : LdA) : Nat := pack h op (o.mod sc) (encS o.d) (encSK o.a) (encSI o.b)
def packSt (h : Hdr) (op sc : Nat) (o : StA) : Nat := pack h op (o.mod sc) (encSI o.d) (encSK o.a) (encSI o.b)
def packI3 (h : Hdr) (op : Nat) (o : Int3) : Nat := pack h op o.wid.code (encS o.d) (encS o.a) (encSI o.b)
def packIS (h : Hdr) (op : Nat) (o : IntS) : Nat :=
  pack h op (o.wid.code + 4 * o.satm.code) (encS o.d) (encS o.a) (encSI o.b)
def packI2 (h : Hdr) (op x : Nat) (o : Int2) : Nat := pack h op (o.wid.code + 4 * x) (encS o.d) (encS o.a) 0
def packF3 (h : Hdr) (op : Nat) (o : F3) : Nat :=
  pack h op (o.rm.code + 8 * encDbl o.dbl) (encS o.d) (encS o.a) (encS o.b)
def packV3 (h : Hdr) (op x2 : Nat) (o : V3) : Nat :=
  pack h op (modV o.msk.val o.ty.code (bit o.zr) x2 0) (encV o.d) (encV o.a) (encBc o.b)
def packV2 (h : Hdr) (op x2 x4 b : Nat) (o : V2) : Nat :=
  pack h op (modV o.msk.val o.ty.code (bit o.zr) x2 x4) (encV o.d) (encV o.a) b
def packVC (h : Hdr) (op : Nat) (o : VC) : Nat :=
  pack h op (modV o.msk.val o.ty.code (bit o.zr) (bit o.cj) o.sh.val) (encV o.d) (encV o.a) (encV o.b)
def packMP (h : Hdr) (op x : Nat) (o : MP) : Nat :=
  pack h op (8 * o.ty.code + 128 * o.bty.code + x) (encSI o.d) (encBuS o.a) (encBuS o.b)
/-- The kind code of a COPY operand (R349). -/
def CopyOp.kind (o : CopyOp) (ring buf : Bool) : Nat :=
  match o with
  | .s _ => if ring then 3 else if buf then 1 else 0
  | .bu _ _ => 1
  | .k _ => 2

def encMov (h : Hdr) : MovPair → Nat
  | .ss d b => pack h 0x1F 0 (encS d) 0 (encS b)
  | .si d v => pack h 0x1F 0 (encS d) 0 (encI v)
  | .sp d b => pack h 0x1F 0 (encS d) 0 (encP b)
  | .sm d b => pack h 0x1F 0 (encS d) 0 (encM b)
  | .ps d b => pack h 0x1F 0 (encP d) 0 (encS b)
  | .pp d b => pack h 0x1F 0 (encP d) 0 (encP b)
  | .pi d v => pack h 0x1F 0 (encP d) 0 (encI v)
  | .ms d b => pack h 0x1F 0 (encM d) 0 (encS b)
  | .mm d b => pack h 0x1F 0 (encM d) 0 (encM b)
  | .kk d b => pack h 0x1F 0 (encK d) 0 (encK b)

/-- The word of an instruction; none for the steps of other agents, which have no word. -/
def encode : Instr → Option Nat

  | .add h o => some (packIS h 0x1 o)
  | .sub h o => some (packIS h 0x2 o)
  | .mul h o => some (packI3 h 0x3 o)
  | .mulh h o => some (packI3 h 0x4 o)
  | .mulhz h o => some (packI3 h 0x5 o)
  | .div h o => some (packI3 h 0x6 o)
  | .divz h o => some (packI3 h 0x7 o)
  | .rem h o => some (packI3 h 0x8 o)
  | .remz h o => some (packI3 h 0x9 o)
  | .and h o => some (packI3 h 0xa o)
  | .or h o => some (packI3 h 0xb o)
  | .xor h o => some (packI3 h 0xc o)
  | .andn h o => some (packI3 h 0xd o)
  | .orn h o => some (packI3 h 0xe o)
  | .shl h o => some (packI3 h 0xf o)
  | .shr h o => some (packI3 h 0x10 o)
  | .sar h o => some (packI3 h 0x11 o)
  | .rol h o => some (packI3 h 0x12 o)
  | .clz h o => some (packI2 h 0x13 0 o)
  | .ctz h o => some (packI2 h 0x14 0 o)
  | .popc h o => some (packI2 h 0x15 0 o)
  | .brev h o => some (packI2 h 0x16 0 o)
  | .bfx h sx d a b => some (pack h 0x17 (4 * bit sx) (encS d) (encS a) (encSI b))
  | .bfi h d a b => some (pack h 0x18 0 (encS d) (encS a) (encSI b))
  | .min h o => some (packI3 h 0x19 o)
  | .max h o => some (packI3 h 0x1a o)
  | .minz h o => some (packI3 h 0x1b o)
  | .maxz h o => some (packI3 h 0x1c o)
  | .abs h sat o => some (packI2 h 0x1D (bit sat) o)
  | .sel h p n d a b => some (pack h 0x1E (p.val + 8 * bit n) (encS d) (encS a) (encSI b))
  | .mov h p => some (encMov h p)
  | .movi h d v => some (pack h 0x20 0 (encS d) (encLA v) (encLB v))
  | .movh h d v => some (pack h 0x21 0 (encS d) (encLA v) (encLB v))
  | .cmp h w c d a b => some (pack h 0x22 (w.code + 4 * c.code) (encP d) (encS a) (encSI b))
  | .plog h tt d a b => some (pack h 0x23 tt.toNat (encP d) (encP a) (encP b))
  | .scvt h rm ty sty u d a => some (pack h 0x24 (rm.code + 8 * ty.code + 128 * sty.code + 2048 * bit u) (encS d) (encS a) 0)
  | .fadd h o => some (packF3 h 0x25 o)
  | .fsub h o => some (packF3 h 0x26 o)
  | .fmul h o => some (packF3 h 0x27 o)
  | .fma h o => some (packF3 h 0x28 o)
  | .fdiv h o => some (packF3 h 0x29 o)
  | .fsqrt h rm dbl d a => some (pack h 0x2A (rm.code + 8 * encDbl dbl) (encS d) (encS a) 0)
  | .fmin h dbl d a b => some (pack h 0x2B (8 * encDbl dbl) (encS d) (encS a) (encS b))
  | .fmax h dbl d a b => some (pack h 0x2C (8 * encDbl dbl) (encS d) (encS a) (encS b))
  | .fcmp h dbl c d a b => some (pack h 0x2D (c.code + 8 * encDbl dbl) (encP d) (encS a) (encS b))
  | .br h v => some (pack h 0x2E 0 0 (encLA v) (encLB v))
  | .bri h b => some (pack h 0x2F 0 0 0 (encS b))
  | .call h vw v => some (pack h 0x30 vw.val 0 (encLA v) (encLB v))
  | .calli h vw b => some (pack h 0x31 vw.val 0 0 (encS b))
  | .ret h => some (pack h 0x32 0 0 0 0)
  | .loop h d v => some (pack h 0x33 0 (encS d) (encLA v) (encLB v))
  | .endT h => some (pack h 0x34 0 0 0 0)
  | .nop h => some (pack h 0x35 0 0 0 0)
  | .trap h v => some (pack h 0x36 0 0 0 (encI v))
  | .brk h v => some (pack h 0x37 0 0 0 (encI v))
  | .mfs h d n => some (pack h 0x38 0 (encS d) (encSys n) 0)
  | .mts h n b => some (pack h 0x39 0 (encSys n) (encSLA b) (encSLB b))
  | .ld h o => some (packLd h 0x40 0 o)
  | .ldc h o => some (packLd h 0x41 0 o)
  | .st h o => some (packSt h 0x42 0 o)
  | .ldaq h sc o => some (packLd h 0x43 sc.code o)
  | .strl h sc o => some (packSt h 0x44 sc.code o)
  | .ldb h ty u d a b => some (pack h 0x45 (modM (bit u) ty.code 0 0) (encS d) (encBuS a) (encSI b))
  | .stb h ty d a b => some (pack h 0x46 (modM 0 ty.code 0 0) (encSI d) (encBuS a) (encSI b))
  | .ldk h d a b => some (pack h 0x47 0 (encK d) (encSK a) (encSI b))
  | .stk h d a b => some (pack h 0x48 0 (encK d) (encSK a) (encSI b))
  | .kder h pm d a b => some (pack h 0x49 pm.toNat (encK d) (encK a) (encSI b))
  | .kprm h pm d a => some (pack h 0x4A pm.toNat (encK d) (encK a) 0)
  | .kadr h set d a b => some (pack h 0x4B (bit set) (encK d) (encK a) (encSI b))
  | .kget h f d a => some (pack h 0x4C f.code (encS d) (encK a) 0)
  | .ktst h pm d a b => some (pack h 0x4D pm.toNat (encP d) (encK a) (encSI b))
  | .kseal h d a => some (pack h 0x4E 0 (encK d) (encK a) 0)
  | .amo h sc ord ty opc d a b => some (pack h 0x4F (modM opc.code ty.code ord.code sc.code) (encS d) (encSK a) (encSI b))
  | .cas h sc ord ty d a b => some (pack h 0x50 (modM 0 ty.code ord.code sc.code) (encS d) (encSK a) (encSI b))
  | .ldsc h o => some (packLd h 0x51 5 o)
  | .stsc h o => some (packSt h 0x52 5 o)
  | .fence h w a s => some (pack h 0x53 (bit w + 2 * bit a + 8 * bit s) 0 0 0)
  | .fenr h sc ord b => some (pack h 0x54 (modM 0 0 ord.code sc.code) 0 0 (encSI b))
  | .phase h sc => some (pack h 0x55 (modM 0 0 0 sc.code) 0 0 0)
  | .rgset h slot (.key k) => some (pack h 0x56 slot.val 0 (encK k) 0)
  | .rgset h slot (.range a b) => some (pack h 0x56 slot.val 0 (encS a) (encSI b))
  | .rgclr h b => some (pack h 0x57 0 0 0 (encSI b))
  | .rgrd h slot f d => some (pack h 0x58 (slot.val + 16 * f.code) (encS d) 0 0)
  | .pref h l2 a b => some (pack h 0x59 (bit l2) 0 (encSK a) (encSI b))
  | .jrd h f d b => some (pack h 0x5A f.code (encS d) 0 (encSI b))
  | .jack h b => some (pack h 0x5B 0 0 0 (encSI b))
  | .vadd h s o => some (packV3 h 0x70 s.code o)
  | .vsub h s o => some (packV3 h 0x71 s.code o)
  | .vmul h o => some (packV3 h 0x72 0 o)
  | .vma h o => some (packV3 h 0x73 0 o)
  | .vmin h u o => some (packV3 h 0x74 (bit u) o)
  | .vmax h u o => some (packV3 h 0x75 (bit u) o)
  | .vabs h s o => some (packV2 h 0x76 (bit s) 0 0 o)
  | .vneg h s o => some (packV2 h 0x77 (bit s) 0 0 o)
  | .vand h o => some (packV3 h 0x78 0 o)
  | .vor h o => some (packV3 h 0x79 0 o)
  | .vxor h o => some (packV3 h 0x7a 0 o)
  | .vshl h o => some (packV3 h 0x7b 0 o)
  | .vshr h o => some (packV3 h 0x7c 0 o)
  | .vsar h o => some (packV3 h 0x7d 0 o)
  | .vcmp h msk ty any c d a b => some (pack h 0x7E (modV msk.val ty.code 0 (bit any) c.code) (encM d) (encV a) (encBc b))
  | .vsel h msk ty d a b => some (pack h 0x7F (modV msk.val ty.code 0 0 0) (encV d) (encV a) (encBc b))
  | .vcvt h msk ty sty zr ef cont d a p => some (pack h 0x80 (modV msk.val ty.code (bit zr) (bit ef + 2 * bit cont) sty.code) (encV d) (encV a) (encI p))
  | .vred h msk ty opc u d a => some (pack h 0x81 (modV msk.val ty.code 0 opc.code (bit u)) (encS d) (encV a) 0)
  | .vdot h msk ty acc d a b => some (pack h 0x82 (modV msk.val ty.code 0 (bit acc) 0) (encS d) (encV a) (encV b))
  | .vscan h opc u o => some (packV2 h 0x83 opc.code (bit u) 0 o)
  | .vperm h o b => some (packV2 h 0x84 0 0 (encV b) o)
  | .vshf h k o b => some (packV2 h 0x85 k.code 0 (encSI b) o)
  | .vbc h msk ty zr d b => some (pack h 0x86 (modV msk.val ty.code (bit zr) 0 0) (encV d) 0 (encSI b))
  | .vext h ty u d a b => some (pack h 0x87 (modV 0 ty.code 0 (bit u) 0) (encS d) (encV a) (encSI b))
  | .vins h ty d a b => some (pack h 0x88 (modV 0 ty.code 0 0 0) (encV d) (encS a) (encSI b))
  | .vld h msk ty zr d a b => some (pack h 0x89 (modV msk.val ty.code (bit zr) 0 0) (encV d) (encBuS a) (encSI b))
  | .vst h msk ty d a b => some (pack h 0x8A (modV msk.val ty.code 0 0 0) (encV d) (encBuS a) (encSI b))
  | .vldx h msk ty zr p d a b => some (pack h 0x8B (modV msk.val ty.code (bit zr) 0 p.val) (encV d) (encBuS a) (encV b))
  | .vstx h msk ty p d a b => some (pack h 0x8C (modV msk.val ty.code 0 0 p.val) (encV d) (encBuS a) (encV b))
  | .vldg h msk ty zr d (.plain a b) => some (pack h 0x8D (modV msk.val ty.code (bit zr) 0 0) (encV d) (encSK a) (encSI b))
  | .vldg h msk ty zr d (.shp a bf off) => some (pack h 0x8D (modV msk.val ty.code (bit zr) 1 0) (encV d) (encSK a) (encBu bf off))
  | .vstg h msk ty d a b => some (pack h 0x8E (modV msk.val ty.code 0 0 0) (encV d) (encSK a) (encSI b))
  | .vexp h o => some (packV2 h 0x8f 0 0 0 o)
  | .vlog h o => some (packV2 h 0x90 0 0 0 o)
  | .vrcp h o => some (packV2 h 0x91 0 0 0 o)
  | .vrsq h o => some (packV2 h 0x92 0 0 0 o)
  | .vcmul h o => some (packVC h 0x93 o)
  | .vcma h o => some (packVC h 0x94 o)
  | .vclmp h u o b => some (packV2 h 0x95 (bit u) 0 (encS b) o)
  | .mkand h d a b => some (pack h 0x96 0 (encM d) (encM a) (encM b))
  | .mkor h d a b => some (pack h 0x97 0 (encM d) (encM a) (encM b))
  | .mkxor h d a b => some (pack h 0x98 0 (encM d) (encM a) (encM b))
  | .mknot h d a => some (pack h 0x99 0 (encM d) (encM a) 0)
  | .mkpop h d a => some (pack h 0x9A 0 (encS d) (encM a) 0)
  | .mkset h f d b => some (pack h 0x9B (256 * bit f) (encM d) 0 (encSI b))
  | .mzero h cm d => some (pack h 0xB0 (cmCode cm) (encSI d) 0 0)
  | .mpass h o => some (packMP h 0xB1 0 o)
  | .mpassc h cj o => some (packMP h 0xB2 (2048 * bit cj) o)
  | .mpassr h ty bty d a b => some (pack h 0xB3 (8 * ty.code + 128 * bty.code) (encSI d) (encK a) (encBuS b))
  | .mscale h d a b => some (pack h 0xB4 0 (encSI d) (encBuS a) (encBuS b))
  | .mdrain h ty ef hd hp d a => some (pack h 0xB5 (8 * ty.code + 128 * bit ef + 256 * bit hd + 512 * hp.val) (encBuS d) (encSI a) 0)
  | .mpack h ty d a b => some (pack h 0xB6 (8 * ty.code) (encBuS d) (encBuS a) (encBuS b))
  | .mtrn h ty d a b => some (pack h 0xB7 (8 * ty.code) (encBuS d) (encBuS a) (encSI b))
  | .mcopy h d a => some (pack h 0xB8 0 (encSI d) (encSI a) 0)
  | .mstat h d n => some (pack h 0xB9 0 (encS d) 0 (encI n))
  | .mclr h b => some (pack h 0xBA 0 0 0 (encSI b))
  | .mcfg h b => some (pack h 0xBB 0 0 0 (encSI b))
  | .mcancel h => some (pack h 0xBC 0 0 0 0)
  | .mrowdone h => some (pack h 0xBD 0 0 0 0)
  | .spawn h none a b => some (pack h 0xD0 0 0 (encSK a) (encSI b))
  | .spawn h (some d) a b => some (pack h 0xD0 0 (encBuS d) (encSK a) (encSI b))
  | .chit h k cp cpv d a b => some (pack h 0xD1 (k.code + 8 * cp.val + 64 * bit cpv) (encSI d) (encSK a) (encSI b))
  | .claim h b => some (pack h 0xD2 0 0 0 (encSI b))
  | .unclaim h b => some (pack h 0xD3 0 0 0 (encSI b))
  | .bari h a b => some (pack h 0xD4 0 0 (encSK a) (encSI b))
  | .bara h sc a b => some (pack h 0xD5 (modM 0 0 0 sc.code) 0 (encSK a) (encSI b))
  | .tlset h sc d a b => some (pack h 0xD6 (modM 0 0 0 sc.code) (encSI d) (encSK a) (encSI b))
  | .tladd h sc d a b => some (pack h 0xD7 (modM 0 0 0 sc.code) (encSI d) (encSK a) (encSI b))
  | .tlwatch h d a b => some (pack h 0xD8 0 (encSI d) (encSK a) (encSI b))
  | .ask h dev d b => some (pack h 0xD9 (bit dev) (encBuS d) 0 (encSI b))
  | .crinit h dev a b => some (pack h 0xDA (bit dev) 0 (encBuS a) (encSI b))
  | .copy h dr sr xf hp db sb d a b => some (pack h 0xDB (d.kind dr db + 4 * a.kind sr sb + 16 * bit xf + 32 * hp.val) (encCopyOp d) (encCopyOp a) (encSI b))
  | .copyc h a => some (pack h 0xDC 0 0 (encBuS a) 0)
  | .bbinit h d a b => some (pack h 0xDD 0 (encBuS d) (encSI a) (encSI b))
  | .rcfg h a b => some (pack h 0xDE 0 0 (encS a) (encSI b))
  | .rget h b => some (pack h 0xDF 0 0 0 (encSI b))
  | .rgetFill h b => some (pack h 0xDF 1 0 0 (encSI b))
  | .rput h b => some (pack h 0xE0 0 0 0 (encSI b))
  | .rputFill h b => some (pack h 0xE0 1 0 0 (encSI b))
  | .psub h d a b => some (pack h 0xE1 0 (encBuS d) (encSK a) (encSI b))
  | .pdrop h b => some (pack h 0xE2 0 0 0 (encSI b))
  | .svc h n => some (pack h 0xE3 0 0 0 (encI n))
  | .eret h => some (pack h 0xE4 0 0 0 0)
  | .ctxsave h d a b => some (pack h 0xE5 0 (encS d) (encS a) (encS b))
  | .ctxload h a b => some (pack h 0xE6 0 0 (encS a) (encS b))
  | .nispill h d a b => some (pack h 0xE7 0 (encS d) (encS a) (encS b))
  | .succ h (.nxt b) => some (pack h 0xE8 0 0 (encSLA b) (encSLB b))
  | .succ h (.byt b) => some (pack h 0xE8 1 0 (encSLA b) (encSLB b))
  | .succ h (.both b) => some (pack h 0xE8 2 0 (encSLA b) (encSLB b))
  | .succ h .clr => some (pack h 0xE8 3 0 0 0)
  | .lput h => some (pack h 0xE9 0 0 0 0)
  | .swMarkerResume .. | .loadReply .. | .issueStallRelease .. | .journalOpenTimeout .. | .journalEmit ..
  | .deferredEmit .. | .journalAck .. | .storeRefused .. | .refusedTrapDelivery .. | .sliceLoad ..
  | .sliceStoreDrain .. | .atomicPort .. | .pageWalkDone .. | .pageFaultMessage .. | .faultReply ..
  | .uncorrectableError .. | .migrationCopyDone .. | .migrationNotice .. | .stubRequest .. | .stubReply ..
  | .reclamationScan .. | .ownerAck .. | .stubDrainTimeout .. | .redirect .. | .redirectOnly ..
  | .redirectOnlyReissue .. | .ownerUpdate .. | .ownerAckSend .. | .egressRelease .. | .misroute ..
  | .directoryAnswer .. | .flitCrcFail .. | .linkDown .. | .packetHop .. | .fabcfgWrite ..
  | .windowAccess .. | .farSideInAdvance .. | .farSideOutAdvance .. | .pdropDone .. | .copyJobStart ..
  | .copyPacketIssue .. | .copyPacketPerformed .. | .copyJobComplete .. | .landingStage ..
  | .matrixJobStart .. | .matrixSlabCommit .. | .matrixRowCommit .. | .matrixJobComplete ..
  | .mpassrFetchArrival .. | .rowStage .. | .fenceDone .. | .phaseDone .. | .fenrDone .. | .endDrainDone ..
  | .spawnReadDone .. | .mstatDone .. | .mcancelDone .. | .ctxsaveDone .. | .ctxloadDone .. | .brkReply ..
  | .scAnnounce .. | .scDeliver .. | .releaseChit .. | .depDecr .. | .barArrive .. | .byteArrive ..
  | .tlUpdate .. | .watchArrival .. | .askArrival .. | .askReply .. | .crinitArrival .. | .crierAnswer ..
  | .launchArrival .. | .creation .. | .ticketReadDone .. | .dispatch .. | .bell .. | .occupancyRefresh ..
  | .walkHop .. | .bounceReturn .. | .barrowTimeout .. | .admission .. | .contextFatal .. | .cutClose ..
  | .powerLoop .. | .budWrite .. | .retreqSet .. | .retreqClear .. | .sensorRead .. | .exchangeStatusRead ..
  | .arbiterBoundary .. | .vectorIdleTimeout .. | .retentionEntryStart .. | .retentionEntryDone ..
  | .retentionExitDone .. | .submissionAccept .. | .ticketSubmission .. | .ctxnew .. | .ctxkill ..
  | .mapPage .. | .alloc .. | .awning .. | .faultvec .. | .keyput .. | .evict .. | .restore .. | .migrate ..
  | .qcreate .. | .qreset .. | .attest .. | .lifecycle .. | .eventWrite .. | .moduleReset ..
  | .registerWrite .. | .linkTrained .. | .migrationInstall .. => none

end Sys2Proof
end

