-- ==== Sys2Proof/Machine/State.lean ====
section
/-! DEFINITION. State.lean: the state of one SZ4 module as plain data, and the state after reset (R496).
Tables that are mostly at their reset value (cores, slices, clusters, contexts) are lists of pairs keyed by number; a
number that is not listed stands for the reset value of that table (Machine/Ops.lean reads and writes them). -/

namespace Sys2Proof.Machine

/-- Why a step stops the whole machine. Both are safe: the model stops where the spec gives no effect. -/
inductive Fault where
  /-- A physical address at or above 192 x 10^9 in a die's stacks, or with bits [47:40] set, is accessed by an
  agent that no rule lets fault (R28: the address does not exist). Raised by physical reads and writes. Safe. -/
  | noSuchAddress (pa : Nat)
  deriving DecidableEq, Repr

/-- Why a step has no meaning. -/
inductive Refusal where
  /-- An instruction without a meaning yet: rejected by its mnemonic. Safe. -/
  | notModelled (mnemonic : String)
  deriving DecidableEq, Repr

/-- Memory and buffers: cells in strictly rising address order, none holding zero, the value of an unlisted cell. -/
abbrev Mem := List Host.Cell

/-- A key: 128 bits and the hidden tag (R43). -/
structure Key where
  bits : BitVec 128
  tag : Bool
  deriving DecidableEq, Repr

/-- What a frame is besides a ticket's task: a landing handler (job, packet), a row handler (job, row), or the
fault-handler ticket of R454. -/
inductive HKind where
  | plain
  | landing (job packet : Nat)
  | row (job row : Nat)
  | faultTicket (idx : Nat)
  deriving DecidableEq, Repr

/-- Who a frame is (R216, R418, R455, R494): the ticket it was admitted from. -/
structure Frame where
  ctx : Ctx
  tkt : W64
  pri : Nat
  lvl : Nat
  serial : BitVec 32
  rank : BitVec 32
  fansz : BitVec 32
  sys : Bool
  inst : Nat
  xdie : Nat
  origin : Option (Nat × Nat)
  kind : HKind
  args : List W64
  deriving DecidableEq, Repr

/-- What a parked frame waits for. -/
inductive Park where
  /-- a switch marker (R209) -/
  | marker
  /-- a free journal entry, job slot or trestle entry, or a range-slot count (R104, R140, R171, R175) -/
  | stall
  /-- an invalidation or an SC form not yet delivered (R263, R272) -/
  | acquire
  /-- a fetch miss (R40, R200) -/
  | fetch
  | fence (w a s : Bool)
  | phase (sc : Scope)
  | fenr (slots : BitVec 16) (sc : Scope) (ord : Order)
  | endWait
  | spawn (d : Option BuS) (a : SK) (b : SI)
  | mstat (d : SReg) (n : Nat)
  | mcancel
  | crinit (dev : Bool) (ch : Nat) (desc : BitVec 256) (st : Nat)
  | brk (tag : Nat)
  | ctxsave (d : Option SReg) (ctx : Ctx) (area : Nat)
  | ctxload (ctx : Ctx) (area : Nat)
  /-- the frame stands still because its context is frozen (R462) -/
  | frozen
  /-- the firmware's code of a service is to run, or its ERET is next (R379, R495) -/
  | service (n : Nat)
  | serviceEnd
  deriving DecidableEq, Repr

/-- A register window (R162). `pc` is where its frame continues. -/
structure Window where
  wid : Nat
  s : Vector W64 16
  p : BitVec 8
  m : Vector W64 8
  k : Vector Key 8
  v : List VReg
  drg : W64
  nxt : W64
  byt : W64
  hnde : W64
  flg : BitVec 7
  pthr : Nat
  rpc : W64
  callw : Bool
  svc : Bool
  adm : Bool
  pc : W64
  park : Option Park
  /-- no instruction of a fault window has issued yet (R450) -/
  fresh : Bool
  fr : Frame
  deriving DecidableEq, Repr

/-- States of a journal entry (R103). A free entry is not listed. -/
inductive JSt where
  | opened
  | closed
  | draining
  /-- performed at its slice, acknowledgement under way (R106) -/
  | performed
  /-- refused at its slice, answer under way (R109) -/
  | refusing
  | refused
  /-- relayed by a stub of this device (R61) -/
  | relayed
  /-- met MISROUTE; waits for the directory (R71) -/
  | misrouted
  /-- met REDIRECT-ONLY; waits for its re-issue (R67) -/
  | redirected
  deriving DecidableEq, Repr

/-- A journal entry (R103). `stamp` orders it among the core's entries, atomics and deferred sends. -/
structure JEntry where
  idx : Nat
  st : JSt
  ctx : Ctx
  serial : BitVec 32
  region : BitVec 8
  dev : Nat
  blk : Nat
  data : BitVec 512
  mask : BitVec 64
  stk : Bool
  tag : Bool
  slots : BitVec 16
  opened : Nat
  stamp : Nat
  rel : Bool
  sc : Bool
  viaKey : Bool
  tries : Nat
  fr : Frame
  /-- the minimal path's port that an ordered request took (R88), and whether it is counted under a 2 MiB page (R65) -/
  port : Option Nat := none
  big : Bool := false
  /-- `stamp` of the store that entered its bytes last (R388) -/
  last : Nat := 0
  /-- its instance was discarded after its emission: a refusal of it is dropped (R456, R494) -/
  orphan : Bool := false
  deriving DecidableEq, Repr

/-- Who waits for a translation: an access, a copy packet, an MPASSR fetch, a porter or a fetch of a core. -/
inductive Waiter where
  | acc (x : AccRef)
  | packet (core job k : Nat)
  | operand (core job : Nat)
  | porter (core ring : Nat)
  | fetch (core wid : Nat)
  | exchange (die : Nat)
  /-- a chit or watch at a slice, by context and object; `ext`: it comes from another device (R363 to R365) -/
  | chit (x : Ctx) (region : BitVec 8) (off : Nat) (ext : Bool)
  deriving DecidableEq, Repr

/-- Where a part of an outstanding access stands. -/
inductive PartSt where
  /-- on its way to its slice or window, or waiting there -/
  | queued
  /-- waiting at the egress (R66) -/
  | egress
  | remote
  | misrouted
  | redirected
  | done
  deriving DecidableEq, Repr

/-- One line's part of an outstanding access. -/
structure Part where
  off : Nat
  n : Nat
  /-- offset of the first byte of `data`: the line's start, or `off` for a window or host access -/
  base : Nat
  dev : Nat
  st : PartSt
  tries : Nat
  data : List Byte
  ktag : Bool
  /-- its line was invalidated after the request was sent (R101) -/
  inval : Bool
  /-- the minimal path's port that an ordered request took (R88), and whether it is counted under a 2 MiB page (R65) -/
  port : Option Nat := none
  big : Bool := false
  deriving DecidableEq, Repr

/-- What an outstanding access returns (R208). -/
inductive PendKind where
  | load (ty : Ty) (uns : Bool) (d : SReg)
  | key (d : KReg)
  /-- VLDG: destination, ZR, and the register bits of its active lanes -/
  | vec (d : VIdx) (zr : Bool) (lanes : VReg)
  | amo (opc : AmoOp) (ty : Ty) (d : SReg) (x : W64)
  | cas (ty : Ty) (d : SReg) (expect new : W64)
  | mfs (n : Nat) (d : SReg)
  | pref
  | spawn
  /-- the wait of an STSC for its delivery (R272) -/
  | stsc
  /-- a store to the issuing core's own buffers that waits for earlier stores (STRL) or its place (STSC), with its bytes
  (R103, R264, R272) -/
  | ownStore (bs : List (Option Byte))
  /-- a read or a write of an engine or porter of the core to a peer or to region 0x01 (R65, R93) -/
  | engRead (who : Waiter)
  | engWrite (who : Waiter) (bs : List (Option Byte))
  deriving DecidableEq, Repr

/-- An outstanding access of a core (R208 to R212). -/
structure Pend where
  id : Nat
  wid : Nat
  kind : PendKind
  ctx : Ctx
  fr : Frame
  stamp : Nat
  region : BitVec 8
  off : Nat
  n : Nat
  viaKey : Bool
  cached : Bool
  alloc : Bool
  acq : Bool
  rel : Bool
  sc : Bool
  scDone : Bool
  /-- an invalidation at its return: LDAQ and acquiring atomics at scope ISSUE or wider (R263) -/
  wide : Bool
  dead : Bool
  /-- bits of a vector destination whose result is discarded -/
  deadLanes : VReg
  jrn : List (Option Byte)
  jtag : Option Bool
  slots : BitVec 16
  /-- the per-core sequence of an SC form (R272, R399) -/
  seq : BitVec 32
  /-- the offset of each byte of a gathered result, none for a byte that reads zero; empty for consecutive bytes -/
  map : List (Option Nat)
  parts : List Part
  deriving DecidableEq, Repr

/-- An L1 snapshot line (R98). -/
structure L1Line where
  ctx : Ctx
  region : BitVec 8
  line : Nat
  data : List Byte
  deriving DecidableEq, Repr

/-- A range slot (R171, R278). -/
structure Slot where
  cnt : Nat
  v : Bool
  ctx : Ctx
  region : BitVec 8
  dev : Nat
  base : Nat
  len : Nat
  deriving DecidableEq, Repr

/-- A porter stream bound to a ring (R134), with the shape record it copied. -/
structure Stream where
  shape : BitVec 512
  region : BitVec 8
  base : Nat
  viaKey : Option Key
  rank : Nat
  fansz : Nat
  /-- index of the next tile among those of the rank (R133) -/
  next : Nat
  origin : Frame
  /-- rows of that tile already moved (R118) -/
  row : Nat := 0
  /-- bytes of that tile: those that have come, or the whole slot from the moment a porter begins to empty it (R129) -/
  data : List Byte := []
  deriving DecidableEq, Repr

/-- An unsatisfied get: its index and its captured successor (R123); `stamp` orders it among the core's entries (R397); `tid` is its
trestle entry (R126). -/
structure Get where
  g : Nat
  nxt : W64
  fr : Frame
  stamp : Nat
  tid : Nat := 0
  deriving DecidableEq, Repr

/-- A ring descriptor (R119, R120, R376). -/
structure Ring where
  rdc : W64
  wp : Nat
  rp : Nat
  cnt : Nat
  gc : Nat
  bound : Bool
  eos : Bool
  ovf : Bool
  seq : BitVec 32
  fgc : Nat
  gets : List Get
  fgets : List Get
  stream : Option Stream
  /-- PDROPs waiting to release their successors, and the slots of an out ring still to be emptied for them (R136) -/
  drop : List Get
  dropLeft : Nat
  /-- satisfied gets, and fill gets, whose trestle entry still waits for earlier jobs (R126) -/
  held : List Get
  fheld : List Get
  deriving DecidableEq, Repr

/-- A range of buffer granules a job touches, or a physical C tile (buffer 2) (R173). -/
structure Gran where
  buf : Nat
  lo : Nat
  hi : Nat
  deriving DecidableEq, Repr

/-- A trestle entry: footprint and the earlier jobs it waits for (R173 to R175). -/
structure Tr where
  tid : Nat
  reads : List Gran
  writes : List Gran
  edges : List Nat
  /-- a ring operation, with its ring and slot (R126) -/
  ring : Option (Nat × Nat)
  fr : Frame
  deriving DecidableEq, Repr

/-- An endpoint of a copy job (R138): kind code, offset, region and captured key; for a ring, the slot's place in the
form of a buffer offset. -/
structure End where
  kind : Nat
  off : Nat
  region : BitVec 8
  key : Option Key
  slot : Nat
  /-- number of the key register (R153) -/
  keyNo : Nat := 0
  deriving DecidableEq, Repr

/-- Where a copy packet stands: in flight, waiting in a staging slot, with its landing handler, put by it, or performed
(R145, R148). -/
inductive PkSt where
  | flight
  | staged
  | handler
  | put
  | performed
  deriving DecidableEq, Repr

/-- A packet of a copy job: number, standing, the bytes read (none before the read). -/
structure Pk where
  k : Nat
  st : PkSt
  data : List Byte
  deriving DecidableEq, Repr

/-- A copy job (R138 to R155). `issued` packets have left or, after a restore, lay below DONE; `counted` are those below
the counted frontier (R152); `tags` holds the range slots of the unperformed packets that have any (R277). -/
structure CopyJob where
  tid : Nat
  ctx : Ctx
  fr : Frame
  stamp : Nat
  dst : End
  src : End
  len : Nat
  xf : Bool
  hpri : Nat
  hnde : W64
  nxt : W64
  byt : W64
  /-- the chain it belongs to, 0 for COPY (R143, R153) -/
  chain : Nat
  started : Bool
  issued : Nat
  packets : List Pk
  counted : Nat
  tags : List (Nat × BitVec 16)
  /-- bytes of an 8-byte unit that packets n - 1 and n share, left by the one of them performed first (R147) -/
  seams : List (Nat × List Byte) := []
  deriving DecidableEq, Repr

/-- What a matrix job does (R313 to R343), with every operand resolved at issue. -/
inductive MOp where
  | zero
  | pass (ty bty : Ty) (cplx cj : Bool) (k p m aoff boff : Nat)
  | passr (ty bty : Ty) (k p m boff : Nat) (key : Key)
  | scale (src : Nat) (srcI64 : Bool) (abuf aoff bbuf boff : Nat)
  | drain (ty : Ty) (mode : CellMode) (ef hd : Bool) (hpri row0 rows buf off tile : Nat)
  | pack (ty : Ty) (k stride base dst : Nat)
  | trn (e rows cols src dst : Nat)
  | copy (src : Nat)
  deriving DecidableEq, Repr

/-- A matrix job (R320): physical tile, the renamed one it reads (R176), cursor, captured successor and bytebar. -/
structure MJob where
  tid : Nat
  word : BitVec 96
  ctx : Ctx
  fr : Frame
  stamp : Nat
  op : MOp
  tile : Nat
  old : Option Nat
  hnde : W64
  nxt : W64
  byt : W64
  act : Bool
  held : Bool
  cur : Nat
  cancel : Bool
  /-- the 128-byte lines of operand A that have arrived, by number, for MPASSR (R331); a line holds its bytes of the operand -/
  adata : List (Nat × List Byte)
  /-- rows performed by handlers and rows counted into the bytebar (R338) -/
  rows : List Nat
  counted : Nat
  deriving DecidableEq, Repr

/-- A handler ticket waiting in a staging slot or row, or the fault-handler ticket of R454 (R418). -/
structure Waiting where
  kind : HKind
  prio : Nat
  entry : W64
  ctx : Ctx
  args : List W64
  payload : List Byte
  vw : Nat
  origin : Option (Nat × Nat)
  deriving DecidableEq, Repr

/-- The per-context registers of a core (R150, R190, R191, R317, R325). -/
structure CtxCore where
  cflg : BitVec 7
  seqcDone : BitVec 32
  seqcIssued : BitVec 32
  seqmDone : BitVec 32
  seqmIssued : BitVec 32
  mxc : Vector W64 4
  tileL : Nat
  tileMap : List Nat
  lmode : List CellMode
  colour : Bool
  sentOld : Nat
  recvOld : Nat
  deriving DecidableEq, Repr

/-- A level of the shadow state (R172, R319). -/
structure Level where
  dmode : CellMode
  bpos : Nat
  carry : BitVec 32
  deriving DecidableEq, Repr

/-- An allocation register (R157). -/
structure Bal where
  v : Bool
  ctx : Ctx
  wbase : Nat
  wend : Nat
  abase : Nat
  aend : Nat
  sbase : Nat
  send : Nat
  cmask : BitVec 8
  deriving DecidableEq, Repr

/-- An awning record (R169). -/
structure Awn where
  v : Bool
  id : Nat
  ceil : Nat
  ctx : Ctx
  held : Bool
  deriving DecidableEq, Repr

/-- A claim-stack entry (R170): record, saved THR, and the window that claimed. -/
structure Claim where
  rcd : Nat
  thr : Nat
  wid : Nat
  deriving DecidableEq, Repr

/-- A barrow entry (R168): the ticket in it and when it came. -/
structure BarrowEntry where
  inst : Nat
  xdie : Nat
  prio : Nat
  since : Nat
  deriving DecidableEq, Repr

/-- A footprint range (R426): region, first offset, granules, and whether it is a write range. -/
structure Range where
  region : BitVec 8
  base : Nat
  ngr : Nat
  wr : Bool
  deriving DecidableEq, Repr

/-- How a creation asks to be made (R403, R405). -/
inductive CreKind where
  /-- bytes read and checked: image, footprint ranges, predecessor count, anchor core, shape record -/
  | image (img : BitVec 512) (foot : List Range) (count : Nat) (anchor : Nat) (shape : Option (Nat × List Byte))
  /-- a ticket whose footprint record is still to be read -/
  | ticket (img : BitVec 512)
  /-- a release that found no parked instance; the ticket is still to be read -/
  | release
  deriving DecidableEq, Repr

/-- A creation waiting at the Exchange input (R425): context and ticket address, the die of R437, whether the issuer is a
SYS ticket or firmware, the origin of R494. -/
structure Creation where
  ctx : Ctx
  tkt : Nat
  kind : CreKind
  issuerDie : Nat
  sys : Bool
  origin : Option (Nat × Nat)
  /-- created by a host queue (R403) -/
  host : Bool
  deriving DecidableEq, Repr

/-- What a deferred send carries (R264, R354, R363, R364, R397). -/
inductive Send where
  | chit (c : Chit)
  | watch (dev : Nat) (region : BitVec 8) (off : Nat) (threshold : W64) (nxt : W64)
  /-- a launch by SPAWN for an Exchange of this device, or for another device (R356, R358) -/
  | launch (c : Creation)
  | away (dev : Nat) (l : Launch)
  deriving DecidableEq, Repr

/-- What a release waits for: the entries and atomics that a ticket issued on a core before a stamp (R397). -/
structure Gate where
  core : Nat
  fr : Frame
  stamp : Nat
  deriving DecidableEq, Repr

/-- A send held until the ticket's earlier entries and atomics are done (R264, R397), and those of other tickets that it
covers. -/
structure Defer where
  serial : BitVec 32
  ctx : Ctx
  stamp : Nat
  wait : Bool
  what : Send
  fr : Frame
  gates : List Gate
  deriving DecidableEq, Repr

/-- A REFUSED trap not yet delivered (R453, R454). -/
structure Trap where
  idx : Nat
  fr : Frame
  deriving DecidableEq, Repr

/-- Requesters of the current arbiter (R473). -/
inductive Load where
  | matrix
  | vector
  | copy (job : Nat)
  deriving DecidableEq, Repr

/-- Classes of R474. -/
inductive RClass where
  | pass16
  | pass8
  | macroOp
  | copy
  deriving DecidableEq, Repr

/-- A captured message: kind 0 chit, 1 window access, 2 copy packet; its 32-byte header and payload (R464). -/
structure Msg where
  kind : Nat
  head : BitVec 256
  payload : List Byte
  deriving DecidableEq, Repr

/-- A core (R8). -/
structure Core where
  wins : List Window
  spilled : List Window
  thr : Nat
  bufW : Mem
  bufA : Mem
  bufS : Mem
  bufC : List (Nat × W64)
  stags : List Nat
  l1 : List L1Line
  jrn : List JEntry
  pend : List Pend
  defer : List Defer
  slots : Vector Slot 16
  rings : Vector Ring 16
  copies : List CopyJob
  mjobs : List MJob
  mrun : Option Nat
  trestle : List Tr
  waiting : List Waiting
  ctxs : List (Ctx × CtxCore)
  levels : Vector Level 8
  bals : Vector Bal 8
  awns : Vector Awn 32
  claims : List Claim
  barrow : List BarrowEntry
  /-- one more than the tick in which entries of the barrow last freed, and how many did (R444) -/
  freed : Nat × Nat
  traps : List Trap
  scSeq : BitVec 32
  stamp : Nat
  vidle : Nat
  /-- arrivals of a saved context, kept for its save area (R463) -/
  captured : List (Ctx × Msg)
  /-- the tickets that have counted into the bytebar at an S offset since its last firing (R152, R397) -/
  gates : List (Nat × Gate)
  deriving DecidableEq, Repr

/-- A line of an L2 slice (R94): dirty lines are written back to `pa`. -/
structure L2Line where
  ctx : Ctx
  line : Nat
  pa : Nat
  dirty : Bool
  data : List Byte
  tags : List Bool
  deriving DecidableEq, Repr

/-- A TLB entry (R95): size code, VPN and the page-table entry. -/
structure TlbEntry where
  ctx : Ctx
  size : Nat
  vpn : Nat
  pte : W64
  deriving DecidableEq, Repr

/-- Access kinds of a fault message (R39). -/
inductive AccKind where
  | load | store | atomic | fetch | engine
  deriving DecidableEq, Repr

/-- A walk in flight at a slice (R95). -/
structure Walk where
  ctx : Ctx
  va : Nat
  kind : AccKind
  /-- the requesting device and module core -/
  dev : Nat
  core : Nat
  sys : Bool
  who : Waiter
  deriving DecidableEq, Repr

/-- A pending-fault entry (R39): context, 64 KiB range, kind, whether its message was answered, who joined, and whether its context
was evicted since, so that its reply is discarded (R41). -/
structure PFault where
  ctx : Ctx
  range : Nat
  kind : AccKind
  /-- the requesting device and module core -/
  dev : Nat
  core : Nat
  answered : Option Bool
  who : List Waiter
  stale : Bool := false
  deriving DecidableEq, Repr

/-- A watch on a timeline (R365); `dev` is the device of its successor, `core` the core that sent it. -/
structure Watch where
  dev : Nat
  core : Nat
  ctx : Ctx
  region : BitVec 8
  off : Nat
  threshold : W64
  nxt : W64
  fr : Frame
  deriving DecidableEq, Repr

/-- An access that a slice has accepted and not yet performed (R57, R97): who it is, its address, requesting device and core,
the tick of its acceptance, its rank of R97 (0 atomic, 1 store of the mesh input, 2 store of the fabric input, 3 load, 4 SC
form), whether it is of the ordered class, whether its miss waits for a free pending-fault entry (R39), whether it came by the
fabric input (R94), and its place in its core's SC sequence (R399). -/
structure Accepted where
  who : Waiter
  ctx : Ctx
  region : BitVec 8
  off : Nat
  dev : Nat
  core : Nat
  tick : Nat
  rank : Nat
  ord : Bool
  stuck : Bool
  fab : Bool
  seq : BitVec 32
  deriving DecidableEq, Repr

/-- An L2 slice (R92 to R97, R114, R366). `walks` stands in arrival order, its first eight in flight; `input` holds the accepted
accesses in order; `done` the accesses performed in tick `doneAt` by context, line and rank; `port` the tick in which the atomic
port last performed an atomic accepted in that tick, and whether by the fabric input (R114). -/
structure Slice where
  lines : List L2Line
  tlb : List TlbEntry
  walks : List Walk
  faults : List PFault
  input : List Accepted
  doneAt : Nat
  done : List (Ctx × Nat × Nat)
  toggle : Bool
  port : Option (Nat × Bool)
  watches : List Watch
  extraWatches : List Watch
  deriving DecidableEq, Repr

/-- A reservation of an arbiter (R474, R478): who, class, the steps since the grant, the ramp-down step, the context of its work,
and its draw in the step before. -/
structure Resv where
  pos : Nat
  unit : Load
  cls : RClass
  prio : Nat
  age : Nat
  down : Option Nat
  ending : Bool
  ctx : Ctx
  prev : Nat
  deriving DecidableEq, Repr

/-- A pending request of an arbiter (R475), with the tick in which it was made. -/
structure Req where
  pos : Nat
  unit : Load
  cls : RClass
  prio : Nat
  ctx : Ctx
  since : Nat
  deriving DecidableEq, Repr

/-- States of RST (R470). -/
inductive Rst where
  | active | entering | retained | exiting
  deriving DecidableEq, Repr

/-- A cluster's arbiter, budget and retention (R470 to R483). -/
structure Cluster where
  bud : Nat
  budNext : Nat
  retreq : Bool
  rst : Rst
  rstSince : Nat
  ptr : Nat
  resv : List Resv
  reqs : List Req
  steps : Nat
  sumDraw : Nat
  peak : Nat
  gwait : Nat
  busy : Nat
  /-- one more than the tick of its last step boundary (R475) -/
  last : Nat
  deriving DecidableEq, Repr

/-- Where a ticket stands (R404). -/
inductive InstSt where
  | parked | ready | walking | waiting | running
  deriving DecidableEq, Repr

/-- A created ticket (R402 to R405): its image fields, rank, group of one launch, priority and place. -/
structure Inst where
  id : Nat
  ctx : Ctx
  tkt : Nat
  image : BitVec 512
  rank : Nat
  fansz : Nat
  /-- the launch it belongs to: predecessor count, footprint and edges are the launch's (R356, R430) -/
  launch : Nat
  st : InstSt
  /-- the tick in which its count reached zero (R424) -/
  since : Nat
  prio : Nat
  hint : Option Nat
  /-- the hint's device (R356) -/
  hdev : Nat
  pin : Bool
  radius : Nat
  bounces : Nat
  issuerDie : Nat
  foot : List Range
  shape : Option (Nat × List Byte)
  origin : Option (Nat × Nat)
  host : Bool
  /-- the device and number of the launch it came from, if that is another device's (R358, R431) -/
  home : Option (Nat × Nat) := none
  deriving DecidableEq, Repr

/-- A launch: predecessor count and footprint shared by its tickets (R356, R430), and the launches it waits for. -/
structure LaunchRec where
  id : Nat
  ctx : Ctx
  tkt : Nat
  count : Nat
  foot : List Range
  edges : List Nat
  left : Nat
  /-- queue and HSEQ of the host entry that it is, completed by its last END (R493) -/
  host : Option (Nat × Nat)
  deriving DecidableEq, Repr

/-- An Exchange (R423 to R445). -/
structure Exchange where
  insts : List Inst
  launches : List LaunchRec
  queues : Vector (List Nat) 8
  zeroQ : List Nat
  input : List Creation
  /-- contexts and ticket addresses that are owed a DEP-DECR (R431) -/
  decrs : List (Ctx × Nat)
  /-- AGE of R434 in tick t is t + 1 minus this -/
  age : Vector Nat 8
  hi : Vector Bool 8
  /-- queue and tick of the last dispatch -/
  lastQ : Option (Nat × Nat)
  stall : Nat
  bellx : Nat
  occ : List (Nat × Nat)
  /-- the latest step of R424: its tick, its number, and how often it was taken in that tick -/
  stepAt : Option (Nat × Nat × Nat)
  /-- the tick and chit lane of the last release taken (R424) -/
  laneAt : Option (Nat × Nat)
  /-- contexts and ticket addresses of parked instances that QRESET discarded, with the releases they still awaited (R494) -/
  gone : List (Ctx × Nat × Nat)
  deriving DecidableEq, Repr

/-- A walk through the mesh (R440), outward or on its way back. -/
structure MeshWalk where
  inst : Nat
  xdie : Nat
  die : Nat
  row : Nat
  col : Nat
  trow : Nat
  tcol : Nat
  radius : Nat
  back : Bool
  start : Nat
  deriving DecidableEq, Repr

/-- A channel of a crier (R367): its context, descriptor, next coordinate. -/
structure Channel where
  ctx : Ctx
  desc : BitVec 256
  pos : Option (Nat × Nat × Nat)
  deriving DecidableEq, Repr

/-- A crier (R367 to R370, R463). -/
structure Crier where
  chans : List (Nat × Channel)
  flipped : List Ctx
  sentOld : List (Ctx × Nat)
  recvOld : List (Ctx × Nat)
  deriving DecidableEq, Repr

/-- Standing of a context on the device (R456, R462). -/
inductive CtxSt where
  | live
  | frozen
  | evicted
  | dead (code : BitVec 8)
  deriving DecidableEq, Repr

/-- A context (R30, R449, R456, R459). -/
structure CtxRec where
  trans : BitVec 576
  vec : W64
  st : CtxSt
  dropl : Nat
  nextSerial : BitVec 32
  debugger : Bool
  deriving DecidableEq, Repr

/-- An owner-cache entry (R51) and the set and way it stands in; the list is in order of use, most recent first. An entry that
is not listed is zero. -/
structure OwnerEntry where
  set : Nat
  way : Nat
  v : Bool
  big : Bool
  ctx : Ctx
  page : Nat
  owner : Nat
  gen : BitVec 32
  deriving DecidableEq, Repr

/-- A page-order entry (R65): accesses outstanding toward one owner. -/
structure PageOrder where
  ctx : Ctx
  page : Nat
  big : Bool
  dev : Nat
  count : Nat
  deriving DecidableEq, Repr

/-- A migration hold (R56). -/
structure Hold where
  ctx : Ctx
  page : Nat
  big : Bool
  deriving DecidableEq, Repr

/-- A migration this device is the old owner of, between steps 1 and 4 of R56. -/
structure Migr where
  ctx : Ctx
  page : Nat
  big : Bool
  newOwner : Nat
  gen : BitVec 32
  shmask : BitVec 64
  queue : Nat
  hseq : Nat
  deriving DecidableEq, Repr

/-- A page this device owns, with its generation (R50). -/
structure Owned where
  ctx : Ctx
  page : Nat
  big : Bool
  gen : BitVec 32
  deriving DecidableEq, Repr

/-- A request relayed by a stub (R61). -/
structure Relay where
  stub : Nat
  req : PeerReq
  deriving DecidableEq, Repr

/-- An OWNER-ACK this device owes (R68). -/
structure AckDue where
  ctx : Ctx
  page : Nat
  big : Bool
  stubDev : Nat
  stubIdx : Nat
  deriving DecidableEq, Repr

/-- A port of the router (R73, R75, R80). On a device that is not its group's bridge, port 37 stands for the bridge's (R91). -/
structure Port where
  up : Bool
  replays : Nat
  /-- the packet whose flit was sent last; what `replays` counts are the failures of that flit (R75) -/
  fly : Option Packet
  /-- flits of chits sent since data last had its turn, and the data channel served last (R86) -/
  chits : Nat
  rr : Nat
  deriving DecidableEq, Repr

/-- A port whose link is down. -/
def Port.down : Port := ⟨false, 0, none, 0, 0⟩

/-- A chit in flight within the device, with who sent it: a core by its number, slice n as 1000 + n, the crier or
Exchange of die d as 2000 + d. `dev`: it comes from this other device. -/
structure Flying where
  c : Chit
  src : Nat
  fr : Frame
  dev : Option Nat := none
  deriving DecidableEq, Repr

/-- An ASK on its way to a crier (R370); `stamp` orders it among the core's entries (R397). -/
structure AskMsg where
  die : Nat
  ch : Nat
  core : Nat
  ctx : Ctx
  dst : Nat
  nxt : W64
  stamp : Nat
  fr : Frame
  deriving DecidableEq, Repr

/-- An ASK-REPLY in flight from the crier of a die: destination dword, successor, coordinate (R370). -/
structure AskBack where
  die : Nat
  core : Nat
  ctx : Ctx
  dst : Nat
  nxt : W64
  coord : W64
  stamp : Nat
  fr : Frame
  deriving DecidableEq, Repr

/-- An SC form announced or to be announced (R272, R399). -/
structure ScForm where
  window : Nat
  core : Nat
  seq : BitVec 32
  id : Nat
  ctx : Ctx
  line : Nat
  announced : Bool
  deriving DecidableEq, Repr

/-- A command handed to the firmware (R488, R489). -/
structure Cmd where
  hseq : Nat
  opc : Nat
  carg : BitVec 384
  deriving DecidableEq, Repr

/-- States of a queue (R485). -/
inductive QSt where
  | absent | running | stopped | resetting
  deriving DecidableEq, Repr

/-- An event waiting for room in its ring (R491, R492). -/
structure Event where
  kind : Nat
  h0 : Nat
  h1 : Nat
  n0 : Nat
  n1 : Nat
  narg : List W64
  frec : BitVec 512
  deriving DecidableEq, Repr

/-- A host queue (R484, R485). The header's host-written dwords stand in the arena's memory. -/
structure Queue where
  st : QSt
  why : Nat
  base : Nat
  ns : Nat
  ne : Nat
  ctx : Ctx
  lacc : Nat
  lcmp : Nat
  done : List Nat
  eseq : Nat
  events : List Event
  cmds : List Cmd
  /-- accepted tickets not yet created: HSEQ, TADDR, image -/
  tickets : List (Nat × Nat × BitVec 512)
  /-- one more than the tick of the last acceptance (R488) -/
  accAt : Nat
  /-- slots of the submission ring whose entries stood above H1 when the queue was last reset, and that the host has not written since
  (R494) -/
  stale : List Nat
  deriving DecidableEq, Repr

/-- An eviction or restore under way (R462, R465). -/
structure Evict where
  ctx : Ctx
  queue : Nat
  hseq : Nat
  base : Nat
  cores : List Nat
  left : List Nat
  isRestore : Bool
  /-- of an eviction: the cut has closed, and NISPILL is under way (R462) -/
  spilling : Bool
  deriving DecidableEq, Repr

/-- A per-core save area as CTXSAVE and NISPILL leave it (R382, R384, R464): windows from the bottom, buffer cells of the
allocation, jobs with their footprints, refused entries with their traps and handlers, and captured messages. -/
structure SaveArea where
  ctx : Ctx
  dev : Nat
  core : Nat
  wins : List Window
  claims : List Claim
  awns : List (Nat × Awn)
  bal : Option Bal
  cx : CtxCore
  levels : List (Nat × Level)
  slots : List (Nat × Slot)
  rings : List (Nat × Ring)
  copies : List CopyJob
  mjobs : List MJob
  trestle : List Tr
  refused : List JEntry
  traps : List Trap
  waiting : List Waiting
  bufW : Mem
  bufA : Mem
  bufS : Mem
  bufC : List (Nat × W64)
  stags : List Nat
  msgs : List Msg
  deriving DecidableEq, Repr

/-- A message that waits at a die's service core (R6): a fault message of a slice by its pending-fault entry's context, range and
kind (R39), a MISROUTE by its access (R71), or the stop of a frame at BRK with its tag (R251). -/
inductive SvcMsg where
  | fault (slice : Nat) (ctx : Ctx) (range : Nat) (kind : AccKind) (dev core : Nat)
  | misroute (x : AccRef) (ctx : Ctx) (off : Nat)
  | brk (core wid : Nat) (ctx : Ctx) (tkt pc : W64) (tag : Nat)
  deriving DecidableEq, Repr

/-- An arrival held at the ring stop of a cluster in retention: a window access, a chit, an ASK-REPLY, or an access of an
engine (R482). -/
inductive HeldMsg where
  | access (r : AccRef)
  | chit (f : Flying)
  | back (b : AskBack)
  | engine (w : Waiter)
  deriving DecidableEq, Repr

/-- A turn of the schedule: which agent moves next (log 1). -/
inductive Turn where
  /-- a core issues, or wakes, its next instruction -/
  | core (c : Nat)
  /-- a step of another agent -/
  | event (i : Instr)
  /-- the host writes bytes of the queue arena (R486) -/
  | arena (off : Nat) (bs : List Byte)
  /-- the host writes its own memory (log 5) -/
  | hostMem (a : Nat) (bs : List Byte)
  /-- time passes -/
  | ticks (n : Nat)
  deriving DecidableEq, Repr

/-- The state of the module. -/
structure State where
  /-- the model's own: the core that moves when `agenda` is empty, the schedule, the use count of free values -/
  cur : Nat
  agenda : List Turn
  free : Nat
  tick : W64
  cores : List (Nat × Core)
  slices : List (Nat × Slice)
  clusters : List (Nat × Cluster)
  mem : Mem
  mtags : List Nat
  host : Mem
  contexts : List (Ctx × CtxRec)
  exchanges : Vector Exchange 4
  criers : Vector Crier 4
  walks : List MeshWalk
  chits : List Flying
  asks : List AskMsg
  askBacks : List AskBack
  /-- watches on their way to their slices (R365) -/
  watchMsgs : List Watch
  scForms : List ScForm
  nextId : Nat
  dev : Nat
  fabcfg : W64
  doubling : W64
  routes : List (Nat × W64)
  ports : Vector Port 48
  packets : List (Nat × Packet)
  out : List OutMsg
  owners : List OwnerEntry
  owned : List Owned
  pageOrder : List PageOrder
  acksDue : List AckDue
  migcfg : W64
  holds : List Hold
  migrations : List Migr
  installs : List Owned
  relays : List Relay
  stubSent : List (Nat × Nat)
  queues : Vector Queue 16
  evicts : List Evict
  /-- arrivals held at clusters in retention, by cluster, in order of arrival (R482, R483) -/
  held : List (Nat × HeldMsg)
  /-- what waits at the service core of each die, oldest first (R6) -/
  mail : Vector (List SvcMsg) 4
  /-- storage of region 0xFF: the bytes written there, a zero being listed too (R23, R381, log 15) -/
  sysMem : Mem
  /-- the dwords of firmware's last read of registers of region 0xFF (R18, R51, R436, R470, R471) -/
  fwRead : List W64
  /-- save areas by their region 0xFF offsets (R464, R506) -/
  saves : List (Nat × SaveArea)
  /-- AM0 to AM7 (R498), each as the numbers of the boot digests that have extended it since the reset, newest first; its 512
  bits are `State.amVal` -/
  am : Vector (List Nat) 8
  life : Nat
  /-- the firmware bundle in boot flash, and what fuses hold for its check: the key hash and the rollback count (R497, R501) -/
  flash : Config.Bundle
  keyHash : BitVec 512
  rollback : Nat
  deriving DecidableEq, Repr

/-! ### The values after reset (R496); values the spec does not give are those of log 3 -/

def Key.zero : Key := ⟨0, false⟩

def Slot.zero : Slot := ⟨0, false, 0, 0, 0, 0, 0⟩

def Ring.zero : Ring := ⟨0, 0, 0, 0, 0, false, false, false, 0, 0, [], [], none, [], 0, [], []⟩

def CtxCore.zero : CtxCore :=
  ⟨0, 0, 0, 0, 0, Vector.replicate 4 0, 0, [], [], false, 0, 0⟩

def Level.zero : Level := ⟨.f2, 0, 0⟩

def Bal.zero : Bal := ⟨false, 0, 0, 0, 0, 0, 0, 0, 0⟩

def Awn.zero : Awn := ⟨false, 0, 0, 0, false⟩

/-- A core after reset: no window, THR 0, buffers and register stacks wiped (R406, R496). -/
def Core.zero : Core where
  wins := []
  spilled := []
  thr := 0
  bufW := []
  bufA := []
  bufS := []
  bufC := []
  stags := []
  l1 := []
  jrn := []
  pend := []
  defer := []
  slots := Vector.replicate 16 Slot.zero
  rings := Vector.replicate 16 Ring.zero
  copies := []
  mjobs := []
  mrun := none
  trestle := []
  waiting := []
  ctxs := []
  levels := Vector.replicate 8 Level.zero
  bals := Vector.replicate 8 Bal.zero
  awns := Vector.replicate 32 Awn.zero
  claims := []
  barrow := []
  freed := (0, 0)
  traps := []
  scSeq := 0
  stamp := 0
  vidle := 0
  captured := []
  gates := []

def Slice.zero : Slice := ⟨[], [], [], [], [], 0, [], false, none, [], []⟩

/-- A cluster after reset: BUD 64, active, pointer at position 0 (R470, R475). -/
def Cluster.zero : Cluster := ⟨64, 64, false, .active, 0, 0, [], [], 0, 0, 0, 0, 0, 0⟩

/-- An Exchange after reset: empty, BELLX 14 (R435). -/
def Exchange.zero : Exchange :=
  ⟨[], [], Vector.replicate 8 [], [], [], [], Vector.replicate 8 0, Vector.replicate 8 false, none, 0, 14, [], none, none, []⟩

def Crier.zero : Crier := ⟨[], [], [], []⟩

def Queue.absent : Queue := ⟨.absent, 0, 0, 0, 0, 0, 0, 0, [], 0, [], [], [], 0, []⟩

/-- Queue 0 at its fixed arena offsets, NS = NE = 4, first HSEQ 1 (R496 step 4). -/
def Queue.zero0 : Queue := { Queue.absent with st := .running, ns := 4, ne := 4 }

/-- What the boot ROM extends AM0 to AM7 by in a lifecycle state (R498): the digests of the header, of the three stages, and
of the lifecycle state with the fuse configuration. -/
def bootAm (life : Nat) : Vector (List Nat) 8 :=
  Vector.ofFn fun i => if i.val < 4 then [i.val] else if i.val = 4 then [4 + life] else []

/-- What boot flash holds: a bundle of major version 3 (R495), of which nothing else is given (log 3). -/
def Bundle.zero : Config.Bundle := ⟨3, 0, 0, [], [], [], false, false⟩

/-- The module after a reset whose firmware bundle the boot ROM accepted (R496, R497), in lifecycle state 2 (log 3). Memory holds the
header of queue 0: NS = NE = 4, all else 0 (R484). -/
def State.reset : State where
  cur := 0
  agenda := []
  free := 0
  tick := 0
  cores := []
  slices := []
  clusters := []
  mem := [(40, 0x44)]
  mtags := []
  host := []
  contexts := []
  exchanges := Vector.replicate 4 Exchange.zero
  criers := Vector.replicate 4 Crier.zero
  walks := []
  chits := []
  asks := []
  askBacks := []
  watchMsgs := []
  scForms := []
  nextId := 1
  dev := 0
  fabcfg := 7
  doubling := 0
  routes := []
  ports := Vector.replicate 48 Port.down
  packets := []
  out := []
  owners := []
  owned := []
  pageOrder := []
  acksDue := []
  migcfg := 20
  holds := []
  migrations := []
  installs := []
  relays := []
  stubSent := []
  queues := (Vector.replicate 16 Queue.absent).set 0 Queue.zero0
  evicts := []
  held := []
  mail := Vector.replicate 4 []
  sysMem := []
  fwRead := []
  saves := []
  am := bootAm 2
  life := 2
  flash := Bundle.zero
  keyHash := 0
  rollback := 0

end Sys2Proof.Machine
end

