-- ==== Sys2Proof/Machine/Bytes.lean ====
section
/-! DEFINITION. Bytes.lean: tables keyed by number, byte strings, and memory in canonical form with its physical addresses
(R15, R28, R44). -/

namespace Sys2Proof.Machine

/-! ### Tables keyed by number -/

/-- The entry of `k`, or `d` where none is listed. -/
def tabGet {κ α : Type} [DecidableEq κ] (d : α) (k : κ) : List (κ × α) → α
  | [] => d
  | (x, v) :: r => if x = k then v else tabGet d k r

/-- Set the entry of `k`. -/
def tabPut {κ α : Type} [DecidableEq κ] (k : κ) (v : α) : List (κ × α) → List (κ × α)
  | [] => [(k, v)]
  | (x, u) :: r => if x = k then (k, v) :: r else (x, u) :: tabPut k v r

/-- The first entry a test accepts, and its place. -/
def findAt {α : Type} (p : α → Bool) : List α → Option (Nat × α)
  | [] => none
  | x :: r => if p x then some (0, x) else (findAt p r).map fun y => (y.1 + 1, y.2)

/-- The n-th element of a vector, or `d`. -/
def vget {α : Type} {n : Nat} (d : α) (v : Vector α n) (i : Nat) : α := (v[i]?).getD d

/-- A vector with its i-th element changed by `f`. -/
def vmod {α : Type} {n : Nat} (i : Nat) (f : α → α) (v : Vector α n) : Vector α n :=
  match v[i]? with
  | some x => v.setIfInBounds i (f x)
  | none => v

/-! ### Bytes -/

/-- Little-endian bytes of a number (R15). -/
def natBytes : Nat → Nat → List Byte
  | 0, _ => []
  | n + 1, x => BitVec.ofNat 8 x :: natBytes n (x / 256)

/-- The number of a little-endian byte string (R15). -/
def leNat : List Byte → Nat
  | [] => 0
  | b :: r => b.toNat + 256 * leNat r

/-- `n` bytes from place `i`; missing bytes read zero. -/
def sliceBytes (bs : List Byte) (i n : Nat) : List Byte :=
  let t := (bs.drop i).take n
  t ++ List.replicate (n - t.length) 0

/-- Bits [hi:lo] of a number. -/
def bitsOf (x hi lo : Nat) : Nat := x / 2 ^ lo % 2 ^ (hi + 1 - lo)

/-- Put an element before the first one that does not come before it. -/
def putBy {α : Type} (le : α → α → Bool) (x : α) : List α → List α
  | [] => [x]
  | y :: r => if le x y then x :: y :: r else y :: putBy le x r

/-- A list in the order of `le`; equal elements keep their order. -/
def sortBy {α : Type} (le : α → α → Bool) (l : List α) : List α := l.foldr (putBy le) []

/-! ### Memory in canonical form -/

def memGet : Mem → Nat → Byte
  | [], _ => 0
  | (x, v) :: r, a => if x = a then v else memGet r a

/-- Put a cell in its place. -/
def memPut : Mem → Nat → Byte → Mem
  | [], a, b => [(a, b)]
  | (x, v) :: r, a, b => if a < x then (a, b) :: (x, v) :: r else (x, v) :: memPut r a b

/-- Write one byte; a zero is not listed. -/
def memSet (m : Mem) (a : Nat) (b : Byte) : Mem :=
  let r := m.filter fun c => decide (c.1 ≠ a)
  if b = 0 then r else memPut r a b

/-- Strictly rising addresses from `lo`, no listed zero. -/
def memWfFrom : Nat → Mem → Bool
  | _, [] => true
  | lo, (a, b) :: r => decide (lo ≤ a) && decide (b ≠ 0) && memWfFrom (a + 1) r

/-- The canonical form of memory. -/
def Memory.wf (m : Mem) : Bool := memWfFrom 0 m

def memRead (m : Mem) (a : Nat) : Nat → List Byte
  | 0 => []
  | n + 1 => memGet m a :: memRead m (a + 1) n

def memWrite (m : Mem) (a : Nat) : List Byte → Mem
  | [] => m
  | b :: r => memWrite (memSet m a b) (a + 1) r

/-- Write only the bytes that are there. -/
def memMask (m : Mem) (a : Nat) : List (Option Byte) → Mem
  | [] => m
  | none :: r => memMask m (a + 1) r
  | some b :: r => memMask (memSet m a b) (a + 1) r

/-- Wipe `[lo, hi)`. -/
def memWipe (m : Mem) (lo hi : Nat) : Mem := m.filter fun c => decide (c.1 < lo) || decide (hi ≤ c.1)

def memNat (m : Mem) (a n : Nat) : Nat := leNat (memRead m a n)

/-- Host memory keeps every byte written to it; the others are the host's own (log 5). -/
def hostSet : Mem → Nat → Byte → Mem
  | [], a, b => [(a, b)]
  | (x, v) :: r, a, b =>
    if a < x then (a, b) :: (x, v) :: r
    else if a = x then (a, b) :: r
    else (x, v) :: hostSet r a b

def hostGet : Mem → Nat → Byte
  | [], a => Config.hostByte a
  | (x, v) :: r, a => if x = a then v else hostGet r a

def hostRead (m : Mem) (a : Nat) : Nat → List Byte
  | 0 => []
  | n + 1 => hostGet m a :: hostRead m (a + 1) n

def hostMask (m : Mem) (a : Nat) : List (Option Byte) → Mem
  | [] => m
  | none :: r => hostMask m (a + 1) r
  | some b :: r => hostMask (hostSet m a b) (a + 1) r

/-- A device physical address exists (R28). -/
def paExists (pa : Nat) : Bool := decide (pa / 2 ^ 40 = 0) && decide (pa % 2 ^ 38 < 192 * 10 ^ 9)

/-- The stack of a die that holds a die-local address (R28). -/
def stackOf (d : Nat) : Nat := d / 2 ^ 12 % 3

/-- The address within that stack (R28). -/
def stackAddr (d : Nat) : Nat := d / 2 ^ 12 / 3 * 2 ^ 12 + d % 2 ^ 12

/-- Tags of 16-byte units without those that a write of `n` bytes at `a` touches (R44). -/
def dropTags (tags : List Nat) (a n : Nat) : List Nat :=
  tags.filter fun u => !(decide (a < u * 16 + 16) && decide (u * 16 < a + n))

/-- A write of physical memory that is no key store: the tags of the units it touches are cleared (R44). -/
def State.physWrite (s : State) (a : Nat) (bs : List Byte) : State :=
  { s with mem := memWrite s.mem a bs, mtags := dropTags s.mtags a bs.length }

/-- Units of 16 bytes whose tags a line holds (R44). -/
def putTags (mtags : List Nat) (pa : Nat) (tags : List Bool) : List Nat :=
  (mtags.filter fun u => decide (u < pa / 16) || decide (pa / 16 + 8 ≤ u))
    ++ (List.range 8).filterMap fun i => if tags.getD i false then some (pa / 16 + i) else none

/-- Write a dirty line back (R94). -/
def State.writeBack (s : State) (l : L2Line) : State :=
  if l.dirty then { s with mem := memWrite s.mem l.pa l.data, mtags := putTags s.mtags l.pa l.tags } else s

end Sys2Proof.Machine
end

