-- ==== Sys2Proof/Machine/Pages.lean ====
section
/-! DEFINITION. Pages.lean: homes of addresses (R29, R92), page tables and their entries as numbers (R30 to R33). -/

namespace Sys2Proof.Machine

/-- XOR of the successive `n`-bit chunks of `x` (R31). -/
def foldX (n : Nat) : Nat → Nat → Nat
  | 0, _ => 0
  | fuel + 1, x => x % 2 ^ n ^^^ foldX n fuel (x / 2 ^ n)

/-- A 72-bit virtual address as one number (R22). -/
def vaOf (region : BitVec 8) (off : Nat) : Nat := region.toNat * 2 ^ 64 + off

/-- The hash `h` of R29. -/
def homeHash (va : Nat) : Nat :=
  bitsOf va 28 21 ^^^ bitsOf va 36 29 ^^^ bitsOf va 44 37 ^^^ bitsOf va 52 45 ^^^ bitsOf va 60 53 ^^^ bitsOf va 68 61 ^^^ bitsOf va 71 69

/-- PTB, in bytes (R30). DESIGN CHOICE (log 63): one that is not aligned to its table is used as it stands. -/
def ptb (tr : Nat) : Nat := bitsOf tr 47 6 * 64

/-- PTN (R30). -/
def ptn (tr : Nat) : Nat := bitsOf tr 52 48

/-- The home die of an address (R29). -/
def homeDie (tr va : Nat) : Nat :=
  let h := homeHash va
  if bitsOf tr 53 53 = 1 then bitsOf tr (65 + 2 * h) (64 + 2 * h) else h % 4

/-- The home slice of an address, as die × 48 + slice (R92). -/
def homeSlice (tr va : Nat) : Nat := homeDie tr va * 48 + foldX 16 8 (va / 128) * 48 / 2 ^ 16

/-- Page shift of a size code (R31). -/
def pageShift (sz : Nat) : Nat := if sz = 0 then 16 else if sz = 1 then 21 else 30

/-- SALT of a size code (R31). -/
def pageSalt (sz : Nat) : Nat := if sz = 0 then 0 else if sz = 1 then 0x2AAA else 0x1555

/-- VPN of a region 0x00 to 0x03 address (R31). -/
def vpnOf (sz : Nat) (region : BitVec 8) (off : Nat) : Nat :=
  region.toNat % 4 * 2 ^ (48 - pageShift sz) + off % 2 ^ 48 / 2 ^ pageShift sz

/-- Bucket index for PTN = n (R31). -/
def bucketIdx (sz n vpn : Nat) : Nat := vpn % 2 ^ n ^^^ foldX n 8 (vpn / 2 ^ n) ^^^ pageSalt sz

/-- Fields of a page-table entry (R32). -/
def pteV (e : Nat) : Bool := decide (e % 2 = 1)
def pteSz (e : Nat) : Nat := bitsOf e 2 1
def pteRd (e : Nat) : Bool := decide (bitsOf e 3 3 = 1)
def pteWr (e : Nat) : Bool := decide (bitsOf e 4 4 = 1)
def pteAt (e : Nat) : Bool := decide (bitsOf e 5 5 = 1)
def pteEx (e : Nat) : Bool := decide (bitsOf e 6 6 = 1)
def pteKind (e : Nat) : Nat := bitsOf e 8 7
def pteTag (e : Nat) : Nat := bitsOf e 30 11
def pteFrame (e : Nat) : Nat := bitsOf e 62 31

/-- Every byte of the page of a KIND 00 entry exists (R28, R511). -/
def pteExists (e : Nat) : Bool :=
  paExists (pteFrame e * 2 ^ 16) && paExists (pteFrame e * 2 ^ 16 + 2 ^ pageShift (pteSz e) - 1)

/-- An entry that can match at all (R32, R511). For KIND 10 the frame is a stub index below 16,384 (R58). -/
def pteSound (e : Nat) : Bool :=
  pteV e && decide (pteSz e ≠ 3) && decide (pteKind e ≠ 3) && decide (bitsOf e 10 9 = 0) && decide (e / 2 ^ 63 = 0)
    && (decide (pteKind e ≠ 0) || pteExists e)
    && (decide (pteKind e = 2 ∧ pteFrame e < 16384) || decide (pteKind e ≠ 2 ∧ pteFrame e % 2 ^ (pageShift (pteSz e) - 16) = 0))

/-- The eight entries of a bucket (R32). -/
def readBucket (m : Mem) (a : Nat) : List Nat := (List.range 8).map fun i => memNat m (a + 8 * i) 8

/-- The address of the bucket of a VPN (R31). -/
def bucketAddr (tr sz vpn : Nat) : Nat := ptb tr + 64 * bucketIdx sz (ptn tr) vpn

/-- PTN names a table (R30). -/
def ptnOk (tr : Nat) : Bool := decide (14 ≤ ptn tr) && decide (ptn tr ≤ 26)

/-- The entry of one size, in ascending order of the bucket (R33). -/
def probe (m : Mem) (tr sz : Nat) (region : BitVec 8) (off : Nat) : Option Nat :=
  let vpn := vpnOf sz region off
  (readBucket m (bucketAddr tr sz vpn)).find? fun e =>
    pteSound e && decide (pteSz e = sz) && decide (pteTag e = vpn / 2 ^ ptn tr)

/-- The outcome of a walk: an entry, no entry, or a bucket at an address that does not exist (R28). -/
inductive WalkRes where
  | hit (e : Nat)
  | miss
  | bad (pa : Nat)
  deriving DecidableEq, Repr

/-- Probe the sizes of a list in turn; a later bucket is read only where no earlier size yields an entry (R33). -/
def walkSizes (m : Mem) (tr : Nat) (region : BitVec 8) (off : Nat) : List Nat → WalkRes
  | [] => .miss
  | sz :: r =>
    let a := bucketAddr tr sz (vpnOf sz region off)
    if paExists a then
      match probe m tr sz region off with
      | some e => .hit e
      | none => walkSizes m tr region off r
    else .bad a

/-- A walk of the table: sizes 0, 1, 2 (R33); a PTN outside 14 to 26 misses (R30). -/
def walk (m : Mem) (tr : Nat) (region : BitVec 8) (off : Nat) : WalkRes :=
  if ptnOk tr then walkSizes m tr region off [0, 1, 2] else .miss

/-- The entry a walk finds. -/
def walkTable (m : Mem) (tr : Nat) (region : BitVec 8) (off : Nat) : Option Nat :=
  match walk m tr region off with
  | .hit e => some e
  | _ => none

end Sys2Proof.Machine
end

