-- ==== Sys2Proof/Machine/Ops.lean ====
section
/-! DEFINITION. Ops.lean: the named operations over tables, memory, registers, the register stack, host queues and
faults that every meaning uses. Taking a local fault (R450, R451), the context-fatal treatment (R456) and the return
from a window stand here once. -/

namespace Sys2Proof.Machine

/-! ### Cores, slices, contexts -/

def State.core (s : State) (c : Nat) : Core := tabGet Core.zero c s.cores

def State.setCore (s : State) (c : Nat) (k : Core) : State := { s with cores := tabPut c k s.cores }

def State.modCore (s : State) (c : Nat) (f : Core → Core) : State := s.setCore c (f (s.core c))

def State.slice (s : State) (i : Nat) : Slice := tabGet Slice.zero i s.slices

def State.modSlice (s : State) (i : Nat) (f : Slice → Slice) : State :=
  { s with slices := tabPut i (f (s.slice i)) s.slices }

def State.cluster (s : State) (i : Nat) : Cluster := tabGet Cluster.zero i s.clusters

def State.modCluster (s : State) (i : Nat) (f : Cluster → Cluster) : State :=
  { s with clusters := tabPut i (f (s.cluster i)) s.clusters }

/-- A context record; `none` where the context does not exist on the device. -/
def State.ctxRec (s : State) (x : Ctx) : Option CtxRec := tabGet none x (s.contexts.map fun p => (p.1, some p.2))

def State.setCtx (s : State) (x : Ctx) (r : CtxRec) : State := { s with contexts := tabPut x r s.contexts }

/-- The device holds the context: created, not torn down, not dead (R513). -/
def State.holds? (s : State) (x : Ctx) : Bool :=
  match s.ctxRec x with
  | some r => match r.st with
    | .dead _ => false
    | _ => true
  | none => false

def State.exch (s : State) (d : Nat) : Exchange := vget Exchange.zero s.exchanges d

def State.modExch (s : State) (d : Nat) (f : Exchange → Exchange) : State :=
  { s with exchanges := vmod d f s.exchanges }

def State.modCrier (s : State) (d : Nat) (f : Crier → Crier) : State := { s with criers := vmod d f s.criers }

def State.queue (s : State) (q : Nat) : Queue := vget Queue.absent s.queues q

def State.modQueue (s : State) (q : Nat) (f : Queue → Queue) : State := { s with queues := vmod q f s.queues }

/-- The registers a context has on a core (R150, R190, R191, R317, R325). -/
def Core.cx (k : Core) (x : Ctx) : CtxCore := tabGet CtxCore.zero x k.ctxs

def Core.modCx (k : Core) (x : Ctx) (f : CtxCore → CtxCore) : Core := { k with ctxs := tabPut x (f (k.cx x)) k.ctxs }

/-- Die, row, column, cluster of a module core number (R3, R5). -/
def dieOf (c : Nat) : Nat := c / 192

def rowOf (c : Nat) : Nat := c % 192 / 16

def colOf (c : Nat) : Nat := c % 16

def clusterOf (c : Nat) : Nat := dieOf c * 48 + rowOf c / 4 * 16 + colOf c

def sumNat (l : List Nat) : Nat := l.foldr (· + ·) 0

/-- VA[47:16] of the page of an offset; VA[20:16] are zero for a 2 MiB page (R51). -/
def pageOf (big : Bool) (off : Nat) : Nat := if big then off % 2 ^ 48 / 2 ^ 21 * 32 else off % 2 ^ 48 / 2 ^ 16

/-- A slice or porter as the reporting agent of a fault record: its die, and its cluster number in place of a core's (R447). -/
def agentAt (cl : Nat) : Nat := cl / 48 * 192 + cl % 48

/-- The position of a core in its cluster (R5, R475). -/
def posOf (c : Nat) : Nat := rowOf c % 4

/-- The class bit of a core: 0 fast, 1 medium, 2 efficient (R4). -/
def classOf (c : Nat) : Nat := if colOf c < 8 then 0 else if colOf c < 12 then 1 else 2

/-- The next use of a free value. -/
def State.useFree (s : State) : State := { s with free := s.free + 1 }

/-! ### Registers of a window (R162) -/

def Window.rdS (w : Window) (r : SReg) : W64 := w.s[r]

def Window.wrS (w : Window) (r : SReg) (v : W64) : Window := { w with s := w.s.set r v }

/-- p0 reads 1 (R162). -/
def Window.rdP (w : Window) (p : PReg) : Bool := if p = 0 then true else w.p.getLsbD p

/-- A write to p0 is discarded (R162). -/
def Window.wrP (w : Window) (p : PReg) (b : Bool) : Window :=
  if p = 0 then w
  else { w with p := BitVec.ofNat 8 (w.p.toNat - bit (w.p.getLsbD p) * 2 ^ p.val + bit b * 2 ^ p.val) }

/-- m0 reads all ones (R162). -/
def Window.rdM (w : Window) (m : MReg) : W64 := if m = 0 then BitVec.allOnes 64 else w.m[m]

/-- A write to m0 is discarded (R162). -/
def Window.wrM (w : Window) (m : MReg) (v : W64) : Window := if m = 0 then w else { w with m := w.m.set m v }

def Window.rdK (w : Window) (k : KReg) : Key := w.k[k]

def Window.wrK (w : Window) (k : KReg) (v : Key) : Window := { w with k := w.k.set k v }

def Window.rdV (w : Window) (v : VIdx) : VReg := w.v.getD v 0

def Window.wrV (w : Window) (v : VIdx) (x : VReg) : Window := { w with v := w.v.set v x }

/-- The guard of a word holds (R207). -/
def Window.guard (w : Window) (h : Hdr) : Bool := w.rdP h.g != h.gn

/-- Two windows belong to one ticket's frame (R455). -/
def Frame.same (a b : Frame) : Bool := decide (a.ctx = b.ctx) && decide (a.serial = b.serial)

/-- The window's instructions are those of a SYS ticket: SYS tickets and service windows (R379). -/
def Window.sys (w : Window) : Bool := w.fr.sys || w.svc

/-- The number of vector registers of the window. -/
def Window.vn (w : Window) : Nat := w.v.length

def State.me (s : State) : Core := s.core s.cur

def State.modMe (s : State) (f : Core → Core) : State := s.modCore s.cur f

/-- The running window of the core whose turn it is. -/
def State.top (s : State) : Option Window := s.me.wins.head?

def State.setTop (s : State) (w : Window) : State := s.modMe fun k => { k with wins := w :: k.wins.tail }

def State.modTop (s : State) (f : Window → Window) : State :=
  match s.top with
  | some w => s.setTop (f w)
  | none => s

/-- The PC advances past the 12 bytes of the instruction (R200). -/
def Window.advance (w : Window) : Window := { w with pc := w.pc + 12 }

/-! ### The spill area (R164 to R166) -/

def spillBase : Nat := 0x30000

/-- Bytes of a spill frame (R165). -/
def Window.frameSize (w : Window) : Nat := 384 + 256 * w.v.length

def packBits (xs : List Bool) : Nat := xs.foldr (fun b n => bit b + 2 * n) 0

/-- A spill frame (R165). -/
def Window.toBytes (w : Window) : List Byte :=
  let vw := if w.v.length = 0 then 0 else if w.v.length = 8 then 1 else 2
  natBytes 8 w.rpc.toNat
  ++ natBytes 8 (w.p.toNat / 2 * 2 + 1 + packBits (w.k.toList.map Key.tag) * 2 ^ 8 + vw * 2 ^ 16 + w.pthr % 8 * 2 ^ 18
      + bit w.callw * 2 ^ 21 + w.drg.toNat % 256 * 2 ^ 32 + w.fr.ctx.toNat * 2 ^ 40)
  ++ natBytes 8 w.nxt.toNat ++ natBytes 8 w.byt.toNat ++ natBytes 8 w.hnde.toNat
  ++ natBytes 8 w.fr.tkt.toNat
  ++ natBytes 8 (w.flg.toNat + w.fr.pri % 8 * 2 ^ 7 + w.fr.serial.toNat * 2 ^ 32)
  ++ natBytes 8 (w.fr.rank.toNat + w.fr.fansz.toNat * 2 ^ 32)
  ++ w.s.toList.flatMap (fun x => natBytes 8 x.toNat)
  ++ (BitVec.allOnes 64 :: w.m.toList.tail).flatMap (fun x => natBytes 8 x.toNat)
  ++ w.k.toList.flatMap (fun x => natBytes 16 x.bits.toNat)
  ++ w.v.flatMap (fun x => natBytes 256 x.toNat)

/-- The registers of a window as its spill frame holds them (R165); the hard-wired p0 and m0 stand as zero in `Window`. -/
def Window.ofBytes (w : Window) (bs : List Byte) : Window :=
  let d (i : Nat) : Nat := leNat (sliceBytes bs i 8)
  let vn := [0, 8, 16].getD (bitsOf (d 8) 17 16) w.v.length
  { w with
    rpc := BitVec.ofNat 64 (d 0)
    p := BitVec.ofNat 8 (d 8 / 2 * 2)
    pthr := bitsOf (d 8) 20 18
    callw := decide (bitsOf (d 8) 21 21 = 1)
    drg := BitVec.ofNat 64 (bitsOf (d 8) 39 32)
    nxt := BitVec.ofNat 64 (d 16)
    byt := BitVec.ofNat 64 (d 24)
    hnde := BitVec.ofNat 64 (d 32)
    flg := BitVec.ofNat 7 (d 48)
    s := Vector.ofFn fun i => BitVec.ofNat 64 (d (64 + 8 * i.val))
    m := Vector.ofFn fun i => if i.val = 0 then 0 else BitVec.ofNat 64 (d (192 + 8 * i.val))
    k := Vector.ofFn fun i => ⟨BitVec.ofNat 128 (leNat (sliceBytes bs (256 + 16 * i.val) 16)),
      decide (bitsOf (d 8) (8 + i.val) (8 + i.val) = 1)⟩
    v := (List.range vn).map fun i => BitVec.ofNat 2048 (leNat (sliceBytes bs (384 + 256 * i) 256))
    fr := { w.fr with
      ctx := BitVec.ofNat 16 (bitsOf (d 8) 55 40)
      tkt := BitVec.ofNat 64 (d 40)
      pri := bitsOf (d 48) 9 7
      serial := BitVec.ofNat 32 (d 48 / 2 ^ 32)
      rank := BitVec.ofNat 32 (d 56)
      fansz := BitVec.ofNat 32 (d 56 / 2 ^ 32) } }

/-- TOP of SPL: bytes in use (R166). -/
def spillTop (ws : List Window) : Nat := (ws.map Window.frameSize).foldr (· + ·) 0

/-- Write a list of windows, top first, as the spill area from its start. -/
def writeSpill (buf : Mem) : List Window → Mem
  | [] => buf
  | w :: r => memWrite (writeSpill buf r) (spillBase + spillTop r) w.toBytes

/-- The spill area rewritten with a list of windows, top first: a write that clears tags (R44, R165). -/
def Core.respill (k : Core) (ws : List Window) : Core :=
  { k with spilled := ws, bufS := writeSpill k.bufS ws, stags := dropTags k.stags spillBase (spillTop ws) }

/-- The spilled windows with the registers their frames hold now. -/
def readSpill (buf : Mem) : List Window → List Window
  | [] => []
  | w :: r => w.ofBytes (memRead buf (spillBase + spillTop r) w.frameSize) :: readSpill buf r

/-- Every window of a core, resident and spilled, with its place. -/
def Core.windows (k : Core) : List Window := k.wins ++ readSpill k.bufS k.spilled

/-- Vector registers in use by resident windows. -/
def residentV (ws : List Window) : Nat := (ws.map Window.vn).foldr (· + ·) 0

/-- The key-register stack holds 32 windows and the vector stack 128 registers (R164). -/
def fitsResident (n : Nat) (ws : List Window) : Bool :=
  decide (ws.length + 1 ≤ 32) && decide (residentV ws + n ≤ 128)

/-- Spill the oldest resident windows until a push of `n` vector registers fits (R164). -/
def spillFor (n : Nat) : Nat → Core → Core
  | 0, k => k
  | fuel + 1, k =>
    if fitsResident n k.wins then k
    else match k.wins.getLast? with
      | none => k
      | some w => spillFor n fuel { k with
          wins := k.wins.dropLast
          spilled := w :: k.spilled
          bufS := memWrite k.bufS (spillBase + spillTop k.spilled) w.toBytes
          stags := dropTags k.stags (spillBase + spillTop k.spilled) w.frameSize }

/-- Push a window (R164); `none` where the spill would leave the area (R167). -/
def Core.push (k : Core) (w : Window) : Option Core :=
  let k' := spillFor w.v.length 64 k
  if spillTop k'.spilled ≤ 0x10000 then some { k' with wins := w :: k'.wins } else none

/-- After a pop: a spilled window that is exposed is filled (R165). -/
def Core.fill (k : Core) : Core :=
  match k.wins, k.spilled with
  | [], w :: r =>
    { k with wins := [w.ofBytes (memRead k.bufS (spillBase + spillTop r) w.frameSize)], spilled := r }
  | _, _ => k

/-- Pop the top window. -/
def Core.pop (k : Core) : Core := Core.fill { k with wins := k.wins.tail }

/-- Windows of a task popped, up to and with its admission window; the PTHR of that window is the new THR (R248). -/
def Core.popTask : Nat → Core → Core
  | 0, k => k
  | fuel + 1, k =>
    match k.wins with
    | [] => k
    | w :: _ => if w.adm then { k.pop with thr := w.pthr } else Core.popTask fuel k.pop

/-- Windows on the stack, resident and spilled. -/
def Core.depth (k : Core) : Nat := k.wins.length + k.spilled.length

/-- The ceiling of an awning record (R169). -/
def Core.awn (k : Core) (i : Nat) : Awn := vget Awn.zero k.awns i

/-- THR from the top window's level and the claims of its frame (R457). -/
def Core.rethr (k : Core) : Core :=
  match k.wins with
  | [] => { k with thr := 0 }
  | w :: _ =>
    let mine := (k.wins ++ k.spilled).filter fun x => x.fr.same w.fr
    let ceils := (k.claims.filter fun c => mine.any fun x => decide (x.wid = c.wid)).map fun c => (k.awn c.rcd).ceil
    { k with thr := (w.fr.lvl :: ceils).foldr Nat.max 0 }

/-- Remove windows from a stack given bottom first, passing PTHR upward (R457). -/
def dropWins (gone : Window → Bool) : Option Nat → List Window → List Window
  | _, [] => []
  | carry, w :: r =>
    if gone w then dropWins gone (some (carry.getD w.pthr)) r
    else { w with pthr := carry.getD w.pthr } :: dropWins gone none r

/-- The stack without the windows a test names, with their claims gone and their awnings free (R456, R457). -/
def Core.removeWins (gone : Window → Bool) (k : Core) : Core :=
  let all := k.wins ++ readSpill k.bufS k.spilled
  if all.any gone then
    let ids := (all.filter gone).map Window.wid
    let keep := (dropWins gone none all.reverse).reverse
    let nres := (k.wins.filter fun w => !gone w).length
    let wins := keep.take nres
    let spl := keep.drop nres
    let lost := (k.claims.filter fun c => ids.contains c.wid).map Claim.rcd
    let k := { k.respill spl with
      wins := wins
      claims := k.claims.filter fun c => !ids.contains c.wid
      awns := lost.foldl (fun a i => vmod i (fun x => { x with held := false }) a) k.awns }
    Core.rethr k.fill
  else k

/-! ### Host queue events (R491, R492, R494) -/

def Event.mk0 (kind h0 h1 : Nat) : Event := ⟨kind, h0, h1, 0, 0, [], 0⟩

/-- LCMP advances over the contiguous prefix of completed HSEQs (R484, R493). -/
def advanceLcmp : Nat → Queue → Queue
  | 0, q => q
  | fuel + 1, q =>
    if q.done.contains (q.lcmp + 1) then
      advanceLcmp fuel { q with lcmp := q.lcmp + 1, done := q.done.filter fun h => h != q.lcmp + 1 }
    else q

/-- Post an event to a queue, where it waits for room (R492). -/
def State.postEvent (s : State) (q : Nat) (e : Event) : State :=
  s.modQueue q fun x => { x with events := x.events ++ [e] }

/-- Post a completion event: COMPLETE 1, REJECT 2 or CMDDONE 5 (R491). -/
def State.postDone (s : State) (q : Nat) (e : Event) : State :=
  s.modQueue q fun x =>
    let x := { x with events := x.events ++ [e], done := e.h0 :: x.done }
    advanceLcmp x.done.length x

def State.cmdDone (s : State) (q hseq status : Nat) : State := s.postDone q (Event.mk0 5 hseq status)

/-- The device's own fields of a header (R484). -/
def Queue.header (q : Queue) : List Byte :=
  natBytes 8 q.lacc ++ natBytes 8 q.lcmp ++ natBytes 8 q.eseq
    ++ natBytes 8 (q.ns % 16 + q.ne % 16 * 2 ^ 4 + q.ctx.toNat * 2 ^ 8)

/-- The header in memory follows the queue. -/
def State.sync (s : State) (n : Nat) : State :=
  let q := s.queue n
  if q.st = .absent then s else s.physWrite (q.base + 16) q.header

/-- Steps 3 to 5 of a queue reset, once the queue's tickets are discarded; what stands in the ring above H1 up to HTAIL is then stale
(R494). -/
def Queue.cancel (dropped htail : Nat) (x : Queue) : Queue :=
  let e : Event := { Event.mk0 4 (x.lcmp + 1) x.lacc with n0 := x.done.length, n1 := dropped }
  { x with
    st := .running
    why := 0
    events := x.events ++ [e]
    lcmp := x.lacc
    done := []
    cmds := []
    tickets := []
    stale := (List.range (Nat.min (htail - x.lacc) (2 ^ x.ns))).map fun i => (x.lacc + 1 + i) % 2 ^ x.ns }

/-! ### Faults (R446 to R452) -/

/-- A fault as a meaning raises it: code, access kind, and region and value of DETAIL (R446, R447). -/
structure FaultInfo where
  code : Nat
  acc : Nat
  region : Nat
  detail : Nat
  deriving DecidableEq, Repr

abbrev Ex (α : Type) := Except FaultInfo α

def FaultInfo.plain (code acc : Nat) : FaultInfo := ⟨code, acc, 0, 0⟩

/-- Codes of R446. -/
def cILLEGAL : Nat := 0x01
def cPRIV : Nat := 0x02
def cALIGN : Nat := 0x03
def cBOUNDS : Nat := 0x04
def cPERM : Nat := 0x05
def cTAG : Nat := 0x06
def cPAGE : Nat := 0x07
def cMIGRATELOST : Nat := 0x08
def cREFUSED : Nat := 0x09
def cSTACK : Nat := 0x0A
def cBUFFER : Nat := 0x0B
def cADDR : Nat := 0x0C
def cCLAIM : Nat := 0x0D
def cECC : Nat := 0x10
def cRETENTION : Nat := 0x11
def cLINK : Nat := 0x12
def cBREAK : Nat := 0x14
def cKILLED : Nat := 0x15

/-- Where a fault was found. -/
structure FaultAt where
  core : Nat
  pc : Nat
  tkt : Nat
  serial : Nat
  deriving DecidableEq, Repr

/-- Dword +0 of the fault record (R447). A REFUSED fault is asynchronous (R446). -/
def recordHead (f : FaultInfo) (x : Ctx) (dev core : Nat) (async fatal : Bool) : W64 :=
  BitVec.ofNat 64 (f.code % 256 + f.acc % 8 * 2 ^ 8 + x.toNat * 2 ^ 16 + dev % 2048 * 2 ^ 32 + dieOf core % 4 * 2 ^ 43
    + core % 192 * 2 ^ 45 + f.region % 256 * 2 ^ 53 + bit async * 2 ^ 61 + bit fatal * 2 ^ 62)

/-- The fault record (R447). -/
def faultRecord (f : FaultInfo) (x : Ctx) (dev : Nat) (a : FaultAt) (async fatal : Bool) (tick dropl : Nat) :
    BitVec 512 :=
  BitVec.ofNat 512 ((recordHead f x dev a.core async fatal).toNat + a.pc % 2 ^ 64 * 2 ^ 64 + f.detail % 2 ^ 64 * 2 ^ 128
    + a.tkt % 2 ^ 64 * 2 ^ 192 + tick % 2 ^ 64 * 2 ^ 256 + a.serial % 2 ^ 32 * 2 ^ 320 + dropl % 2 ^ 32 * 2 ^ 384)

def FaultAt.none : FaultAt := ⟨0, 0, 0, 0⟩

/-- The record with one more suppressed event in NLATE, saturating (R447, R459). -/
def recordLate (r : BitVec 512) : BitVec 512 :=
  if bitsOf r.toNat 447 416 < 2 ^ 32 - 1 then BitVec.ofNat 512 (r.toNat + 2 ^ 416) else r

/-- The last waiting FAULT event of X counts a suppressed event. -/
def lateEvents (x : Ctx) (l : List Event) : List Event :=
  match findAt (fun e : Event => decide (e.kind = 3) && decide (bitsOf e.frec.toNat 31 16 = x.toNat)) l.reverse with
  | some (i, e) => (l.reverse.set i { e with frec := recordLate e.frec }).reverse
  | none => l

/-- An event of X raised while the record of its first one is still to be written is counted there (R459). -/
def State.countLate (s : State) (x : Ctx) : State :=
  { s with queues := s.queues.map fun (q : Queue) => { q with events := lateEvents x q.events } }

/-! ### The layout of a save area (R464) -/

def align64 (n : Nat) : Nat := (n + 63) / 64 * 64

/-- Bytes of the W, A and S allocation and of its C tiles (R464). -/
def Bal.bytes (b : Bal) : Nat :=
  4096 * ((b.wend - b.wbase) + (b.aend - b.abase) + (b.send - b.sbase))
    + 32768 * ((List.range 8).filter fun i => b.cmask.getLsbD i).length

def SaveArea.offJ (a : SaveArea) : Nat := 0x15C0 + (a.wins.map fun w => 64 + w.frameSize).foldr (· + ·) 0
def SaveArea.offM (a : SaveArea) : Nat := align64 (a.offJ + 96 * a.copies.length)
def SaveArea.offO (a : SaveArea) : Nat := align64 (a.offM + 64 * a.mjobs.length)
def SaveArea.offB (a : SaveArea) : Nat := align64 (a.offO + a.copies.length + a.mjobs.length)

/-- Offset of the message records, which is also BYTES: what CTXSAVE writes. -/
def SaveArea.bytes (a : SaveArea) : Nat := align64 (a.offB + (a.bal.map Bal.bytes).getD 0)

/-- The bytes that an area holds (R464). -/
def SaveArea.size (a : SaveArea) : Nat := a.bytes + 320 * a.msgs.length

/-! ### Context-fatal treatment (R456) -/

/-- Count an operation in (`up`) or out of every slot of a mask (R277). -/
def Core.count (k : Core) (mask : BitVec 16) (up : Bool) : Core :=
  { k with slots := k.slots.mapIdx fun i r =>
      if mask.getLsbD i then { r with cnt := if up then r.cnt + 1 else r.cnt - 1 } else r }

/-- Ring operations whose edges have all resolved leave the trestle, which resolves the edges to them (R126, R174). -/
def settleTr : Nat → List Tr → List Tr
  | 0, t => t
  | fuel + 1, t =>
    let done := (t.filter fun r => r.ring.isSome && r.edges.isEmpty).map Tr.tid
    if done.isEmpty then t
    else settleTr fuel ((t.filter fun r => !done.contains r.tid).map fun r =>
      { r with edges := r.edges.filter fun e => !done.contains e })

/-- Jobs leave the trestle and the edges to them resolve (R174, R175). -/
def Core.resolve (dead : Nat → Bool) (k : Core) : Core :=
  { k with trestle := settleTr 65 ((k.trestle.filter fun r => !dead r.tid).map fun r =>
      { r with edges := r.edges.filter fun e => !dead e }) }

/-- The entry has been emitted and is neither acknowledged nor refused. -/
def JEntry.emitted (e : JEntry) : Bool :=
  e.st = .draining || e.st = .performed || e.st = .refusing || e.st = .relayed || e.st = .redirected || e.st = .misrouted

/-- The counts of range slots fall for what a test names (R277, R456). -/
def Core.uncount (gone : Frame → Bool) (k : Core) : Core :=
  let k := (k.jrn.filter fun e => gone e.fr && !e.emitted).foldl (fun k e => k.count e.slots false) k
  let k := (k.pend.filter fun p => gone p.fr && p.parts.any fun q => decide (q.st ≠ .done)).foldl
    (fun k p => k.count p.slots false) k
  (k.copies.filter fun j => gone j.fr).foldl (fun k j => j.tags.foldl (fun k t => k.count t.2 false) k) k

/-- An access whose frame is discarded: what is at another agent stays outstanding until its answer, whose result is dropped (R65,
R456). -/
def Pend.ghost (p : Pend) : Option Pend :=
  if p.parts.any fun q => q.st = .remote then
    some { p with kind := .pref, alloc := false, acq := false, rel := false, sc := false, slots := 0
                  parts := p.parts.map fun q => if q.st = .remote then q else { q with st := .done } }
  else none

/-- A core without the frames, jobs and unsent messages a test names (R456 steps 2 to 4, R494 step 2). Emitted entries stay until
they are acknowledged, and their refusals are dropped (R456 step 4, R458). -/
def Core.discard (gone : Frame → Bool) (goneInst : Nat → Nat → Bool) (k : Core) : Core :=
  let deadTids := (k.copies.filter fun j => gone j.fr).map CopyJob.tid
    ++ (k.mjobs.filter fun j => gone j.fr).map MJob.tid
    ++ (k.trestle.filter fun t => t.ring.isSome && gone t.fr).map Tr.tid
  let dead (t : Nat) : Bool := deadTids.contains t
  let mute (g : Get) : Get := if gone g.fr then { g with nxt := 0 } else g
  let k := ((Core.uncount gone k).removeWins fun w => gone w.fr).resolve dead
  { k with
    pend := k.pend.filterMap fun p => if gone p.fr then p.ghost else some p
    jrn := (k.jrn.filter fun e => !gone e.fr || e.emitted).map fun e => if gone e.fr then { e with orphan := true } else e
    defer := k.defer.filter fun d => !gone d.fr
    copies := k.copies.filter fun j => !gone j.fr
    mjobs := k.mjobs.filter fun j => !gone j.fr
    mrun := if (k.mrun.map dead).getD false then none else k.mrun
    rings := k.rings.map fun r =>
      { r with gets := r.gets.map mute, fgets := r.fgets.map mute, drop := r.drop.map mute,
                 held := r.held.map mute, fheld := r.fheld.map mute }
    barrow := k.barrow.filter fun b => !goneInst b.inst b.xdie
    traps := k.traps.filter fun t => !gone t.fr }

/-- What the treatment of X frees on a core beyond its frames (R456 steps 3 to 5). -/
def Core.dropCtx (x : Ctx) (k : Core) : Core :=
  let k := Core.discard (fun f => decide (f.ctx = x)) (fun _ _ => false) k
  { k with
    pend := k.pend.filter fun p => p.ctx != x
    waiting := k.waiting.filter fun w => w.ctx != x
    l1 := k.l1.filter fun l => l.ctx != x
    jrn := k.jrn.filter fun e => e.ctx != x
    captured := k.captured.filter fun c => c.1 != x
    gates := k.gates.filter fun g => g.2.fr.ctx != x
    slots := k.slots.map fun r => if r.v && r.ctx = x then Slot.zero else r
    rings := k.rings.map fun r => if r.rdc.toNat % 2 = 1 && r.rdc.toNat / 2 ^ 48 = x.toNat then Ring.zero else r }

/-- A parked CTXSAVE of an eviction that the treatment ends completes with D = 0 (R460). -/
def Window.endSave (x : Ctx) (w : Window) : Window :=
  match w.park with
  | some (.ctxsave d y _) =>
    if y = x then
      let w := { w with park := none }.advance
      match d with
      | some r => w.wrS r 0
      | none => w
    else w
  | _ => w

def Core.endSaves (x : Ctx) (k : Core) : Core :=
  { k.respill ((readSpill k.bufS k.spilled).map (Window.endSave x)) with wins := k.wins.map (Window.endSave x) }

def Exchange.dropInsts (gone : Inst → Bool) (e : Exchange) : Exchange :=
  let ids := (e.insts.filter gone).map Inst.id
  { e with
    insts := e.insts.filter fun i => !gone i
    queues := e.queues.map fun q => q.filter fun i => !ids.contains i
    zeroQ := e.zeroQ.filter fun i => !ids.contains i }

def Exchange.dropCtx (x : Ctx) (e : Exchange) : Exchange :=
  let e := e.dropInsts fun i => i.ctx = x
  let gone := (e.launches.filter fun l => l.ctx = x).map LaunchRec.id
  { e with
    launches := (e.launches.filter fun l => l.ctx != x).map fun l =>
      { l with edges := l.edges.filter fun i => !gone.contains i }
    input := e.input.filter fun c => c.ctx != x
    decrs := e.decrs.filter fun d => d.1 != x
    gone := e.gone.filter fun g => g.1 != x }

def Slice.dropCtx (x : Ctx) (l : Slice) : Slice :=
  { l with
    lines := l.lines.filter fun n => n.ctx != x
    tlb := l.tlb.filter fun n => n.ctx != x
    walks := l.walks.filter fun n => n.ctx != x
    faults := l.faults.filter fun n => n.ctx != x
    input := l.input.filter fun n => n.ctx != x
    watches := l.watches.filter fun n => n.ctx != x
    extraWatches := l.extraWatches.filter fun n => n.ctx != x }

/-- STBASE of MIGCFG, in bytes (R59). -/
def State.stbase (s : State) : Nat := bitsOf s.migcfg.toNat 47 19 * 2 ^ 19

/-- STATE of a stub record: 1 live, 2 draining (R58). -/
def stubState (r : Nat) : Nat := bitsOf r 12 11

def stubCtx (r : Nat) : Nat := bitsOf r 207 192

/-- The numbers of the stub records of which some byte is listed; a record of zero bytes is free. -/
def stubNums (base : Nat) (m : Mem) : List Nat :=
  ((m.filter fun c => decide (base ≤ c.1) && decide (c.1 < base + 32 * 16384)).map fun c => (c.1 - base) / 32).eraseDups

/-- The slot of a stub's KIND 10 entry in its context's table, if the entry is there (R32, R58). -/
def stubSlot (m : Mem) (tr i page : Nat) (big : Bool) : Option Nat :=
  let sz := bit big
  let off := page * 2 ^ 16
  let vpn := vpnOf sz 1 off
  ((List.range 8).map fun j => bucketAddr tr sz vpn + 8 * j).find? fun a =>
    let e := memNat m a 8
    pteV e && decide (pteSz e = sz) && decide (pteTag e = vpn / 2 ^ ptn tr) && decide (pteKind e = 2) && decide (pteFrame e = i)

/-- Stubs of a context end at its teardown: the KIND 10 entry goes, and STATE returns to 00 (R61, R72). -/
def freeStubs (x : Ctx) (tr base : Nat) : List Nat → Mem → Mem
  | [], m => m
  | n :: r, m =>
    let d := memNat m (base + 32 * n) 32
    let m := if (stubState d = 1 ∨ stubState d = 2) ∧ stubCtx d = x.toNat then
        let m := match stubSlot m tr n (bitsOf d 239 208) (decide (bitsOf d 13 13 = 1)) with
          | some a => memWrite m a (natBytes 8 0)
          | none => m
        memWrite m (base + 32 * n) (natBytes 32 (d - stubState d * 2 ^ 11))
      else m
    freeStubs x tr base r m

/-- The context of a message at a service core. -/
def SvcMsg.ctx : SvcMsg → Ctx
  | .fault _ x _ _ _ _ => x
  | .misroute _ x _ => x
  | .brk _ _ x _ _ _ => x

/-- A deferred launch, to this device or another (R356): its context. -/
def Defer.launch (d : Defer) : Option Ctx :=
  match d.what with
  | .launch c => some c.ctx
  | .away _ l => some l.ctx
  | _ => none

/-- A creation that a SPAWN launched: not one of a host queue, and not a release (R358, R403, R405). -/
def Creation.launched (c : Creation) : Bool :=
  !c.host && match c.kind with
    | .release => false
    | _ => true

/-- A window waits at its SPAWN. -/
def Window.spawns (w : Window) : Bool :=
  match w.park with
    | some (.spawn _ _ _) => true
    | _ => false

/-- Launches at an Exchange input, held at their core, or at their SPAWN, that tests name. -/
def State.countLaunches (s : State) (c : Creation → Bool) (d : Defer → Bool) (f : Frame → Bool) : Nat :=
  sumNat (s.exchanges.toList.map fun e => e.input.countP fun i => i.launched && c i)
  + sumNat (s.cores.map fun (p : Nat × Core) => p.2.defer.countP fun i => i.launch.isSome && d i)
  + sumNat (s.cores.map fun (p : Nat × Core) => p.2.windows.countP fun w => w.spawns && f w.fr)

/-- Launches of X met by the treatment (R358, R460). -/
def State.launchesOf (s : State) (x : Ctx) : Nat :=
  s.countLaunches (fun c => decide (c.ctx = x)) (fun d => decide (d.launch = some x)) fun f => decide (f.ctx = x)

/-! ### Discarding a queue's instances (R494) -/

/-- The origin is queue `q` (R494). -/
def fromQueue (q : Nat) (o : Option (Nat × Nat)) : Bool := o.any fun p => decide (p.1 = q)

def Frame.ofQueue (q : Nat) (f : Frame) : Bool := fromQueue q f.origin

/-- Launches of a queue's instances that step 2 of R494 drops. -/
def State.launchesOfQueue (s : State) (q : Nat) : Nat :=
  s.countLaunches (fun c => fromQueue q c.origin) (fun d => d.fr.ofQueue q) (Frame.ofQueue q)

/-- A saved area without the frames of a queue's instances. -/
def SaveArea.cancel (q : Nat) (a : SaveArea) : SaveArea :=
  { a with
    wins := (dropWins (fun w => w.fr.ofQueue q) none a.wins)
    claims := a.claims.filter fun c => !(a.wins.any fun w => decide (w.wid = c.wid) && w.fr.ofQueue q)
    copies := a.copies.filter fun j => !j.fr.ofQueue q
    mjobs := a.mjobs.filter fun j => !j.fr.ofQueue q
    refused := a.refused.filter fun e => !e.fr.ofQueue q
    traps := a.traps.filter fun t => !t.fr.ofQueue q
    waiting := a.waiting.filter fun w => !fromQueue q w.origin }

/-- An Exchange without the instances of a queue: their ranges and edges go without decrements, and the releases that its parked ones
still awaited are noted, since they are to be discarded (R431, R494). -/
def Exchange.cancel (q : Nat) (e : Exchange) : Exchange :=
  let mine (l : LaunchRec) : Bool :=
    fromQueue q l.host || e.insts.any fun i => decide (i.launch = l.id) && i.home.isNone && fromQueue q i.origin
  let gone := (e.launches.filter mine).map LaunchRec.id
  let lost := (e.launches.filter fun l => mine l && decide (l.edges.length < l.count)).map fun l =>
    (l.ctx, l.tkt, l.count - l.edges.length)
  let e := e.dropInsts fun i => fromQueue q i.origin
  { e with
    launches := (e.launches.filter fun l => !gone.contains l.id).map fun l =>
      { l with edges := l.edges.filter fun i => !gone.contains i }
    input := e.input.filter fun c => !fromQueue q c.origin
    gone := e.gone ++ lost }

/-- Count a reply of an owner out, under the page size its access was counted in with (R65). -/
def State.egressDone (s : State) (x : Ctx) (off dev : Nat) (big : Bool) : State :=
  let hit (o : PageOrder) : Bool :=
    decide (o.ctx = x) && decide (o.dev = dev) && decide (o.big = big) && decide (o.page = pageOf big off)
  match findAt hit s.pageOrder with
  | none => s
  | some (_, o) =>
    { s with pageOrder :=
        if o.count ≤ 1 then s.pageOrder.filter fun p => decide (p ≠ o)
        else s.pageOrder.map fun p => if p = o then { o with count := o.count - 1 } else p }

/-- What discarded frames of a core have at slices of this device is no longer counted at its egress; what is at another agent stays
counted until its answer (R65, `Pend.ghost`). -/
def State.countOut (s : State) (core : Nat) (gone : Frame → Bool) : State :=
  ((s.core core).pend.filter fun p => gone p.fr && decide (p.region = 1)).foldl (fun s p =>
    p.parts.foldl (fun (s : State) (q : Part) => if q.st = .queued then s.egressDone p.ctx q.off q.dev q.big else s) s) s

def Core.mjob (k : Core) (tid : Nat) : Option MJob := k.mjobs.find? fun j => j.tid = tid

/-- The engine stops, completes or holds: its reservation ends, or is handed over, at a boundary (R478, R479, R508). -/
def State.mEnd (s : State) (core : Nat) : State :=
  let s := s.modCore core fun k => { k with mrun := none }
  s.modCluster (clusterOf core) fun c =>
    { c with resv := c.resv.map fun r => if r.pos = posOf core ∧ r.unit = .matrix ∧ r.down.isNone then { r with ending := true } else r }

/-- A held arrival that was sent by a frame a test names. -/
def HeldMsg.sentBy (gone : Frame → Bool) : HeldMsg → Bool
  | .chit f => gone f.fr
  | .back b => gone b.fr
  | _ => false

/-- Step 2 of R494: every instance of a queue is discarded. -/
def State.discardQueue (s : State) (q : Nat) : State :=
  let mine (f : Frame) : Bool := f.ofQueue q
  let s := s.cores.foldl (fun (s : State) (p : Nat × Core) => s.countOut p.1 mine) s
  let s := s.cores.foldl (fun (s : State) (p : Nat × Core) =>
    if (p.2.mrun.bind p.2.mjob).any fun j => mine j.fr then s.mEnd p.1 else s) s
  let inst (id die : Nat) : Bool := (s.exch die).insts.any fun i => decide (i.id = id) && fromQueue q i.origin
  { s with
    exchanges := s.exchanges.map (Exchange.cancel q)
    walks := s.walks.filter fun w => !inst w.inst w.xdie
    cores := s.cores.map fun (p : Nat × Core) => (p.1, { Core.discard mine inst p.2 with
      waiting := p.2.waiting.filter fun w => !fromQueue q w.origin })
    slices := s.slices.map fun (p : Nat × Slice) => (p.1, { p.2 with
      watches := p.2.watches.filter fun w => !mine w.fr
      extraWatches := p.2.extraWatches.filter fun w => !mine w.fr })
    chits := s.chits.filter fun c => !mine c.fr
    asks := s.asks.filter fun a => !mine a.fr
    askBacks := s.askBacks.filter fun a => !mine a.fr
    watchMsgs := s.watchMsgs.filter fun w => !mine w.fr
    held := s.held.filter fun (p : Nat × HeldMsg) => !p.2.sentBy mine
    saves := s.saves.map fun (p : Nat × SaveArea) => (p.1, SaveArea.cancel q p.2) }

/-- A queue is reset, `dropped` of its launches having been dropped (R494). -/
def State.resetQueue (s : State) (q dropped : Nat) : State :=
  ((s.discardQueue q).modQueue q (Queue.cancel dropped (memNat s.mem (s.queue q).base 8))).sync q

/-! ### The treatment (R456) -/

/-- Step 6: FAULT on every queue bound to X, or on queue 0, and the reset of the bound queues, each with the launches dropped of its own
instances (R456, R494). A CTXKILL, by its queue and HSEQ, completes between the two (R494). -/
def State.report (s : State) (x : Ctx) (fr : BitVec 512) (dropped : Nat → Nat) (kill : Option (Nat × Nat)) : State :=
  let bound := (List.range 16).filter fun q => q != 0 && decide ((s.queue q).st ≠ .absent) && (s.queue q).ctx = x
  let ev : Event := { Event.mk0 3 0 0 with frec := fr }
  let s := if bound.isEmpty then s.postEvent 0 ev else bound.foldl (fun s q => s.postEvent q ev) s
  let s := match kill with
    | some (q, h) => s.cmdDone q h 0
    | none => s
  bound.foldl (fun s q => s.resetQueue q (dropped q)) s

/-- Make a request; one of the same requester that is pending takes its place only where the class differs (R475, R508). -/
def State.request (s : State) (core : Nat) (u : Load) (cls : RClass) (prio : Nat) (x : Ctx) : State :=
  let pos := posOf core
  let new : Req := ⟨pos, u, cls, prio, x, s.tick.toNat⟩
  s.modCluster (clusterOf core) fun c =>
    if c.reqs.any fun r => decide (r.pos = pos) && decide (r.unit = u) then
      { c with reqs := c.reqs.map fun r =>
          if r.pos = pos ∧ r.unit = u then { new with since := if r.cls = cls then r.since else new.since } else r }
    else { c with reqs := c.reqs ++ [new] }

/-- The reservation's work is that of X: a running matrix job, a copy job, or the vector instructions of a frame. -/
def State.resvOf (s : State) (cl : Nat) (x : Ctx) (r : Resv) : Bool :=
  match r.unit with
  | .matrix => s.cores.any fun (p : Nat × Core) => decide (clusterOf p.1 = cl) && decide (posOf p.1 = r.pos)
      && (p.2.mrun.bind fun t => p.2.mjobs.find? fun j => j.tid = t).any fun j => decide (j.ctx = x)
  | _ => decide (r.ctx = x)

/-- The reservations that X holds come to their end: those of matrix jobs ramp down, the others are freed at the next boundary
(R478, R480). -/
def State.endResvs (s : State) (x : Ctx) : State :=
  { s with clusters := s.clusters.map fun (p : Nat × Cluster) => (p.1, { p.2 with
      resv := p.2.resv.map fun r => if s.resvOf p.1 x r && r.down.isNone then { r with ending := true } else r }) }

/-- Region 0xFF after the treatment of X: the areas that its eviction has written hold undefined bytes (R460). -/
def State.areasLost (s : State) (x : Ctx) : Mem :=
  if s.evicts.any fun e => decide (e.ctx = x) && !e.isRestore then
    (s.saves.filter fun (p : Nat × SaveArea) => p.2.ctx = x).foldl (fun m p => memWipe m p.1 (p.1 + p.2.size)) s.sysMem
  else s.sysMem

/-- The dirty lines of X at every slice are written back (R94): memory keeps every write performed before the treatment (R458).
DEDUCED (log 65): R95 discards the dirty lines of a context that CTXKILL has torn down, and none is left by then. -/
def State.keepWrites (s : State) (x : Ctx) : State :=
  s.slices.foldl (fun (s : State) (p : Nat × Slice) => (p.2.lines.filter fun l => l.ctx = x).foldl State.writeBack s) s

/-- Context-fatal treatment of X with one fault (R456). Of a context that is not live on the device it only counts the event (R459). -/
def State.endContext (s : State) (x : Ctx) (f : FaultInfo) (a : FaultAt) (kill : Option (Nat × Nat)) : State :=
  match s.ctxRec x with
  | none => s
  | some r =>
    match r.st with
    | .dead _ => s.countLate x
    | _ =>
      let n := s.launchesOf x
      let drops := s.launchesOfQueue
      let s := s.keepWrites x
      let fr := faultRecord f x s.dev a (decide (f.code = cREFUSED)) true s.tick.toNat (r.dropl + n)
      let s := (s.evicts.filter fun e => e.ctx = x).foldl (fun s e => s.cmdDone e.queue e.hseq f.code) s
      let s := (s.migrations.filter fun e => e.ctx = x).foldl (fun s e => s.cmdDone e.queue e.hseq f.code) s
      let s := { s.endResvs x with
        exchanges := s.exchanges.map (Exchange.dropCtx x)
        walks := s.walks.filter fun w => ((s.exch w.xdie).insts.any fun i => decide (i.id = w.inst) && decide (i.ctx ≠ x))
        cores := s.cores.map fun (p : Nat × Core) => (p.1, Core.endSaves x (Core.dropCtx x
          { p.2 with barrow := p.2.barrow.filter fun b =>
              !((s.exch b.xdie).insts.any fun i => decide (i.id = b.inst) && decide (i.ctx = x)) }))
        slices := s.slices.map fun (p : Nat × Slice) => (p.1, Slice.dropCtx x p.2)
        criers := s.criers.map fun (c : Crier) => { c with chans := c.chans.filter fun h => h.2.ctx != x }
        chits := s.chits.filter fun c => c.c.ctx != x
        asks := s.asks.filter fun c => c.ctx != x
        askBacks := s.askBacks.filter fun c => c.ctx != x
        watchMsgs := s.watchMsgs.filter fun c => c.ctx != x
        owners := s.owners.filter fun o => o.ctx != x
        pageOrder := s.pageOrder.filter fun o => o.ctx != x
        holds := s.holds.filter fun o => o.ctx != x
        migrations := s.migrations.filter fun o => o.ctx != x
        installs := s.installs.filter fun o => o.ctx != x
        scForms := s.scForms.filter fun o => o.ctx != x
        relays := s.relays.filter fun o => o.req.ctx != x
        evicts := s.evicts.filter fun o => o.ctx != x
        held := s.held.filter fun (p : Nat × HeldMsg) => !p.2.sentBy fun f => decide (f.ctx = x)
        saves := s.saves.filter fun (p : Nat × SaveArea) => p.2.ctx != x
        sysMem := s.areasLost x
        mem := freeStubs x r.trans.toNat s.stbase (stubNums s.stbase s.mem) s.mem
        mtags := s.mtags.filter fun u =>
          decide (memRead (freeStubs x r.trans.toNat s.stbase (stubNums s.stbase s.mem) s.mem) (u * 16) 16 = memRead s.mem (u * 16) 16)
        mail := s.mail.map fun (l : List SvcMsg) => l.filter fun m => m.ctx != x
        contexts := tabPut x { r with st := .dead (BitVec.ofNat 8 f.code), dropl := r.dropl + n } s.contexts }
      s.report x fr drops kill

/-- Context-fatal treatment for a fault (R456). -/
def State.contextFatal (s : State) (x : Ctx) (f : FaultInfo) (a : FaultAt) : State := s.endContext x f a none

/-! ### Taking a local fault (R450, R451) -/

/-- The start of a fault window over a faulting window (R450). -/
def faultWindow (s : State) (w : Window) (f : FaultInfo) (head : W64) (pc rpc : W64) : Window :=
  { wid := s.nextId
    s := Vector.ofFn fun i => if h : i.val < 8 then w.s[i.val + 8] else
      match i.val with
      | 8 => head
      | 9 => pc
      | 10 => BitVec.ofNat 64 f.detail
      | 11 => w.fr.tkt
      | 12 => s.tick
      | 13 => BitVec.ofNat 64 w.fr.serial.toNat
      | _ => 0
    p := 0
    m := Vector.replicate 8 0
    k := Vector.ofFn fun i => if h : i.val < 4 then w.k[i.val + 4] else Key.zero
    v := []
    drg := w.drg
    nxt := w.nxt
    byt := w.byt
    hnde := w.hnde
    flg := w.flg
    pthr := s.me.thr
    rpc := rpc
    callw := true
    svc := false
    adm := false
    pc := BitVec.ofNat 64 ((match s.ctxRec w.fr.ctx with | some r => r.vec.toNat | none => 0) % 2 ^ 48 / 4 * 4)
    park := none
    fresh := true
    fr := w.fr }

/-- HV of the context's fault vector (R449). -/
def State.handled (s : State) (x : Ctx) : Bool :=
  match s.ctxRec x with
  | some r => r.vec.toNat % 2 = 1
  | none => false

/-- Push a fault window, or treat the context (R450, R451, R453). `async` marks a REFUSED trap. -/
def State.deliver (s : State) (f : FaultInfo) (async : Bool) : State :=
  match s.top with
  | none => s
  | some w =>
    let pc : W64 := if async then 0 else w.pc
    let head := recordHead f w.fr.ctx s.dev s.cur async false
    let fatal := s.contextFatal w.fr.ctx f ⟨s.cur, pc.toNat, w.fr.tkt.toNat, w.fr.serial.toNat⟩
    if s.handled w.fr.ctx && !w.sys then
      match s.me.push (faultWindow s w f head pc (if async then w.pc else w.pc + 12)) with
      | some k => { s.setCore s.cur k with nextId := s.nextId + 1 }
      | none => fatal
    else fatal

/-- Take a local fault at the running instruction (R448 to R451). -/
def State.takeFault (s : State) (f : FaultInfo) : State := s.deliver f false

/-! ### Outstanding results and discards (R208 to R211) -/

/-- The result of an outstanding access is one a frame waits for (R208, R280, R355). -/
def Pend.counts (p : Pend) : Bool :=
  match p.kind with
  | .pref => false
  | .spawn => false
  | .stsc => false
  | .ownStore _ => false
  | .engRead _ => false
  | .engWrite _ _ => false
  | _ => true

/-- The result register a word names as its destination. -/
inductive Dst where
  | s (r : SReg)
  | k (r : KReg)
  /-- the register bits that the instruction writes -/
  | v (r : VIdx) (lanes : VReg)
  deriving DecidableEq, Repr

/-- The scalar register an outstanding access writes. -/
def PendKind.sreg : PendKind → Option SReg
  | .load _ _ d => some d
  | .amo _ _ d _ => some d
  | .cas _ d _ _ => some d
  | .mfs _ d => some d
  | _ => none

/-- An earlier result for a register that a later instruction names is discarded (R211). -/
def Pend.discard (wid : Nat) (d : Dst) (p : Pend) : Pend :=
  if p.wid = wid then
    match d, p.kind with
    | .s r, k => if k.sreg = some r then { p with dead := true } else p
    | .k r, .key q => if q = r then { p with dead := true } else p
    | .v r lanes, .vec q zr mine =>
      let all := if zr then BitVec.allOnes 2048 else mine
      if q = r then { p with deadLanes := p.deadLanes ||| lanes, dead := p.dead || all &&& ~~~(p.deadLanes ||| lanes) = 0 } else p
    | _, _ => p
  else p

/-- An outstanding result of the frame (R209). A discarded one is not waited for. -/
def Core.outstanding (k : Core) (f : Frame) : Bool :=
  k.pend.any fun p => p.counts && !p.dead && p.fr.same f

/-- Every path of a word that has passed the decoder: its effect, a local fault, or a wait. -/
inductive Res where
  | ok (s : State)
  | fault (f : FaultInfo)
  /-- the frame parks and issues the word again; a release that waits closes its ticket's entries (R105) -/
  | wait (p : Park) (close : Bool)
  deriving DecidableEq, Repr

/-- A check before an effect. -/
def Res.check {α : Type} (x : Ex α) (k : α → Res) : Res :=
  match x with
  | .ok a => k a
  | .error f => .fault f

/-- The running frame parks. -/
def State.parkTop (s : State) (p : Park) : State := s.modTop fun w => { w with park := some p }

/-- What every word does around its own effect: the switch marker, the guard, the discards and the fault
(R207, R209, R211, R448). `forced` is the marker that R209 gives END, RET, CALL, CALLI, SVC, TRAP, BRK and ERET. -/
def issue (h : Hdr) (forced : Bool) (dst : List Dst) (s : State) (body : State → Window → Res) :
    Host.Outcome State Fault Refusal :=
  match s.top with
  | none => .next s
  | some w0 =>
    if (h.sw || forced) && s.me.outstanding w0.fr then .next (s.parkTop .marker)
    else
      let w := { w0 with park := none, fresh := false }
      let s1 := (s.setTop w).modMe fun k => { k with pend := k.pend.map fun p => dst.foldl (fun p d => p.discard w.wid d) p }
      if w.guard h then
        match body s1 w with
        | .ok s2 => .next s2
        | .fault f => .next ((s.setTop w).takeFault f)
        | .wait p close =>
          let s := s.parkTop p
          .next (if close then s.modMe fun k => { k with jrn := k.jrn.map fun e =>
              if e.st = .opened ∧ e.ctx = w.fr.ctx ∧ e.serial = w.fr.serial then { e with st := .closed } else e }
            else s)
      else .next (s1.setTop w.advance)

/-- A word of fixed latency whose effect is on its own window only: the new window, without the PC's advance. -/
def issueW (h : Hdr) (dst : List Dst) (s : State) (f : State → Window → Ex Window) :
    Host.Outcome State Fault Refusal :=
  issue h false dst s fun s w => Res.check (f s w) fun w' => .ok (s.setTop w'.advance)

/-- The core that a window of a frame stands on. -/
def Core.findWin (k : Core) (wid : Nat) : Option Window :=
  ((k.wins ++ readSpill k.bufS k.spilled).filter fun w => w.wid = wid).head?

/-- Change a window wherever it lies, in the stack or in the spill area (R40). -/
def Core.modWin (k : Core) (wid : Nat) (f : Window → Window) : Core :=
  if k.wins.any fun w => w.wid = wid then
    { k with wins := k.wins.map fun w => if w.wid = wid then f w else w }
  else
    k.respill ((readSpill k.bufS k.spilled).map fun w => if w.wid = wid then f w else w)

/-- An unhandled fault found on behalf of a context by an agent other than a frame. -/
def State.fatalAt (s : State) (x : Ctx) (code acc region detail core : Nat) : State :=
  s.contextFatal x ⟨code, acc, region, detail⟩ { FaultAt.none with core := core }

end Sys2Proof.Machine
end

