-- ==== Sys2Proof/Machine/Translate.lean ====
section
/-! DEFINITION. Translate.lean: homes of addresses (R29, R92), page tables and their entries (R30 to R34), permissions
(R37) and the posting of page faults (R39, R42). -/

namespace Sys2Proof.Machine

/-- The translation record of a context at its reset value: PTN = 14 (R30). -/
def transReset : Nat := 14 * 2 ^ 48

/-- The context's translation record, 576 bits (R30). -/
def State.trans (s : State) (x : Ctx) : Nat :=
  match s.ctxRec x with
  | some r => r.trans.toNat
  | none => transReset

def State.home (s : State) (x : Ctx) (region : BitVec 8) (off : Nat) : Nat := homeSlice (s.trans x) (vaOf region off)

/-- The home die of a region 0x00 offset: where a ticket's Exchange is (R350). -/
def State.ticketDie (s : State) (x : Ctx) (off : Nat) : Nat := homeDie (s.trans x) (vaOf 0 off)

/-- The TLB entry that translates an address: the smallest page (R34). -/
def tlbFind (tlb : List TlbEntry) (x : Ctx) (region : BitVec 8) (off : Nat) : Option TlbEntry :=
  let hit (sz : Nat) := tlb.find? fun t => decide (t.ctx = x) && decide (t.size = sz) && decide (t.vpn = vpnOf sz region off)
  match hit 0 with
  | some t => some t
  | none => match hit 1 with
    | some t => some t
    | none => hit 2

/-- The physical address an entry gives (R31, R32). -/
def ptePa (e off : Nat) : Nat := pteFrame e * 2 ^ 16 + off % 2 ^ pageShift (pteSz e)

/-- Whether an entry lets an access pass (R37). `ac` marks an atomic of order ACQ, AR or SC. -/
def permits (e : Nat) (kind : AccKind) (wr ac : Bool) : Bool :=
  match kind with
  | .load => pteRd e
  | .store => pteWr e
  | .atomic => pteAt e && (!ac || pteRd e)
  | .fetch => pteEx e
  | .engine => if wr then pteWr e else pteRd e

/-- Insert a TLB entry, or bring it to the front: most recent first, 2,048 at most (R95). -/
def tlbFill (tlb : List TlbEntry) (t : TlbEntry) : List TlbEntry :=
  (t :: tlb.filter fun u => !(decide (u.ctx = t.ctx) && decide (u.size = t.size) && decide (u.vpn = t.vpn))).take 2048

def tlbOf (x : Ctx) (region : BitVec 8) (off e : Nat) : TlbEntry :=
  ⟨x, pteSz e, vpnOf (pteSz e) region off, BitVec.ofNat 64 e⟩

/-- A TLB entry matches some address of a page: it lies in the page, or the page in it (R36). -/
def tlbMeets (x : Ctx) (sz : Nat) (region : BitVec 8) (off : Nat) (t : TlbEntry) : Bool :=
  decide (t.ctx = x)
    && (if t.size ≤ sz then decide (t.vpn / 2 ^ (pageShift sz - pageShift t.size) = vpnOf sz region off)
        else decide (t.vpn = vpnOf t.size region off))

/-- The 64 KiB range of a pending-fault entry, with its region (R39). -/
def pfRange (region : BitVec 8) (off : Nat) : Nat := region.toNat * 2 ^ 48 + off / 2 ^ 16

/-- What a fault message says of the access that missed (R39): its kind, requesting device and module core. -/
structure MissBy where
  kind : AccKind
  dev : Nat
  core : Nat
  deriving DecidableEq, Repr

/-- A slice has a pending-fault entry that an access of this range joins. -/
def Slice.joins (l : Slice) (x : Ctx) (range : Nat) : Bool :=
  l.faults.any fun f => decide (f.ctx = x) && decide (f.range = range) && !f.stale

/-- An access is marked as one whose miss waits for a free entry (R39). -/
def Slice.markStuck (l : Slice) (who : Waiter) (b : Bool) : Slice :=
  { l with input := l.input.map fun e => if e.who = who then { e with stuck := b } else e }

/-- Join the pending-fault entry of a range, or take a free one (R39). A miss that finds 32 entries in use is held at the
slice's input until an entry frees. -/
def Slice.postFault (l : Slice) (x : Ctx) (range : Nat) (by' : MissBy) (who : Waiter) : Slice :=
  if l.joins x range then
    { l.markStuck who false with faults := l.faults.map fun f =>
        if f.ctx = x ∧ f.range = range ∧ !f.stale then { f with who := f.who ++ [who] } else f }
  else if l.faults.length < 32 then
    { l.markStuck who false with faults := l.faults ++ [⟨x, range, by'.kind, by'.dev, by'.core, none, [who], false⟩] }
  else l.markStuck who true

/-- A waiter has posted or joined a fault message at some slice (R40). -/
def State.faulted (s : State) (who : Waiter) : Bool := s.slices.any fun p => p.2.faults.any fun f => f.who.contains who

/-- A miss is held at a slice's input, with no free pending-fault entry (R39). -/
def State.stuckMiss (s : State) (who : Waiter) : Bool := s.slices.any fun p => p.2.input.any fun e => decide (e.who = who) && e.stuck

/-- The top window of a core. -/
def State.topOf (s : State) (c : Nat) : Option Window := (s.core c).wins.head?

/-- A result the frame waits for that has neither posted nor joined a fault message (R212). -/
def State.waitsFor (s : State) (core : Nat) (f : Frame) : Bool :=
  (s.core core).pend.any fun p => p.counts && !p.dead && p.fr.same f
    && !((List.range p.parts.length).any fun i => s.faulted (.acc (.pend core p.id i)))

/-- The core offers an admission boundary (R212, R450). -/
def State.boundary (s : State) (core : Nat) : Bool :=
  (s.cluster (clusterOf core)).rst = .active && (match s.topOf core with
    | none => true
    | some w => !w.fresh && !s.waitsFor core w.fr)

/-- A push of `n` vector registers would stay inside the spill area (R167). -/
def Core.canPush (k : Core) (n : Nat) : Bool := decide (spillTop (spillFor n 64 k).spilled ≤ 0x10000)

/-- The service core of a die (R6). -/
def svcCore (die : Nat) : Nat := die * 192 + 191

/-- The service core of a die can admit a service task at priority 7: nothing at level 7 is on it, it stands at an admission boundary, and
a window can be pushed (R6, R406, R409). The task then runs to its end in the same step (log 13). -/
def State.serves (s : State) (die : Nat) : Bool :=
  let k := s.core (svcCore die)
  s.boundary (svcCore die) && (k.wins.isEmpty || decide (k.thr < 7)) && k.canPush 0

/-- Leave a message at a die's service core (R6). -/
def State.mailTo (s : State) (die : Nat) (m : SvcMsg) : State := { s with mail := vmod die (fun l => l ++ [m]) s.mail }

def AccKind.code : AccKind → Nat
  | .load => 1
  | .store => 2
  | .atomic => 3
  | .fetch => 4
  | .engine => 5

/-- Serve a miss: SYS tickets meet FATAL at once (R42); others post a fault message to the service core of the slice's die,
or join one (R39). -/
def State.miss (s : State) (sl : Nat) (x : Ctx) (region : BitVec 8) (off : Nat) (sys : Bool) (by' : MissBy) (who : Waiter) :
    State :=
  if sys then s.contextFatal x ⟨cPAGE, by'.kind.code, region.toNat, off / 2 ^ 16 * 2 ^ 16⟩ { FaultAt.none with core := agentAt sl }
  else
    let l := s.slice sl
    let range := pfRange region off
    let s := s.modSlice sl fun l => l.postFault x range by' who
    if l.joins x range || 32 ≤ l.faults.length then s else s.mailTo (sl / 48) (.fault sl x range by'.kind by'.dev by'.core)

/-- An access starts a walk (R95): the first eight of a slice are in flight, the others wait in arrival order. -/
def State.startWalk (s : State) (sl : Nat) (x : Ctx) (region : BitVec 8) (off : Nat) (by' : MissBy) (sys : Bool) (who : Waiter) :
    State :=
  s.modSlice sl fun t => { t with walks := t.walks ++ [⟨x, vaOf region off, by'.kind, by'.dev, by'.core, sys, who⟩] }

/-- The waiter stands in a walk or a pending fault (R39, R95). -/
def State.blocked (s : State) (w : Waiter) : Bool :=
  s.slices.any fun p => (p.2.walks.any fun k => k.who = w) || p.2.faults.any fun f => f.who.contains w

end Sys2Proof.Machine
end

