-- ==== Sys2Proof/Machine/Operands.lean ====
section
/-! DEFINITION. Operands.lean: operand values, address formation and the checks of R22 to R27, R45 to R48, R82, R158,
R159 and R257. -/

namespace Sys2Proof.Machine

/-- Sext(imm, 18) as 64 bits (R201). -/
def immV (v : BitVec 18) : W64 := v.signExtend 64

/-- A long or short immediate as 64 bits (R202). -/
def LImm.val : LImm → W64
  | .short v => v.signExtend 64
  | .long v => v.signExtend 64

def Window.si (w : Window) : SI → W64
  | .reg r => w.rdS r
  | .imm v => immV v

def Window.sl (w : Window) : SL → W64
  | .reg r => w.rdS r
  | .imm v => LImm.val v

/-- A signed B operand as an integer (R257). -/
def Window.siInt (w : Window) (b : SI) : Int := (w.si b).toInt

/-! ### Keys (R43, R45) -/

def Key.n (k : Key) : Nat := k.bits.toNat
def Key.peer (k : Key) : Nat := bitsOf k.n 127 117
def Key.perm (k : Key) : Nat := bitsOf k.n 116 111
def Key.e (k : Key) : Nat := bitsOf k.n 110 105
def Key.b (k : Key) : Nat := bitsOf k.n 104 89
def Key.t (k : Key) : Nat := bitsOf k.n 88 73
def Key.sealed (k : Key) : Bool := decide (bitsOf k.n 72 72 = 1)
def Key.region (k : Key) : BitVec 8 := BitVec.ofNat 8 (bitsOf k.n 71 64)
def Key.off (k : Key) : Nat := bitsOf k.n 63 0

/-- A key from its fields (R43). -/
def Key.mk' (peer perm e b t : Nat) (sl : Bool) (region : BitVec 8) (off : Nat) (tag : Bool) : Key :=
  ⟨BitVec.ofNat 128 (off % 2 ^ 64 + region.toNat * 2 ^ 64 + bit sl * 2 ^ 72 + t % 2 ^ 16 * 2 ^ 73 + b % 2 ^ 16 * 2 ^ 89
    + e % 2 ^ 6 * 2 ^ 105 + perm % 2 ^ 6 * 2 ^ 111 + peer % 2 ^ 11 * 2 ^ 117), tag⟩

/-- The bounds decoded with the address `a` in place of the key's own; `none` where they are empty (R45). -/
def boundsAt (e b t a : Nat) : Option (Nat × Nat) :=
  if 48 < e then none
  else
    let amid := a / 2 ^ e % 2 ^ 16
    let a3 := amid / 2 ^ 13
    let b3 := b / 2 ^ 13
    let t3 := t / 2 ^ 13
    let r3 := (b3 + 7) % 8
    let ca : Int := bit (decide (a3 < r3))
    let cb : Int := bit (decide (b3 < r3)) - ca
    let ct : Int := bit (decide (t3 < r3)) - ca
    let ahi : Int := (a / 2 ^ (e + 16) : Nat)
    let base : Int := (ahi + cb) * (2 ^ (e + 16) : Nat) + (b * 2 ^ e : Nat)
    let top : Int := (ahi + ct) * (2 ^ (e + 16) : Nat) + (t * 2 ^ e : Nat)
    if top < base ∨ base < 0 ∨ (2 ^ 64 : Nat) < top then none else some (base.toNat, top.toNat)

def Key.bounds (k : Key) : Option (Nat × Nat) := boundsAt k.e k.b k.t k.off

/-- The address `a` is representable in the key (R45). -/
def Key.representable (k : Key) (a : Nat) : Bool := decide (boundsAt k.e k.b k.t a = k.bounds)

/-- Permission bits, in the order of PMASK (R43, R255). -/
def pREAD : Nat := 1
def pWRITE : Nat := 2
def pATOM : Nat := 4
def pMOPER : Nat := 8
def pSPAWN : Nat := 16
def pDERIVE : Nat := 32

/-- A region some access can name (R23). -/
def regionOk (r : BitVec 8) : Bool := decide (r.toNat ≤ 3) || r = 0xFE || r = 0xFF

/-- The checks of R46 for `n` bytes at offset `o`, all permissions of `need` required. -/
def Key.check (k : Key) (need : Nat) (o : Int) (n acc : Nat) (sys : Bool) : Ex Unit :=
  let d := (o % (2 ^ 64 : Nat)).toNat
  let f (code : Nat) : FaultInfo := ⟨code, acc, k.region.toNat, d⟩
  if !k.tag then .error (f cTAG)
  else if k.sealed then .error (f cPERM)
  else if !regionOk k.region then .error (f cADDR)
  else if k.region = 0xFF && !sys then .error (FaultInfo.plain cPRIV acc)
  else if k.perm &&& need ≠ need then .error (f cPERM)
  else match k.bounds with
    | none => .error (f cBOUNDS)
    | some (b, t) => if o < b ∨ (t : Int) < o + n then .error (f cBOUNDS) else .ok ()

/-! ### Owners of region 0x01 pages (R38, R51, R52) -/

/-- The set of a page in the owner cache (R51). -/
def ownerSet (x : Ctx) (page : Nat) : Nat := foldX 10 8 (x.toNat * 2 ^ 32 + page)

/-- The owner cache's entry of a page, in the set the page indexes (R51). -/
def State.ownerAt (s : State) (x : Ctx) (big : Bool) (page : Nat) : Option OwnerEntry :=
  s.owners.find? fun o =>
    o.v && decide (o.ctx = x) && decide (o.big = big) && decide (o.page = page) && decide (o.set = ownerSet x page)

/-- The owner cache's entry of an address: a 64 KiB entry before a 2 MiB entry (R52). -/
def State.ownerEntry (s : State) (x : Ctx) (off : Nat) : Option OwnerEntry :=
  match s.ownerAt x false (pageOf false off) with
  | some o => some o
  | none => s.ownerAt x true (pageOf true off)

/-- Where a region 0x01 access goes: the owner cache, else the key's PEER, else this device (R38). -/
def State.ownerOf (s : State) (x : Ctx) (off : Nat) (peer : Option Nat) : Nat :=
  match s.ownerEntry x off with
  | some o => o.owner
  | none => peer.getD s.dev

/-- The entry looked up becomes the most recent (R52). -/
def State.touchOwner (s : State) (x : Ctx) (off : Nat) : State :=
  match s.ownerEntry x off with
  | some o => { s with owners := o :: s.owners.filter fun p => decide (p ≠ o) }
  | none => s

/-- q of the domain, 0 for a standalone device (R76, R79). -/
def State.q (s : State) : Nat := [5, 9, 13, 17, 25].getD (s.fabcfg.toNat % 8) 0

/-- The device can be reached: itself, or a device id the fabric's routing covers (R82). -/
def State.reachable (s : State) (d : Nat) : Bool :=
  decide (d = s.dev) ||
    (bitsOf s.fabcfg.toNat 14 14 = 1 && decide (d < 2 * s.q * s.q) && decide ((tabGet 0 d s.routes).toNat % 2 = 1))

/-! ### Checked addresses -/

/-- Where an access goes: region, offset, length, destination device, whether it came through a key, the key's PEER. -/
structure Acc where
  region : BitVec 8
  off : Nat
  n : Nat
  dev : Nat
  viaKey : Bool
  peer : Option Nat
  deriving DecidableEq, Repr

/-- The fields of a region 0xFE offset (R26). -/
def winDev (o : Nat) : Nat := bitsOf o 63 53
def winCore (o : Nat) : Nat := bitsOf o 52 51 * 192 + bitsOf o 50 43
def winBuf (o : Nat) : Nat := bitsOf o 42 41
def winOff (o : Nat) : Nat := o % 2 ^ 20

/-- Bytes of a buffer: W, A, C, S (R8, R27). -/
def bufSize (b : Nat) : Nat := if b = 0 then 0x80000 else 0x40000

/-- A core's own buffer of a number. -/
def Core.buf (k : Core) (b : Nat) : Mem := if b = 0 then k.bufW else if b = 1 then k.bufA else k.bufS

/-- Put a buffer back; C is not held in bytes. -/
def Core.setBuf (k : Core) (b : Nat) (m : Mem) : Core :=
  if b = 0 then { k with bufW := m } else if b = 1 then { k with bufA := m } else if b = 3 then { k with bufS := m } else k

/-- Write bytes to a buffer; the tags of the S units touched are cleared (R44). -/
def Core.bufWrite (k : Core) (b o : Nat) (bs : List (Option Byte)) : Core :=
  let k' := k.setBuf b (memMask (k.buf b) o bs)
  if b = 3 then
    { k' with stags := k'.stags.filter fun t =>
        !((List.range bs.length).any fun i => (bs.getD i none).isSome && decide ((o + i) / 16 = t)) }
  else k'

/-- The allocation of a context on a core (R157). -/
def Core.bal (k : Core) (x : Ctx) : Option Bal := k.bals.toList.find? fun b => b.v && decide (b.ctx = x)

/-- The bytes a context may touch in a buffer (R158). -/
def Bal.range (b : Bal) (buf : Nat) : Nat × Nat :=
  if buf = 0 then (b.wbase * 4096, b.wend * 4096)
  else if buf = 1 then (b.abase * 4096, b.aend * 4096)
  else (b.sbase * 4096, b.send * 4096)

/-- The context's allocation covers `n` bytes at `o` of a buffer. -/
def Core.covers (k : Core) (x : Ctx) (buf o n : Nat) : Bool :=
  match k.bal x with
  | some b => decide ((b.range buf).1 ≤ o) && decide (o + n ≤ (b.range buf).2)
  | none => false

/-- Bytes that touch the spill area (R159). -/
def touchesSpill (buf o n : Nat) : Bool := decide (buf = 3) && decide (0x30000 < o + n) && decide (o < 0x40000)

/-- A range of a buffer lies in the context's allocation and outside the spill area (R158, R159). No ticket is exempt for a job,
a ring or a record. -/
def Core.bufOk (k : Core) (x : Ctx) (buf o n : Nat) : Bool :=
  decide (o + n ≤ bufSize buf) && k.covers x buf o n && !touchesSpill buf o n

/-- A window access to the core's own buffers: a SYS ticket may access the spill area (R158, R159). -/
def Core.winOk (k : Core) (x : Ctx) (sys : Bool) (buf o n : Nat) : Bool :=
  decide (o + n ≤ bufSize buf) && k.covers x buf o n && (sys || !touchesSpill buf o n)

/-- The window checks of R27, then R158 and R159 for the issuing core's own buffers. -/
def windowCheck (s : State) (w : Window) (o n acc : Nat) (viaKey : Bool) : Ex Unit :=
  let f (code d : Nat) : FaultInfo := ⟨code, acc, 0xFE, d⟩
  let own := winDev o = s.dev && winCore o = s.cur
  if bitsOf o 40 20 ≠ 0 ∨ 191 < bitsOf o 50 43 then .error (f cADDR o)
  else if !viaKey && !own then .error (f cPERM o)
  else if winBuf o = 2 then .error (f cBUFFER (winOff o))
  else if bufSize (winBuf o) < winOff o + n then .error (f cBUFFER (winOff o))
  else if own && !s.me.winOk w.fr.ctx w.sys (winBuf o) (winOff o) n then .error (f cBUFFER (winOff o))
  else .ok ()

/-- The destination device of an access (R38, R48, R103). -/
def accDev (s : State) (x : Ctx) (region : BitVec 8) (off : Nat) (peer : Option Nat) : Nat :=
  if region = 0xFE then winDev off
  else if region = 1 then s.ownerOf x off peer
  else if region = 0xFF then s.dev
  else peer.getD s.dev

/-- Base and region of an address operand (R22). -/
def Window.base (w : Window) : SK → BitVec 8 × Nat × Option Key
  | .s r => (w.drg.truncate 8, (w.rdS r).toNat, none)
  | .k r => let k := w.rdK r; (k.region, k.off, some k)

/-- Form and check an address before its alignment (R257 steps 1 to 3). DESIGN CHOICE (log 63): R25 names the offset; an access
that starts below 2^48 and ends above it raises ADDR. -/
def formAddr (s : State) (w : Window) (a : SK) (b : Int) (n need acc : Nat) : Ex Acc :=
  let (region, base, key) := w.base a
  let o : Int := base + b
  let d := (o % (2 ^ 64 : Nat)).toNat
  let f (code : Nat) : FaultInfo := ⟨code, acc, region.toNat, d⟩
  let chk : Ex Unit := match key with
    | some k =>
      match k.check need o n acc w.sys with
      | .error e => .error e
      | .ok _ =>
        if s.reachable (accDev s w.fr.ctx region d (some k.peer)) then .ok () else .error (f cADDR)
    | none =>
      if o < 0 ∨ (2 ^ 64 : Nat) ≤ o then .error (f cADDR)
      else if !regionOk region then .error (f cADDR)
      else if region = 0xFF && !w.sys then .error (FaultInfo.plain cPRIV acc)
      else .ok ()
  match chk with
  | .error e => .error e
  | .ok _ =>
    let reg : Ex Unit :=
      if region.toNat ≤ 3 then (if 2 ^ 48 < d + n then .error (f cADDR) else .ok ())
      else if region = 0xFE then windowCheck s w d n acc key.isSome
      else .ok ()
    match reg with
    | .error e => .error e
    | .ok _ => .ok ⟨region, d, n, accDev s w.fr.ctx region d (key.map Key.peer), key.isSome, key.map Key.peer⟩

/-- The alignment of R258. -/
def aligned (x : Ex Acc) (n acc : Nat) : Ex Acc :=
  match x with
  | .error e => .error e
  | .ok a => if a.off % n = 0 then .ok a else .error ⟨cALIGN, acc, a.region.toNat, a.off⟩

/-- The access reaches the issuing core's own buffers (R26). -/
def Acc.own (a : Acc) (s : State) : Bool := a.region = 0xFE && a.dev = s.dev && winCore a.off = s.cur

/-! ### Buffer operands (R138, R262) -/

/-- Buffer and byte offset of a buffer operand; a scalar's other bits must be zero (R262 step 1). -/
def Window.buS (w : Window) : BuS → Option (Nat × Nat)
  | .bu buf off => some (buf.val, off.toNat * 16)
  | .s r =>
    let v := (w.rdS r).toNat
    if v < 2 ^ 22 then some (v / 2 ^ 20, v % 2 ^ 20) else none

/-- A checked buffer access of `n` bytes aligned to `al`; a SYS ticket is exempt from allocation and spill area (R262, R308). -/
def formBufA (s : State) (w : Window) (a : BuS) (b : Int) (n al acc : Nat) : Ex (Nat × Nat) :=
  let f (d : Int) (code : Nat) : FaultInfo := ⟨code, acc, 0, (d % (2 ^ 64 : Nat)).toNat⟩
  match w.buS a with
  | none => .error (f 0 cBUFFER)
  | some (buf, base) =>
    let o : Int := base + b
    if buf = 2 then .error (f o cBUFFER)
    else if o < 0 then .error (f o cBUFFER)
    else if !((w.sys && decide (o.toNat + n ≤ bufSize buf)) || s.me.bufOk w.fr.ctx buf o.toNat n) then .error (f o cBUFFER)
    else if o.toNat % al ≠ 0 then .error (f o cALIGN)
    else .ok (buf, o.toNat)

/-- A checked buffer access (R262). -/
def formBuf (s : State) (w : Window) (a : BuS) (b : Int) (n acc : Nat) : Ex (Nat × Nat) := formBufA s w a b n n acc

/-! ### Successors and bytebars captured at issue (R350) -/

/-- The checks of NXT and BYT, after every other check of an instruction (R350). -/
def captureCheck (s : State) (w : Window) (useByt : Bool) : Ex Unit :=
  let nxt := w.nxt.toNat
  let byt := w.byt.toNat
  if nxt % 64 ≠ 0 then .error ⟨cALIGN, 6, 0, nxt⟩
  else if 2 ^ 48 ≤ nxt then .error ⟨cADDR, 6, 0, nxt⟩
  else if useByt && byt % 2 = 1 then
    if bitsOf byt 3 1 ≠ 0 ∨ byt / 2 ^ 18 ≠ 0 then .error ⟨cBUFFER, 0, 0, 0⟩
    else if s.me.bufOk w.fr.ctx 3 (bitsOf byt 17 4 * 16) 16 then .ok ()
    else .error ⟨cBUFFER, 0, 0, bitsOf byt 17 4 * 16⟩
  else .ok ()

end Sys2Proof.Machine
end

