-- ==== Sys2Proof/Machine/Shapes.lean ====
section
/-! DEFINITION. Shapes.lean: shape records, the order of their tiles and the tiles of a rank (R131 to R133). -/

namespace Sys2Proof.Machine

/-- A shape record (R131). -/
structure Shape where
  esz : Nat
  pmode : Nat
  tile0 : Nat
  tile1 : Nat
  ext0 : Nat
  ext1 : Nat
  ext2 : Nat
  ext3 : Nat
  str1 : Nat
  str2 : Nat
  str3 : Nat
  pblk : Nat
  vcur : Nat
  /-- every reserved field is zero -/
  clean : Bool
  deriving DecidableEq, Repr

def Shape.ofNat (n : Nat) : Shape :=
  { esz := bitsOf n 2 0
    pmode := bitsOf n 9 8
    tile0 := bitsOf n 31 16
    tile1 := bitsOf n 47 32
    ext0 := bitsOf n 95 64
    ext1 := bitsOf n 127 96
    ext2 := bitsOf n 159 128
    ext3 := bitsOf n 191 160
    str1 := bitsOf n 255 192
    str2 := bitsOf n 319 256
    str3 := bitsOf n 383 320
    pblk := bitsOf n 415 384
    vcur := bitsOf n 447 416
    clean := decide (bitsOf n 7 3 = 0) && decide (bitsOf n 15 10 = 0) && decide (bitsOf n 63 48 = 0) }

/-- Element width in bits. -/
def Shape.b (h : Shape) : Nat := 2 ^ (h.esz + 2)

/-- Step 2 of R134 but for its slot-size test: no invalid and no non-zero reserved field. -/
def Shape.valid (h : Shape) : Bool :=
  h.clean && decide (h.esz ≤ 4) && decide (h.pmode ≤ 2) && decide (1 ≤ h.tile0) && decide (1 ≤ h.tile1)
    && decide (1 ≤ h.ext0) && decide (1 ≤ h.ext1) && decide (1 ≤ h.ext2) && decide (1 ≤ h.ext3)
    && (decide (h.esz ≠ 0) || (decide (h.tile0 % 2 = 0) && decide (h.ext0 % 2 = 0)))

def ceilDiv (a b : Nat) : Nat := (a + b - 1) / b

def Shape.n0 (h : Shape) : Nat := ceilDiv h.ext0 h.tile0
def Shape.n1 (h : Shape) : Nat := ceilDiv h.ext1 h.tile1

/-- T (R132). -/
def Shape.tiles (h : Shape) : Nat := h.n0 * h.n1 * h.ext2 * h.ext3

def Shape.rowBytes (h : Shape) : Nat := h.tile0 * h.b / 8
def Shape.tileBytes (h : Shape) : Nat := h.rowBytes * h.tile1

/-- P of R133. -/
def Shape.p (h : Shape) (fansz : Nat) : Nat :=
  if h.pblk ≠ 0 then h.pblk else if h.pmode = 1 then ceilDiv h.tiles fansz else 1

/-- The j-th tile of rank r in a fan of `fansz` (R133). -/
def Shape.rankTile (h : Shape) (r fansz j : Nat) : Option Nat :=
  let i := match h.pmode with
    | 0 => j
    | 1 => r * h.p fansz + j
    | _ => (j / h.p fansz * fansz + r) * h.p fansz + j % h.p fansz
  if i < h.tiles ∧ (h.pmode ≠ 1 ∨ j < h.p fansz) then some i else none

/-- The offset from the base of byte `o` of tile `i`, packed row by row; none outside the extents (R132). -/
def Shape.tileAddr (h : Shape) (i o : Nat) : Option Nat :=
  let t0 := i % h.n0
  let t1 := i / h.n0 % h.n1
  let e2 := i / (h.n0 * h.n1) % h.ext2
  let e3 := i / (h.n0 * h.n1 * h.ext2)
  let c := o % h.rowBytes
  let e0 := t0 * h.tile0 + c * 8 / h.b
  let e1 := t1 * h.tile1 + o / h.rowBytes
  if e0 < h.ext0 ∧ e1 < h.ext1 then some (t0 * h.rowBytes + c + e1 * h.str1 + e2 * h.str2 + e3 * h.str3) else none

/-- The span of R134 step 3: bytes from the base to the last element. -/
def Shape.span (h : Shape) : Nat :=
  ceilDiv (h.ext0 * h.b) 8 + (h.ext1 - 1) * h.str1 + (h.ext2 - 1) * h.str2 + (h.ext3 - 1) * h.str3

end Sys2Proof.Machine
end

