-- ==== Sys2Proof/Machine/Flags.lean ====
section
/-! DEFINITION. Flags.lean: the sticky flags of R190 and where they commit (R225, R466, R467). -/

namespace Sys2Proof.Machine

/-- A set of sticky flags: NV, DZ, OF, UF, NX, SAT, SPC from bit 0 (R190). -/
abbrev Flags := BitVec 7

def fNV : Flags := 0x01
def fDZ : Flags := 0x02
def fOF : Flags := 0x04
def fUF : Flags := 0x08
def fNX : Flags := 0x10
def fSAT : Flags := 0x20
def fSPC : Flags := 0x40

/-- `f` where `b` holds, else none. -/
def fIf (b : Bool) (f : Flags) : Flags := if b then f else 0

/-- The flags of a retiring instruction go into FLG and into CFLG of the frame's context (R225). -/
def State.retire (s : State) (w : Window) (fl : Flags) : State :=
  (s.setTop { w with flg := w.flg ||| fl }).modMe fun k => k.modCx w.fr.ctx fun c => { c with cflg := c.cflg ||| fl }

/-- Flags of a job or an atomic: into CFLG always, and into the FLG of the issuing ticket's admission window if it is
still running (R467). -/
def Core.commit (k : Core) (f : Frame) (fl : Flags) : Core :=
  let k := k.modCx f.ctx fun c => { c with cflg := c.cflg ||| fl }
  match ((k.wins ++ readSpill k.bufS k.spilled).filter fun w => w.adm && w.fr.same f).head? with
  | some w => k.modWin w.wid fun w => { w with flg := w.flg ||| fl }
  | none => k

end Sys2Proof.Machine
end

