-- ==== Sys2Proof/Machine/Journal.lean ====
section
/-! DEFINITION. Journal.lean: the L1 snapshot cache (R98 to R101), the posted-store journal (R103 to R111), range-slot
tags (R277) and the deferred sends (R397) of a core. -/

namespace Sys2Proof.Machine

/-! ### L1 (R98 to R101) -/

/-- Loads of these accesses are cached in L1 (R99). -/
def Acc.cached (a : Acc) (s : State) : Bool :=
  ((a.region = 0 || a.region = 2) && a.dev = s.dev) || a.region = 1

def Core.l1Find (k : Core) (x : Ctx) (region : BitVec 8) (line : Nat) : Option L1Line :=
  k.l1.find? fun l => decide (l.ctx = x) && decide (l.region = region) && decide (l.line = line)

/-- The set of an L1 line (R98). -/
def l1Set (line : Nat) : Nat := line % 64

/-- Fill a line; a full set gives up the victim `pick` chooses (R98). -/
def Core.l1Fill (k : Core) (l : L1Line) (pick : Nat) : Core :=
  let rest := k.l1.filter fun m => !(decide (m.ctx = l.ctx) && decide (m.region = l.region) && decide (m.line = l.line))
  let set := rest.filter fun m => decide (l1Set m.line = l1Set l.line)
  if set.length < 8 then { k with l1 := l :: rest }
  else match set[pick % set.length]? with
    | some v => { k with l1 := l :: rest.filter fun m => decide (m ≠ v) }
    | none => { k with l1 := l :: rest }

/-- Invalidate the L1 lines a test names; requests under way for them will allocate no line (R100, R101). -/
def Core.l1Drop (k : Core) (x : Ctx) (gone : BitVec 8 → Nat → Bool) : Core :=
  { k with
    l1 := k.l1.filter fun l => !(decide (l.ctx = x) && gone l.region l.line)
    pend := k.pend.map fun p =>
      if p.ctx = x then
        { p with
          parts := p.parts.map fun q => if gone p.region (q.off / 128) then { q with inval := true } else q }
      else p }

/-- All lines of a context: an acquire at scope ISSUE or wider (R100). -/
def Core.l1DropAll (k : Core) (x : Ctx) : Core := k.l1Drop x fun _ _ => true

/-- Lines that a range of offsets of a region touches. -/
def lineMeets (region : BitVec 8) (lo hi : Nat) (r : BitVec 8) (line : Nat) : Bool :=
  decide (r = region) && decide (line * 128 < hi) && decide (lo < line * 128 + 128)

/-! ### Range slots (R171, R277) -/

/-- A slot's range overlaps bytes; the device counts except in region 0x01 (R277). -/
def Slot.meets (r : Slot) (x : Ctx) (region : BitVec 8) (dev off n : Nat) : Bool :=
  r.v && decide (r.ctx = x) && decide (r.region = region) && (region = 1 || decide (r.dev = dev))
    && decide (off < r.base + r.len) && decide (r.base < off + n)

/-- The slots under which bytes are tagged (R277). -/
def Core.tagsOf (k : Core) (x : Ctx) (region : BitVec 8) (dev off n : Nat) : BitVec 16 :=
  BitVec.ofNat 16 (packBits (k.slots.toList.map fun r => r.meets x region dev off n))

/-- The slots under which the bytes that are there are tagged (R277). -/
def Core.tagsOfBytes (k : Core) (x : Ctx) (region : BitVec 8) (dev off : Nat) : List (Option Byte) → BitVec 16
  | [] => 0
  | none :: r => Core.tagsOfBytes k x region dev (off + 1) r
  | some _ :: r => k.tagsOf x region dev off 1 ||| Core.tagsOfBytes k x region dev (off + 1) r

/-- Counting would take CNT above 65,535: the operation stalls at issue (R171). -/
def Core.slotsFull (k : Core) (mask : BitVec 16) : Bool :=
  ((List.range 16).any fun i => mask.getLsbD i && decide (65535 ≤ (vget Slot.zero k.slots i).cnt))

/-- From `k` to `l` a slot counts above 65,535 (R171). -/
def Core.overCounts (k l : Core) : Bool :=
  (List.range 16).any fun i =>
    let n := (vget Slot.zero l.slots i).cnt
    decide (65535 < n) && decide ((vget Slot.zero k.slots i).cnt < n)

/-! ### The journal -/

/-- Entries whose bytes are not yet acknowledged or refused. -/
def JEntry.live (e : JEntry) : Bool := decide (e.st ≠ .refused)

/-- Entries that hold and give their bytes to loads: open, closed, draining (R107). -/
def JEntry.ofTicket (e : JEntry) (f : Frame) : Bool := decide (e.ctx = f.ctx) && decide (e.serial = f.serial)

/-- Two block names agree (R103). -/
def JEntry.block (e : JEntry) (x : Ctx) (region : BitVec 8) (dev blk : Nat) : Bool :=
  decide (e.ctx = x) && decide (e.region = region) && decide (e.blk = blk) && (region = 1 || decide (e.dev = dev))

/-- The byte of an entry at place `i` of its block, if its mask covers it. -/
def JEntry.byte (e : JEntry) (i : Nat) : Option Byte :=
  if e.mask.getLsbD i then some (BitVec.ofNat 8 (e.data.toNat / 2 ^ (8 * i))) else none

/-- The youngest of a list of entries. -/
def youngest (es : List JEntry) : Option JEntry :=
  es.foldl (fun b e => match b with
    | some c => if c.stamp < e.stamp then some e else some c
    | none => some e) none

/-- The journal's byte at an offset for an ordinary load (R107). -/
def Core.jrnByte (k : Core) (x : Ctx) (region : BitVec 8) (dev o : Nat) : Option (JEntry × Byte) :=
  match youngest (k.jrn.filter fun e => e.live && e.block x region dev (o / 64) && e.mask.getLsbD (o % 64)) with
  | some e => (e.byte (o % 64)).map fun b => (e, b)
  | none => none

/-- Insert bytes into a block's data and mask from place `i`. -/
def putBytes (data : BitVec 512) (mask : BitVec 64) : Nat → List (Option Byte) → BitVec 512 × BitVec 64
  | _, [] => (data, mask)
  | i, none :: r => putBytes data mask (i + 1) r
  | i, some b :: r =>
    let m : BitVec 512 := BitVec.ofNat 512 (255 * 2 ^ (8 * i))
    putBytes ((data &&& ~~~m) ||| BitVec.ofNat 512 (b.toNat * 2 ^ (8 * i))) (mask ||| BitVec.ofNat 64 (2 ^ i)) (i + 1) r

/-- Indices not in use. -/
def Core.freeIdx (k : Core) : List Nat := (List.range 128).filter fun i => !(k.jrn.any fun e => e.idx = i)

/-- Core cycles to ticks for 256 cycles of the core's class (R11, R105). -/
def openTicks (c : Nat) : Nat := if classOf c = 0 then 128 else if classOf c = 1 then 168 else 256

/-- Close the open entries a test names (R105). -/
def Core.close (k : Core) (p : JEntry → Bool) : Core :=
  { k with jrn := k.jrn.map fun e => if e.st = .opened && p e then { e with st := .closed } else e }

/-- Close every open entry of a ticket: a release covers it (R105). -/
def Core.closeTicket (k : Core) (f : Frame) : Core := k.close fun e => e.ofTicket f

/-- With more than 120 entries in use the oldest open ones close, one for each beyond 120 (R105). -/
def Core.closeExcess : Nat → Core → Core
  | 0, k => k
  | n + 1, k =>
    let op := k.jrn.filter fun e => e.st = .opened
    match op.foldl (fun b e => match b with
        | some c => if e.stamp < c.stamp then some e else some c
        | none => some e) (none : Option JEntry) with
    | some o => Core.closeExcess n (k.close fun e => e.idx = o.idx)
    | none => k

/-- How a store enters: the bytes, closed or not, key tag, release and SC marks. -/
structure StoreForm where
  closed : Bool
  stk : Bool
  tag : Bool
  rel : Bool
  sc : Bool
  deriving DecidableEq, Repr

def StoreForm.plain : StoreForm := ⟨false, false, false, false, false⟩

/-- The blocks of a store: first offset and bytes of each (R103). -/
def splitBlocks (fuel off : Nat) (bs : List (Option Byte)) : List (Nat × List (Option Byte)) :=
  match fuel with
  | 0 => []
  | n + 1 =>
    if bs.isEmpty then []
    else
      let k := 64 - off % 64
      let rest := splitBlocks n (off + k) (bs.drop k)
      if (bs.take k).any Option.isSome then (off, bs.take k) :: rest else rest

/-- The open entry a block of a store merges into (R104). -/
def Core.mergeInto (k : Core) (f : Frame) (a : Acc) (off : Nat) : Option JEntry :=
  k.jrn.find? fun e => e.st = .opened && e.ofTicket f && e.block f.ctx a.region a.dev (off / 64)

/-- Entries a store needs beyond those it merges into. -/
def Core.needs (k : Core) (f : Frame) (a : Acc) (form : StoreForm) (bl : List (Nat × List (Option Byte))) : Nat :=
  if form.closed then bl.length else (bl.filter fun b => (k.mergeInto f a b.1).isNone).length

/-- Put one block of a store into the journal (R103, R104, R277). `pick` chooses the free entry. -/
def Core.enter (k : Core) (f : Frame) (a : Acc) (form : StoreForm) (now pick : Nat) (b : Nat × List (Option Byte)) : Core :=
  let tags := k.tagsOfBytes f.ctx a.region a.dev b.1 b.2
  match (if form.closed then none else k.mergeInto f a b.1) with
  | some e =>
    let dm := putBytes e.data e.mask (b.1 % 64) b.2
    let new := tags &&& ~~~e.slots
    let e' := { e with data := dm.1, mask := dm.2, slots := e.slots ||| tags, last := k.stamp,
                       st := if dm.2 = BitVec.allOnes 64 then .closed else .opened }
    let k := k.count new true
    { k with jrn := k.jrn.map fun x => if x.idx = e.idx then e' else x, stamp := k.stamp + 1 }
  | none =>
    let dm := putBytes 0 0 (b.1 % 64) b.2
    let free := k.freeIdx
    let e : JEntry :=
      { idx := free.getD (pick % free.length) 0
        st := if form.closed || dm.2 = BitVec.allOnes 64 then .closed else .opened
        ctx := f.ctx
        serial := f.serial
        region := a.region
        dev := a.dev
        blk := b.1 / 64
        data := dm.1
        mask := dm.2
        stk := form.stk
        tag := form.tag
        slots := tags
        opened := now
        stamp := k.stamp
        rel := form.rel
        sc := form.sc
        viaKey := a.viaKey
        tries := 0
        fr := f
        last := k.stamp }
    let k := k.count tags true
    { k with jrn := k.jrn ++ [e], stamp := k.stamp + 1 }

/-- A whole store into the journal of the running core, or a stall (R104, R171). -/
def journalStore (s : State) (f : Frame) (a : Acc) (form : StoreForm) (bs : List (Option Byte)) : Option State :=
  let k := s.me
  let bl := splitBlocks 8 a.off bs
  if k.freeIdx.length < k.needs f a form bl then none
  else
    let at' (o : Nat) : Acc := { a with dev := accDev s f.ctx a.region o a.peer }
    let r := bl.foldl (fun acc b => (acc.1.enter f (at' b.1) form s.tick.toNat (Config.freeNat acc.2) b, acc.2 + 1)) (k, s.free)
    if k.overCounts r.1 then none
    else
      let k' := r.1.closeExcess (r.1.jrn.length - 120)
      some { s.setCore s.cur k' with free := r.2 }

/-- Entries of a ticket not yet acknowledged or refused, at or before a stamp (R108). -/
def Core.entriesBefore (k : Core) (f : Frame) (stamp : Nat) : Bool :=
  k.jrn.any fun e => e.live && e.ofTicket f && decide (e.stamp < stamp)

/-- The outstanding access is an atomic, or a store to the core's own buffers, not yet performed. -/
def Pend.atomicOpen (p : Pend) : Bool :=
  (match p.kind with
    | .amo _ _ _ _ => true
    | .cas _ _ _ _ => true
    | .ownStore _ => true
    | _ => false) && p.parts.any fun q => decide (q.st ≠ .done)

def Core.atomicsBefore (k : Core) (f : Frame) (stamp : Nat) : Bool :=
  k.pend.any fun p => p.atomicOpen && p.fr.same f && decide (p.stamp < stamp)

/-- The earlier entries and atomics of a ticket are acknowledged, refused or performed (R264, R397). -/
def Core.settled (k : Core) (f : Frame) (stamp : Nat) : Bool := !k.entriesBefore f stamp && !k.atomicsBefore f stamp

/-! ### Accesses of one frame, or of the constant path, on one line (R102, R388, R390, R391, R395) -/

/-- An access that an engine or a porter of the core makes (R93). -/
def Pend.engine (p : Pend) : Bool :=
  match p.kind with
  | .engRead _ => true
  | .engWrite _ _ => true
  | _ => false

/-- An atomic. -/
def Pend.atomic (p : Pend) : Bool :=
  match p.kind with
  | .amo _ _ _ _ => true
  | .cas _ _ _ _ => true
  | _ => false

/-- A load of the frame: what R390 gives a value. -/
def Pend.loads (p : Pend) : Bool :=
  match p.kind with
  | .load _ _ _ => true
  | .key _ => true
  | .vec _ _ _ => true
  | _ => false

/-- A read that never sees its core's unacknowledged stores: LDC (R102), or a read of an engine (R395). -/
def Pend.constPath (p : Pend) : Bool :=
  match p.kind with
  | .load _ _ _ => p.jrn.isEmpty && !p.sc
  | .engRead _ => true
  | _ => false

/-- A part of the access touches a line that is given. -/
def Pend.onLine (p : Pend) (x : Ctx) (region : BitVec 8) (dev line : Nat) (t : Part) : Bool :=
  decide (p.ctx = x) && decide (p.region = region) && (region = 1 || decide (t.dev = dev))
    && decide (t.off / 128 ≤ line) && decide (line ≤ (t.off + t.n - 1) / 128)

/-- An atomic that the frame issued before an access has not been performed on its line (R388, R390). -/
def Core.behindAtomic (k : Core) (p : Pend) (q : Part) : Bool :=
  k.pend.any fun o => o.atomic && o.fr.same p.fr && decide (o.stamp < p.stamp) && o.parts.any fun t =>
    t.st ≠ .done && o.onLine p.ctx p.region q.dev (q.off / 128) t

/-- A load that the frame issued before an atomic is on its way to the atomic's line, or waits there (R388, R390). -/
def Core.behindLoad (k : Core) (p : Pend) (q : Part) : Bool :=
  k.pend.any fun o => o.loads && o.fr.same p.fr && decide (o.stamp < p.stamp) && o.parts.any fun t =>
    t.st ≠ .done && t.st ≠ .egress && o.onLine p.ctx p.region q.dev (q.off / 128) t

/-- The core has an emitted entry of the context on the lines of `n` bytes (R102, R395). -/
def Core.unackedOn (k : Core) (x : Ctx) (region : BitVec 8) (dev off n : Nat) (st : JEntry → Bool) : Bool :=
  k.jrn.any fun e => st e && decide (e.ctx = x) && decide (e.region = region) && (region = 1 || decide (e.dev = dev))
    && decide (off / 128 ≤ e.blk / 2) && decide (e.blk / 2 ≤ (off + n - 1) / 128)

/-- A closed entry stays behind accesses that have left: of its frame, those before its last store (R388), and those of the
constant path, which shall not see it before it is acknowledged (R102, R391, R395). -/
def Core.entryWaits (k : Core) (e : JEntry) : Bool :=
  k.pend.any fun p => p.parts.any fun q =>
    p.onLine e.ctx e.region e.dev (e.blk / 2) q
      && ((p.fr.same e.fr && decide (p.stamp < e.last) && !p.engine && decide (p.kind ≠ .pref)
            && (q.st = .queued || (q.st = .remote && !p.atomic)))
        || (p.constPath && (q.st = .remote || (q.st = .queued && !k.behindAtomic p q))))

/-- A closed entry may leave: after the earlier entries of its block, of whatever ticket, and after what its release covers
(R105, R264). -/
def Core.mayEmit (k : Core) (e : JEntry) : Bool :=
  decide (e.st = .closed)
  && !(k.jrn.any fun o => decide (o.stamp < e.stamp) && (o.st = .opened || o.st = .closed) && o.block e.ctx e.region e.dev e.blk)
  && (!(e.rel || e.sc) || k.settled e.fr e.stamp)
  && !k.entryWaits e

/-- Remove an entry; its counts fall (R106, R277). -/
def Core.dropEntry (k : Core) (idx : Nat) : Core :=
  match k.jrn.find? fun e => e.idx = idx with
  | some e =>
    let k := k.count e.slots false
    { k with jrn := k.jrn.filter fun x => x.idx != idx }
  | none => k

/-- JST (R111): FIRST is the entry refused first; refused entries stand in `jrn` in order of refusal. -/
def Core.jst (k : Core) (f : Frame) : W64 :=
  let ref := k.jrn.filter fun e => e.st = .refused && decide (e.ctx = f.ctx)
  let first := match ref.head? with
    | some e => e.idx
    | none => 0
  let own := (k.jrn.filter fun e => e.live && e.ofTicket f).length
  BitVec.ofNat 64 (k.jrn.length + ref.length * 2 ^ 8 + first * 2 ^ 16 + own * 2 ^ 24)

/-- RGCn (R171). -/
def Slot.rgc (r : Slot) : W64 := BitVec.ofNat 64 (r.cnt % 65536 + bit r.v * 2 ^ 16 + r.ctx.toNat * 2 ^ 32)

/-! ### The colour cut (R463) -/

/-- The die of a sender: a core, slice n as 1000 + n, the crier or Exchange of die d as 2000 + d. -/
def srcDie (src : Nat) : Nat := if src < 768 then dieOf src else if src < 2000 then (src - 1000) / 48 else src - 2000

/-- Add one to the count of a context. -/
def bump (x : Ctx) (l : List (Ctx × Nat)) : List (Ctx × Nat) := tabPut x (tabGet 0 x l + 1) l

/-- The colour a sender gives a message of X: a core its own, every other agent the old one (R463, log 20). -/
def State.colourOf (s : State) (src : Nat) (x : Ctx) : Bool := src < 768 && ((s.core src).cx x).colour

/-- Count an old-colour message of X as sent, by a core or by the crier of the sender's die (R463, log 20). -/
def State.countSent (s : State) (src : Nat) (x : Ctx) : State :=
  if s.colourOf src x then s
  else if src < 768 then s.modCore src fun k => k.modCx x fun c => { c with sentOld := c.sentOld + 1 }
  else s.modCrier (srcDie src) fun c => { c with sentOld := bump x c.sentOld }

/-- Count an old-colour message of X as received, by a core or by the crier of the receiving die (R463, log 20). -/
def State.countRecv (s : State) (at' : Nat) (x : Ctx) (colour : Bool) : State :=
  if colour then s
  else if at' < 768 then s.modCore at' fun k => k.modCx x fun c => { c with recvOld := c.recvOld + 1 }
  else s.modCrier (srcDie at') fun c => { c with recvOld := bump x c.recvOld }

/-! ### Deferred sends (R264, R397) -/

/-- Queue a send behind the ticket's earlier entries and atomics; at scope TASK it waits for nothing. -/
def State.deferSend (s : State) (f : Frame) (wait : Bool) (what : Send) : State :=
  s.modMe fun k =>
    { k with defer := k.defer ++ [⟨f.serial, f.ctx, k.stamp, wait, what, f, []⟩], stamp := k.stamp + 1 }

end Sys2Proof.Machine
end

