-- ==== Sys2Proof/Machine/Access.lean ====
section
/-! DEFINITION. Access.lean: starting a load or an atomic: what the journal and L1 give at issue, the parts that go to
home slices, windows or peers, and the page-order table of the egress (R65, R66, R87, R98, R107, R208). -/

namespace Sys2Proof.Machine

/-- A memory access of the frame waits for an earlier LDAQ, acquiring atomic or SC form (R263, R272), and for a store to the
core's own buffers that still waits (R264). -/
def Core.held (k : Core) (f : Frame) : Bool :=
  k.pend.any fun p => p.fr.same f && (p.acq || p.sc || (match p.kind with | .stsc => true | .ownStore _ => true | _ => false))

/-- A store to the core's own buffers that the frame issued still waits: what reads the buffers comes after it (R264, R394). -/
def Core.ownWaits (k : Core) (f : Frame) : Bool :=
  k.pend.any fun p => p.fr.same f && (match p.kind with | .ownStore _ => true | _ => false)

/-- A body that may read the core's own buffers (R394). -/
def afterOwn (s : State) (w : Window) (r : Res) : Res := if s.me.ownWaits w.fr then .wait .acquire false else r

/-- Step 1 of R272: every earlier access of the frame has returned and every entry of the ticket is done. -/
def Core.scReady (k : Core) (f : Frame) : Bool :=
  !(k.pend.any fun p => p.fr.same f && !p.engine && decide (p.kind ≠ .pref))
    && !(k.jrn.any fun e => e.live && e.ofTicket f)

/-- An SC form through a key naming another device, or to region 0x03, raises ADDR (R272). -/
def scCheck (s : State) (a : Acc) (acc : Nat) : Ex Unit :=
  if (a.region ≠ 1 ∧ a.dev ≠ s.dev) ∨ a.region = 3 then .error ⟨cADDR, acc, a.region.toNat, a.off⟩ else .ok ()

/-! ### The egress (R65, R66) -/

/-- Whether an owner-cache entry of an address is a 2 MiB page (R65's SZ; 64 KiB on a miss). -/
def State.pageBig (s : State) (x : Ctx) (off : Nat) : Bool :=
  match s.ownerEntry x off with
  | some o => o.big
  | none => false

/-- Two pages of the given sizes share a byte. -/
def pagesMeet (b1 : Bool) (p1 : Nat) (b2 : Bool) (p2 : Nat) : Bool :=
  if b1 || b2 then decide (p1 / 32 = p2 / 32) else decide (p1 = p2)

/-- Count an access toward an owner in, where the page-order table lets it leave: no access of the page is outstanding toward
another owner, and an entry of the table is there (R65, R66). -/
def State.egressRaw (s : State) (x : Ctx) (off dev : Nat) : Option State :=
  let big := s.pageBig x off
  let page := pageOf big off
  if s.pageOrder.any fun o => decide (o.ctx = x) && pagesMeet o.big o.page big page && decide (o.dev ≠ dev) then none
  else match s.pageOrder.find? fun o => decide (o.ctx = x) && decide (o.page = page) && o.big = big with
    | some o => some { s with pageOrder := s.pageOrder.map fun p => if p = o then { o with count := o.count + 1 } else p }
    | none =>
      if s.pageOrder.length < 256 then some { s with pageOrder := s.pageOrder ++ [⟨x, page, big, dev, 1⟩] } else none

/-- An access of the page met REDIRECT-ONLY or MISROUTE and waits for its re-issue: others follow after it (R67, R69). -/
def State.redirectWaits (s : State) (x : Ctx) (off : Nat) : Bool :=
  let same (o : Nat) : Bool := decide (pageOf (s.pageBig x off) o = pageOf (s.pageBig x off) off)
  s.cores.any fun c =>
    (c.2.pend.any fun p => decide (p.ctx = x) && decide (p.region = 1) && p.parts.any fun q =>
        (q.st = .redirected || q.st = .misrouted) && same q.off)
      || c.2.jrn.any fun e => decide (e.ctx = x) && decide (e.region = 1) && (e.st = .redirected || e.st = .misrouted)
        && same (e.blk * 64)

/-! ### Ordered streams (R85, R87, R88) -/

/-- A stream of one core and context: region, destination device and 64 KiB range; in region 0x01 the page (R66, R87). -/
structure Stream87 where
  region : BitVec 8
  dev : Nat
  page : Nat
  deriving DecidableEq, Repr

def State.stream87 (s : State) (x : Ctx) (region : BitVec 8) (dev off : Nat) : Stream87 :=
  if region = 1 then ⟨1, 0, pageOf (s.pageBig x off) off⟩ else ⟨region, dev, off / 2 ^ 16⟩

/-- An earlier request of the stream has not left: an entry that a test names, or a part at the egress (R66, R87). -/
def State.ahead (s : State) (core : Nat) (x : Ctx) (region : BitVec 8) (dev off stamp : Nat) (held : JEntry → Bool) : Bool :=
  let t := s.stream87 x region dev off
  let k := s.core core
  (k.jrn.any fun e => decide (e.stamp < stamp) && decide (e.ctx = x) && held e
      && decide (s.stream87 x e.region e.dev (e.blk * 64) = t))
    || (k.pend.any fun p => decide (p.stamp < stamp) && decide (p.ctx = x) && !p.engine
      && p.parts.any fun q => q.st = .egress && decide (s.stream87 x p.region q.dev q.off = t))

/-- A closed entry may leave: oldest first of its ticket in its stream, in region 0x01 over its page (R66, R87, R105). -/
def State.mayEmit (s : State) (core : Nat) (e : JEntry) : Bool :=
  (s.core core).mayEmit e
    && !s.ahead core e.ctx e.region e.dev (e.blk * 64) e.stamp fun o => (o.st = .opened || o.st = .closed) && o.ofTicket e.fr

/-- The first port of a device's minimal path (R81). -/
def State.mport (s : State) (d : Nat) : Nat := bitsOf (tabGet 0 d s.routes).toNat 6 1

/-- An entry's request is on its way to another device, or its answer back. -/
def JEntry.remoteOut (e : JEntry) (dev : Nat) : Bool :=
  decide (e.dev ≠ dev) && (e.st = .draining)

/-- The ports that the stream's outstanding ordered requests took (R88). -/
def State.streamPorts (s : State) (core : Nat) (x : Ctx) (region : BitVec 8) (dev off : Nat) : List Nat :=
  let t := s.stream87 x region dev off
  let k := s.core core
  ((k.jrn.filter fun e => decide (e.ctx = x) && e.remoteOut s.dev && decide (e.dev = dev)
      && decide (s.stream87 x e.region e.dev (e.blk * 64) = t)).filterMap JEntry.port)
    ++ (k.pend.filter fun p => decide (p.ctx = x)).flatMap fun p =>
      (p.parts.filter fun q => q.st = .remote && decide (q.dev = dev) && decide (s.stream87 x p.region q.dev q.off = t)).filterMap
        Part.port

/-- A change of the minimal path takes effect for a stream once none of its requests is outstanding (R88). -/
def State.pathFree (s : State) (core : Nat) (x : Ctx) (region : BitVec 8) (dev off : Nat) : Bool :=
  (s.streamPorts core x region dev off).all fun p => decide (p = s.mport dev)

/-- A store or atomic of the stream is outstanding at another device (R85). -/
def State.streamBusy (s : State) (core : Nat) (x : Ctx) (region : BitVec 8) (dev off : Nat) : Bool :=
  let t := s.stream87 x region dev off
  let k := s.core core
  (k.jrn.any fun e => decide (e.ctx = x) && e.remoteOut s.dev && decide (s.stream87 x e.region e.dev (e.blk * 64) = t))
    || k.pend.any fun p => decide (p.ctx = x) && p.atomic && p.parts.any fun q =>
      q.st = .remote && decide (s.stream87 x p.region q.dev q.off = t)

/-- A part's request is of the ordered class (R85, R89). DESIGN CHOICE (log 33): a packet that writes a window of a peer is ordered, as
R89 has window writes; R85 has copy packets adaptive. -/
def State.partOrdered (s : State) (core : Nat) (p : Pend) (q : Part) : Bool :=
  decide (p.region = 1) || decide (p.region = 3) || p.atomic
    || (decide (p.region = 0xFE) && p.engine && (match p.kind with | .engWrite _ _ => true | _ => false))
    || (!p.engine && s.streamBusy core p.ctx p.region q.dev q.off)

/-- The bytes of a part of an engine's write. -/
def engBytes (p : Pend) (q : Part) : List (Option Byte) :=
  match p.kind with
  | .engWrite _ bs => (bs.drop (q.off - p.off)).take q.n
  | _ => []

/-- The request a part sends to another device (R60). -/
def partReq (s : State) (core : Nat) (p : Pend) (i : Nat) (q : Part) : PeerReq :=
  { dev := s.dev, core := core, id := (p.id * 2 ^ 16 + i) * 2, ctx := p.ctx, region := p.region, sc := p.sc, seq := p.seq
    port := if s.partOrdered core p q then some (s.mport q.dev) else none, colour := ((s.core core).cx p.ctx).colour
    off := q.off, n := q.n
    kind := match p.kind with
      | .amo opc ty _ x => .amo opc ty x
      | .cas ty _ e n => .cas ty e n
      | .engWrite _ _ => .store (engBytes p q) false
      | _ => .load
    fc := 0
    eng := p.engine
    ac := p.atomic && p.acq
    sys := p.fr.sys
    pref := decide (p.kind = .pref)
    ord := s.partOrdered core p q
    path := [] }

/-- An atomic may leave for its slice: the entries of its ticket in its block have left ahead of it, and what its release
covers is done (R113, R115). -/
def Core.atomicGo (k : Core) (p : Pend) (q : Part) : Bool :=
  !(k.jrn.any fun e => (e.st = .opened || e.st = .closed || e.st = .misrouted || e.st = .redirected) && e.ofTicket p.fr
      && decide (e.stamp < p.stamp) && e.block p.ctx p.region q.dev (p.off / 64))
    && (!p.rel || k.settled p.fr p.stamp)

/-- A part may leave the egress in its stream's order (R66, R87). An atomic waits for closed entries only (R113), a load for every
earlier entry; an engine's accesses stand in no frame's program order. -/
def State.partGo (s : State) (core : Nat) (p : Pend) (q : Part) : Bool :=
  let held (e : JEntry) : Bool := e.st = .closed || (!p.atomic && e.st = .opened)
  (!p.atomic || ((s.core core).atomicGo p q && !(s.core core).behindLoad p q))
    && !(p.constPath && (s.core core).unackedOn p.ctx p.region q.dev q.off q.n JEntry.emitted)
    && (p.engine || !s.ahead core p.ctx p.region q.dev q.off p.stamp held)
    && !(decide (p.region = 1) && s.redirectWaits p.ctx q.off)

/-- Send part `i` of an access to its device, or leave it waiting at the egress (R66, R87, R88); `again` re-issues it (R67).
A part to this device then waits at its home slice. -/
def State.sendPart (s : State) (core : Nat) (p : Pend) (i : Nat) (again : Bool) : State :=
  match p.parts[i]? with
  | none => s
  | some q =>
    let put (s : State) (st : PartSt) (port : Option Nat) (big : Bool) : State := s.modCore core fun k =>
      { k with pend := k.pend.map fun r =>
          if r.id = p.id then { r with parts := r.parts.set i { q with st := st, port := port, big := big } } else r }
    let port := if s.partOrdered core p q then some (s.mport q.dev) else none
    let wait : State := if again then s else put s .egress none false
    let go (s1 : State) (big : Bool) : State :=
      if q.dev = s.dev then put s1 .queued none big
      else
        let s1 := if p.region = 0xFE then s1.countSent core p.ctx else s1
        put { s1 with out := s1.out ++ [.request q.dev (partReq s core p i q)] } .remote port big
    let path := q.dev = s.dev || !s.partOrdered core p q || s.pathFree core p.ctx p.region q.dev q.off
    if !(again || s.partGo core p q) || !path then wait
    else if p.region = 1 then
      match s.egressRaw p.ctx q.off q.dev with
      | some s1 => go s1 (s.pageBig p.ctx q.off)
      | none => wait
    else go s false

/-- The parts that leave for a slice of region 0x01 or for another device. -/
def State.sendParts (s : State) (core : Nat) (p : Pend) : State :=
  (List.range p.parts.length).foldl (fun s i =>
    match (s.core core).pend.find? fun r => r.id = p.id with
    | some r => match r.parts[i]? with
      | some q => if q.st = .egress then s.sendPart core r i false else s
      | none => s
    | none => s) s

/-! ### Starting an access -/

/-- The pieces of `n` bytes from `off` that lie in one 128-byte line each (R258). -/
def splitLines (fuel off n : Nat) : List (Nat × Nat) :=
  match fuel with
  | 0 => []
  | f + 1 =>
    if n = 0 then []
    else
      let k := Nat.min n (128 - off % 128)
      (off, k) :: splitLines f (off + k) (n - k)

/-- How a load reads. -/
structure LoadForm where
  useJrn : Bool
  useL1 : Bool
  alloc : Bool
  acq : Bool
  wide : Bool
  sc : Bool
  deriving DecidableEq, Repr

def LoadForm.plain (nt : Bool) : LoadForm := ⟨true, true, !nt, false, false, false⟩

/-- The tag of a 16-byte unit of the S buffer (R44). -/
def Core.stag (k : Core) (buf o : Nat) : Bool := decide (buf = 3) && k.stags.contains (o / 16)

/-- What a load of region 0xFF reads: the bytes stored there, and a free value where none is (R23, log 15). -/
def State.sysBytes (s : State) (off n : Nat) : List Byte :=
  (List.range n).map fun i =>
    match s.sysMem.find? fun c => decide (c.1 = off + i) with
    | some c => c.2
    | none => Config.freeByte s.free i

/-- One part of a load: from L1 or the core's own buffers at once, or asked for elsewhere. -/
def loadPart (s : State) (f : Frame) (a : Acc) (form : LoadForm) (pc : Nat × Nat) : Part :=
  let dev := accDev s f.ctx a.region pc.1 a.peer
  let own := dev = s.dev
  let rest (st : PartSt) (data : List Byte) (base : Nat) (tag : Bool) : Part :=
    { off := pc.1, n := pc.2, base := base, dev := dev, st := st, tries := 0, data := data, ktag := tag, inval := false }
  if a.region = 0xFE then
    if own && winCore pc.1 = s.cur && !form.sc then
      rest .done (memRead (s.me.buf (winBuf pc.1)) (winOff pc.1) pc.2) pc.1 (s.me.stag (winBuf pc.1) (winOff pc.1))
    else rest (if own then .queued else .egress) [] pc.1 false
  else if a.region = 0xFF then
    rest .done (s.sysBytes pc.1 pc.2) pc.1 false
  else
    let line := pc.1 / 128 * 128
    match (if form.useL1 && a.cached s then s.me.l1Find f.ctx a.region (line / 128) else none) with
    | some l => { rest .done l.data line false with inval := true }
    | none => rest (if own && a.region ≠ 1 then .queued else .egress) [] (if a.region = 3 then pc.1 else line) false

/-- Make an access of the running frame outstanding. `map` gives the offset of each byte of a gathered result. A line asked for
while an atomic is outstanding on it may come without the atomic's write, and is not allocated (R100, R101, R390). -/
def startGather (s : State) (w : Window) (kind : PendKind) (a : Acc) (form : LoadForm) (rel : Bool) (slots : BitVec 16)
    (map : List (Option Nat)) (pieces : List (Nat × Nat)) : State :=
  let f := w.fr
  let dev (o : Nat) : Nat := if a.region = 0xFE then winDev o else a.dev
  let place (i : Nat) : Option Nat := if map.isEmpty then some (a.off + i) else map.getD i none
  let js : List (Option (JEntry × Byte)) :=
    if form.useJrn then (List.range a.n).map fun i => (place i).bind fun o => s.me.jrnByte f.ctx a.region (dev o) o else []
  let covered (pc : Nat × Nat) : Bool :=
    form.useJrn && ((List.range pc.2).all fun i => (s.me.jrnByte f.ctx a.region (dev (pc.1 + i)) (pc.1 + i)).isSome)
  let idxs := js.filterMap fun x => x.map fun y => y.1.idx
  let jtag : Option Bool :=
    if idxs.isEmpty then none
    else some (decide (idxs.length = a.n) && (match js.head? with
      | some (some (e, _)) => e.stk && e.tag && idxs.all fun i => i = e.idx
      | _ => false))
  let busy (q : Part) : Bool := s.me.pend.any fun o => o.atomic && o.parts.any fun t =>
    t.st ≠ .done && o.onLine f.ctx a.region q.dev (q.off / 128) t
  let parts := ((pieces.filter fun pc => !covered pc).map (loadPart s f a form)).map fun q =>
    if busy q then { q with inval := true } else q
  let p : Pend :=
    { id := s.nextId
      wid := w.wid
      kind := kind
      ctx := f.ctx
      fr := f
      stamp := s.me.stamp
      region := a.region
      off := a.off
      n := a.n
      viaKey := a.viaKey
      cached := form.useL1 && a.cached s
      alloc := form.alloc
      acq := form.acq
      rel := rel
      sc := form.sc
      scDone := false
      wide := form.wide
      dead := false
      deadLanes := 0
      jrn := js.map fun x => x.map fun y => y.2
      jtag := jtag
      slots := slots
      seq := s.me.scSeq
      map := map
      parts := parts }
  let s := if a.region = 0xFF then s.useFree else s
  let s := { s.modMe fun k => { k with pend := k.pend ++ [p], stamp := k.stamp + 1 } with nextId := s.nextId + 1 }
  let s := if a.region = 1 then p.parts.foldl (fun s q => s.touchOwner f.ctx q.off) s else s
  let s := if a.region = 0xFE && parts.any fun q => q.st = .queued && decide (winCore q.off ≠ s.cur) then s.countSent s.cur f.ctx else s
  s.sendParts s.cur p

/-- Make an access of consecutive bytes outstanding. -/
def startAccess (s : State) (w : Window) (kind : PendKind) (a : Acc) (form : LoadForm) (rel : Bool) (slots : BitVec 16)
    (pieces : List (Nat × Nat)) : State := startGather s w kind a form rel slots [] pieces

/-- Start a load: one part for each line it touches (R258), or one for a window access. -/
def startLoad (s : State) (w : Window) (kind : PendKind) (a : Acc) (form : LoadForm) : State :=
  startAccess s w kind a form false 0 (if a.region.toNat ≤ 3 then splitLines 8 a.off a.n else [(a.off, a.n)])

/-- A word of the memory chapter: its address is formed and checked, then it waits for earlier acquires (R257, R263). -/
def memIssue (h : Hdr) (dst : List Dst) (s : State) (addr : State → Window → Ex Acc)
    (body : State → Window → Acc → Res) : Host.Outcome State Fault Refusal :=
  issue h false dst s fun s w =>
    Res.check (addr s w) fun a => if s.me.held w.fr then .wait .acquire false else body s w a

end Sys2Proof.Machine
end

