-- ==== Sys2Proof/Machine/Fetch.lean ====
section
/-! DEFINITION. Fetch.lean: what memory holds at an address as its home slice sees it, the firmware's services (R495), the event
that ends each kind of wait, and the placing of a word for the host's questions. -/

namespace Sys2Proof.Machine

/-- The L2 line of an address at a slice. -/
def Slice.findLine (l : Slice) (x : Ctx) (line : Nat) : Option L2Line :=
  l.lines.find? fun n => decide (n.ctx = x) && decide (n.line = line)

/-- One byte of a translated address as its home slice holds it: from its L2 line, else from memory (R93, R94). -/
def State.byteAt (s : State) (x : Ctx) (region : BitVec 8) (off e : Nat) : Byte :=
  match (s.slice (s.home x region off)).findLine x (vaOf region off / 128) with
  | some n => n.data.getD (off % 128) 0
  | none => memGet s.mem (ptePa e off)

/-- The entry that translates an address now: TLB first, then the table (R33, R34). -/
def State.entryFor (s : State) (x : Ctx) (region : BitVec 8) (off : Nat) : Option Nat :=
  match tlbFind (s.slice (s.home x region off)).tlb x region off with
  | some t => some t.pte.toNat
  | none => walkTable s.mem (s.trans x) region off

/-- The result of service `n` and its effect (R495): VERSION, NOTE and QSTAT; any other number returns all ones. -/
def service (s : State) (w : Window) (n : Nat) : W64 × State :=
  let q := (w.rdS 1).toNat
  let bound := decide (q < 16) && decide (q ≠ 0) && decide ((s.queue q).st ≠ .absent) && (s.queue q).ctx = w.fr.ctx
  match n with
  | 0 => (BitVec.ofNat 64 (s.flash.major % 2 ^ 32 * 2 ^ 32 + s.flash.minor % 2 ^ 32), s)
  | 1 =>
    if bound then
      (0, s.postEvent q { Event.mk0 8 0 0 with narg := [w.rdS 2, w.rdS 3, w.rdS 4] })
    else (BitVec.allOnes 64, s)
  | 2 => if bound then (BitVec.ofNat 64 (s.queue q).lacc, s) else (BitVec.allOnes 64, s)
  | _ => (BitVec.allOnes 64, s)

/-- The firmware's code of a service runs: its effect is made and its result stands in s0; ERET comes next (R380, R495, log 13). -/
def State.runService (s : State) (w : Window) (n : Nat) : State :=
  let r := service s w n
  r.2.setTop { w.wrS 0 r.1 with park := some .serviceEnd }

/-- The ERET that ends the firmware's code of a service. -/
def eretWord : Instr := .eret ⟨false, 0, false, 0, false, false, false⟩

/-- The event that ends a wait, if a parked frame's turn can end it. -/
def wakeEvent (c : Nat) (p : Park) : Option Instr :=
  match p with
  | .marker => some (.swMarkerResume c)
  | .stall => some (.issueStallRelease c)
  | .acquire => some (.issueStallRelease c)
  | .fetch => none
  | .fence _ _ _ => some (.fenceDone c)
  | .phase _ => some (.phaseDone c)
  | .fenr _ _ _ => some (.fenrDone c)
  | .endWait => some (.endDrainDone c)
  | .spawn _ _ _ => some (.spawnReadDone c)
  | .mstat _ _ => some (.mstatDone c)
  | .mcancel => some (.mcancelDone c)
  | .crinit _ _ _ _ => none
  | .brk _ => none
  | .ctxsave _ _ _ => some (.ctxsaveDone c)
  | .ctxload _ _ => some (.ctxloadDone c)
  | .frozen => none
  | .service _ => none
  | .serviceEnd => some eretWord

/-- A context is frozen on the device (R462). -/
def State.frozen (s : State) (x : Ctx) : Bool :=
  match s.ctxRec x with
  | some r => r.st = .frozen || r.st = .evicted
  | none => false

/-! ### Placing a word for the host's questions -/

/-- A frame that may run any word: a SYS ticket of context 0 at priority 7. -/
def probeFrame : Frame :=
  { ctx := 0, tkt := 0, pri := 7, lvl := 7, serial := 0, rank := 0, fansz := 1, sys := true, inst := 0, xdie := 0,
    origin := none, kind := .plain, args := [] }

/-- A window as an admission would push it (R163), with 16 vector registers. -/
def probeWindow : Window :=
  { wid := 0, s := Vector.replicate 16 0, p := 0, m := Vector.replicate 8 0, k := Vector.replicate 8 Key.zero,
    v := List.replicate 16 0, drg := 0, nxt := 0, byt := 0, hnde := 0, flg := 0, pthr := 0, rpc := 0, callw := false,
    svc := false, adm := true, pc := 0x1000, park := none, fresh := false, fr := probeFrame }

/-- Context 0 with its table at physical 64 MiB, PTN 14 (R30). -/
def probeCtx : CtxRec :=
  { trans := BitVec.ofNat 576 (0x4000000 + 14 * 2 ^ 48), vec := 0, st := .live, dropl := 0, nextSerial := 1,
    debugger := false }

/-- The entry of region 0x02 page 0: V, RD, EX, physical 0x800_0000 (R32). -/
def probePte : Nat := 1 + 2 ^ 3 + 2 ^ 6 + 0x800 * 2 ^ 31 + vpnOf 0 2 0 / 2 ^ 14 * 2 ^ 11

/-- The home slices of offsets of region 0x02 have nothing before a fetch, and hold their page's entry. -/
def State.readySlices (s : State) (x : Ctx) (offs : List Nat) (e : Nat) : State :=
  offs.foldl (fun s o => s.modSlice (s.home x 2 o) fun l =>
    { l with tlb := tlbFill l.tlb (tlbOf x 2 o e), input := [], done := [], walks := [], faults := [] }) s

/-- The bytes of an instruction whose bits are `w`, stored at the PC of the core that moves next. Its home slice's TLB
holds the page's entry; where no frame can run there, the frame, the context and the mapping that a loader would make are
set as well (log 6). -/
def State.placeWord (s : State) (w : Nat) : State :=
  let bs := natBytes 12 (w % 2 ^ 96)
  let s := { s with agenda := [] }.modMe fun k => { k with barrow := [], waiting := [], traps := [] }
  let usable : Option (Window × Nat) :=
    match s.top with
    | some win =>
      if win.park = none && !s.frozen win.fr.ctx && s.holds? win.fr.ctx && win.pc.toNat % 4 = 0
          && win.pc.toNat + 12 ≤ 2 ^ 48 && win.pc.toNat % 65536 + 12 ≤ 65536 then
        match s.entryFor win.fr.ctx 2 win.pc.toNat with
        | some e => if permits e .fetch false false && paExists (ptePa e win.pc.toNat) then some (win, e) else none
        | none => none
      else none
    | none => none
  match usable with
  | some (win, e) =>
    let x := win.fr.ctx
    let pc := win.pc.toNat
    let s := { s with
      mem := memWrite s.mem (ptePa e pc) bs
      slices := s.slices.map fun (p : Nat × Slice) => (p.1, { p.2 with lines := p.2.lines.filter fun n =>
        !(decide (n.ctx = x) && (decide (n.line = vaOf 2 pc / 128) || decide (n.line = vaOf 2 (pc + 11) / 128))) }) }
    s.readySlices x [pc, pc + 11] e
  | none =>
    let bucket := bucketAddr (probeCtx.trans.toNat) 0 (vpnOf 0 2 0)
    let s := (s.modMe fun k => { k with wins := [probeWindow], spilled := [], thr := 7, pend := [] }).setCtx 0 probeCtx
    let s := { s with
      slices := s.slices.map fun (p : Nat × Slice) => (p.1, { p.2 with
        lines := p.2.lines.filter fun n => n.ctx != 0
        tlb := p.2.tlb.filter fun n => n.ctx != 0 })
      mem := memWrite (memWrite s.mem bucket (natBytes 8 probePte)) 0x8001000 bs }
    s.readySlices 0 [0x1000] probePte

end Sys2Proof.Machine
end

