-- ==== Sys2Proof/Machine/Float.lean ====
section
/-! DEFINITION. Float.lean: the element formats and their exact arithmetic (R177 to R189, R239 to R243). A finite value
is a sign, a magnitude and a power of two; rounding happens once, at the end. -/

namespace Sys2Proof.Machine

/-- A floating value: NaN (signalling or quiet), infinity, or (-1)^neg × m × 2^e. -/
inductive FV where
  | nan (sig : Bool)
  | inf (neg : Bool)
  | num (neg : Bool) (m : Nat) (e : Int)
  deriving DecidableEq, Repr

/-- An IEEE-style format: widths of its exponent and fraction fields (R180). -/
structure Fmt where
  eb : Nat
  fb : Nat
  deriving DecidableEq, Repr

def fmtBF16 : Fmt := ⟨8, 7⟩
def fmtF16 : Fmt := ⟨5, 10⟩
def fmtF32 : Fmt := ⟨8, 23⟩
def fmtF64 : Fmt := ⟨11, 52⟩

def Fmt.bias (f : Fmt) : Nat := 2 ^ (f.eb - 1) - 1

def Fmt.width (f : Fmt) : Nat := 1 + f.eb + f.fb

/-- Exponent of the smallest normal number. -/
def Fmt.emin (f : Fmt) : Int := 1 - (f.bias : Int)

/-- Exponent of the largest finite number. -/
def Fmt.emax (f : Fmt) : Int := f.bias

def Fmt.signBit (f : Fmt) (neg : Bool) : Nat := bit neg * 2 ^ (f.eb + f.fb)

/-- The canonical NaN (R180). -/
def Fmt.nan (f : Fmt) : Nat := (2 ^ f.eb - 1) * 2 ^ f.fb + 2 ^ (f.fb - 1)

def Fmt.inf (f : Fmt) (neg : Bool) : Nat := f.signBit neg + (2 ^ f.eb - 1) * 2 ^ f.fb

def Fmt.maxFinite (f : Fmt) (neg : Bool) : Nat := f.inf neg - 1

/-- The value of an encoding (R180, R181). -/
def Fmt.decode (f : Fmt) (x : Nat) : FV :=
  let neg := decide (x / 2 ^ (f.eb + f.fb) % 2 = 1)
  let ex := x / 2 ^ f.fb % 2 ^ f.eb
  let fr := x % 2 ^ f.fb
  if ex = 2 ^ f.eb - 1 then
    if fr = 0 then .inf neg else .nan (decide (fr < 2 ^ (f.fb - 1)))
  else if ex = 0 then .num neg fr (f.emin - f.fb)
  else .num neg (2 ^ f.fb + fr) ((ex : Int) - f.bias - f.fb)

/-- Whether a rounding goes up in magnitude: remainder `r` of `2^k`, a sticky part below it, last kept bit `odd`. -/
def roundsUp (rm : Rm) (neg odd : Bool) (r k : Nat) (sticky : Bool) : Bool :=
  match rm with
  | .rne => decide (2 ^ k < 2 * r) || (decide (2 * r = 2 ^ k) && (sticky || odd))
  | .rtz => false
  | .rdn => neg && (decide (r ≠ 0) || sticky)
  | .rup => !neg && (decide (r ≠ 0) || sticky)

/-- Round (-1)^neg × (m + sticky part) × 2^e, m ≠ 0, into a format (R182, R239). -/
def Fmt.round (f : Fmt) (rm : Rm) (neg : Bool) (m : Nat) (e : Int) (sticky : Bool) : Nat × Flags :=
  let top : Int := (Nat.log2 m : Int) + e
  let ex : Int := if top < f.emin then f.emin else top
  let sh : Int := ex - f.fb - e
  let k := sh.toNat
  let kept := if sh ≤ 0 then m * 2 ^ (-sh).toNat else m / 2 ^ k
  let r := if sh ≤ 0 then 0 else m % 2 ^ k
  let inexact := decide (r ≠ 0) || sticky
  let up := roundsUp rm neg (decide (kept % 2 = 1)) r k sticky
  let v := if up then kept + 1 else kept
  let carry := decide (v = 2 ^ (f.fb + 1))
  let ex := if carry then ex + 1 else ex
  let v := if carry then 2 ^ f.fb else v
  if f.emax < ex then
    let toInf := match rm with
      | .rne => true
      | .rtz => false
      | .rdn => neg
      | .rup => !neg
    (if toInf then f.inf neg else f.maxFinite neg, fOF ||| fNX)
  else if v < 2 ^ f.fb then (f.signBit neg + v, fIf inexact (fUF ||| fNX))
  else (f.signBit neg + (ex + f.bias).toNat * 2 ^ f.fb + (v - 2 ^ f.fb), fIf inexact fNX)

/-- Round a value into a format; an exact zero keeps the sign it is given, a NaN becomes the canonical one. -/
def Fmt.ofFV (f : Fmt) (rm : Rm) : FV → Nat × Flags
  | .nan sig => (f.nan, fIf sig fNV)
  | .inf neg => (f.inf neg, 0)
  | .num neg m e => if m = 0 then (f.signBit neg, 0) else f.round rm neg m e false

def FV.isNan : FV → Bool
  | .nan _ => true
  | _ => false

def FV.isSig : FV → Bool
  | .nan b => b
  | _ => false

def FV.isInf : FV → Bool
  | .inf _ => true
  | _ => false

def FV.isZero : FV → Bool
  | .num _ m _ => decide (m = 0)
  | _ => false

def FV.neg : FV → FV
  | .nan b => .nan b
  | .inf n => .inf !n
  | .num n m e => .num (!n) m e

/-- NV of operands of which one is a signalling NaN (R181). -/
def nvOf (xs : List FV) : Flags := fIf (xs.any FV.isSig) fNV

/-- A signed integer scaled by 2^e as a value; zero is `z`. -/
def fvOfInt (x : Int) (e : Int) (z : Bool) : FV := if x = 0 then .num z 0 0 else .num (decide (x < 0)) x.natAbs e

/-- The signed magnitude of a finite value at a scale not above its own. -/
def scaled (neg : Bool) (m : Nat) (e lo : Int) : Int :=
  let v : Int := (m * 2 ^ (e - lo).toNat : Nat)
  if neg then -v else v

/-- The exact sum, and NV (R239). `rdn`: an exact zero of opposite signs is -0. -/
def FV.add (rdn : Bool) (a b : FV) : FV × Flags :=
  match a, b with
  | .nan _, _ => (.nan false, nvOf [a, b])
  | _, .nan _ => (.nan false, nvOf [a, b])
  | .inf x, .inf y => if x = y then (.inf x, 0) else (.nan false, fNV)
  | .inf x, _ => (.inf x, 0)
  | _, .inf y => (.inf y, 0)
  | .num x m e, .num y n f =>
    let lo := if e < f then e else f
    (fvOfInt (scaled x m e lo + scaled y n f lo) lo (if m = 0 ∧ n = 0 ∧ x = y then x else rdn), 0)

/-- The exact product, and NV (R239). -/
def FV.mul (a b : FV) : FV × Flags :=
  match a, b with
  | .nan _, _ => (.nan false, nvOf [a, b])
  | _, .nan _ => (.nan false, nvOf [a, b])
  | .inf x, .inf y => (.inf (x != y), 0)
  | .inf x, .num y n _ => if n = 0 then (.nan false, fNV) else (.inf (x != y), 0)
  | .num x m _, .inf y => if m = 0 then (.nan false, fNV) else (.inf (x != y), 0)
  | .num x m e, .num y n f => (.num (x != y) (m * n) (e + f), 0)

/-- Sum rounded into a format. -/
def Fmt.add (f : Fmt) (rm : Rm) (a b : Nat) : Nat × Flags :=
  let r := FV.add (rm == .rdn) (f.decode a) (f.decode b)
  let q := f.ofFV rm r.1
  (q.1, r.2 ||| q.2)

def Fmt.sub (f : Fmt) (rm : Rm) (a b : Nat) : Nat × Flags :=
  let r := FV.add (rm == .rdn) (f.decode a) (f.decode b).neg
  let q := f.ofFV rm r.1
  (q.1, r.2 ||| q.2)

def Fmt.mul (f : Fmt) (rm : Rm) (a b : Nat) : Nat × Flags :=
  let r := FV.mul (f.decode a) (f.decode b)
  let q := f.ofFV rm r.1
  (q.1, r.2 ||| q.2)

/-- a × b + c with one rounding; 0 × Inf is invalid whatever c holds (R239). -/
def Fmt.fma (f : Fmt) (rm : Rm) (a b c : Nat) : Nat × Flags :=
  let p := FV.mul (f.decode a) (f.decode b)
  let r := FV.add (rm == .rdn) p.1 (f.decode c)
  let q := f.ofFV rm r.1
  (q.1, p.2 ||| r.2 ||| q.2)

/-- Quotient rounded into a format (R239). -/
def Fmt.div (f : Fmt) (rm : Rm) (a b : Nat) : Nat × Flags :=
  let x := f.decode a
  let y := f.decode b
  match x, y with
  | .nan _, _ => (f.nan, nvOf [x, y])
  | _, .nan _ => (f.nan, nvOf [x, y])
  | .inf _, .inf _ => (f.nan, fNV)
  | .inf s, .num t _ _ => (f.inf (s != t), 0)
  | .num s _ _, .inf t => (f.signBit (s != t), 0)
  | .num s m e, .num t n g =>
    if n = 0 then (if m = 0 then (f.nan, fNV) else (f.inf (s != t), fDZ))
    else if m = 0 then (f.signBit (s != t), 0)
    else
      let k := f.fb + 3 + Nat.log2 n + 1
      let q := m * 2 ^ k / n
      f.round rm (s != t) q (e - g - k) (decide (m * 2 ^ k % n ≠ 0))

/-- Integer square root of `v`, bit by bit from bit `n - 1` down. -/
def isqrt (v : Nat) : Nat → Nat → Nat
  | 0, r => r
  | n + 1, r => isqrt v n (if (r + 2 ^ n) * (r + 2 ^ n) ≤ v then r + 2 ^ n else r)

/-- Square root rounded into a format (R239). -/
def Fmt.sqrt (f : Fmt) (rm : Rm) (a : Nat) : Nat × Flags :=
  match f.decode a with
  | .nan b => (f.nan, fIf b fNV)
  | .inf s => if s then (f.nan, fNV) else (f.inf false, 0)
  | .num s m e =>
    if m = 0 then (f.signBit s, 0)
    else if s then (f.nan, fNV)
    else
      let m := if e % 2 = 0 then m else 2 * m
      let e := if e % 2 = 0 then e else e - 1
      let k := f.fb + 3
      let v := m * 2 ^ (2 * k)
      let q := isqrt v (Nat.log2 v / 2 + 1) 0
      f.round rm false q (e / 2 - k) (decide (q * q ≠ v))

/-- Order of two numbers; -0 equals +0 (R241). Both finite or infinite. -/
def FV.cmp (a b : FV) : Ordering :=
  match a, b with
  | .inf x, .inf y => if x = y then .eq else if x then .lt else .gt
  | .inf x, _ => if x then .lt else .gt
  | _, .inf y => if y then .gt else .lt
  | .num x m e, .num y n f =>
    let lo := if e < f then e else f
    compare (scaled x m e lo) (scaled y n f lo)
  | _, _ => .eq

/-- Minimum or maximum, -0 below +0, NaN canonical (R240). -/
def Fmt.minmax (f : Fmt) (isMax : Bool) (a b : Nat) : Nat × Flags :=
  let x := f.decode a
  let y := f.decode b
  if x.isNan || y.isNan then (f.nan, nvOf [x, y])
  else
    let aBelow := match x.cmp y with
      | .lt => true
      | .gt => false
      | .eq => decide (a / 2 ^ (f.eb + f.fb) % 2 = 1)
    (if aBelow != isMax then a else b, 0)

/-- A floating condition (R241). -/
def Fmt.holds (f : Fmt) (c : FCond) (a b : Nat) : Bool × Flags :=
  let x := f.decode a
  let y := f.decode b
  if x.isNan || y.isNan then
    let quietInvalid := match c with
      | .lt | .le | .gt | .ge => true
      | _ => false
    (match c with
      | .ne | .un => true
      | _ => false, nvOf [x, y] ||| fIf quietInvalid fNV)
  else
    let o := x.cmp y
    (match c with
      | .eq => o == .eq
      | .ne => o != .eq
      | .lt => o == .lt
      | .le => o != .gt
      | .gt => o == .gt
      | .ge => o != .lt
      | .un => false
      | .or => true, 0)

/-! ### MK8 (R183 to R186) -/

def ctzBelow : Nat → Nat → Nat
  | 0, _ => 0
  | fuel + 1, x => if x % 2 = 1 then 0 else 1 + ctzBelow fuel (x / 2)

/-- The magnitude of a non-zero payload as a multiple of 2^-11 (R183, R184). -/
def mk8Mag (p : Nat) : Nat :=
  let m := ctzBelow 7 p
  let fld := p / 2 ^ (m + 1)
  if m ≤ 4 then
    let w := 4 - m
    let x := fld / 2 ^ w
    let g := fld % 2 ^ w
    let e : Int := if x < 2 then -2 * (m : Int) - 2 + x else 2 * (m : Int) + x - 2
    (2 ^ w + g) * 2 ^ (e + 11 - w).toNat
  else if m = 5 then (if fld = 0 then 1 else 2 ^ 21)
  else 2 ^ 22

/-- NaR is taken as a quiet NaN; the callers that treat it apart test the byte 0x80. -/
def mk8Decode (b : Nat) : FV :=
  let p := b % 128
  if p = 0 then (if b % 256 = 0 then .num false 0 0 else .nan false)
  else .num (decide (b / 128 % 2 = 1)) (mk8Mag p) (-11)

/-- The largest magnitude at or below v, the smallest at or above it, among payloads 1 to 127; `num` / 2^`den` is |v|
in units of 2^-11. -/
def mk8Around (num den : Nat) : Option Nat × Option Nat :=
  (List.range 127).foldl (fun acc i =>
    let p := i + 1
    let k := mk8Mag p * 2 ^ den
    let lo := if k ≤ num && (match acc.1 with | some q => decide (mk8Mag q < mk8Mag p) | none => true) then some p else acc.1
    let hi := if num ≤ k && (match acc.2 with | some q => decide (mk8Mag p < mk8Mag q) | none => true) then some p else acc.2
    (lo, hi)) (none, none)

/-- Conversion to MK8 (R185). -/
def mk8Of (v : FV) : Nat × Flags :=
  match v with
  | .nan sig => (0x80, fSPC ||| fIf sig fNV)
  | .inf neg => (0x40 + 128 * bit neg, fSAT ||| fSPC)
  | .num neg m e =>
    if m = 0 then (0, 0)
    else
      let sc : Int := e + 11
      let num := m * 2 ^ sc.toNat
      let den := (-sc).toNat
      if 2 ^ 22 * 2 ^ den < num then (0x40 + 128 * bit neg, fSAT ||| fNX)
      else if 2 * num ≤ 2 ^ den then (0, fUF ||| fNX)
      else match mk8Around num den with
        | (none, some h) => (h + 128 * bit neg, fNX)
        | (some l, some h) =>
          if l = h then (l + 128 * bit neg, 0)
          else
            let lo := mk8Mag l * 2 ^ den
            let hi := mk8Mag h * 2 ^ den
            let pick :=
              if 2 * num < lo + hi then l
              else if lo + hi < 2 * num then h
              else if ctzBelow 7 l < ctzBelow 7 h then h
              else if ctzBelow 7 h < ctzBelow 7 l then l
              else if l / 2 ^ (ctzBelow 7 l + 1) % 2 = 0 then l else h
            (pick + 128 * bit neg, fNX)
        | (_, none) => (0x40 + 128 * bit neg, 0)

/-! ### Integers (R179, R188) -/

/-- Saturate to `w` bits (R179). -/
def satInt (w : Nat) (uns : Bool) (x : Int) : Int × Flags :=
  let lo : Int := if uns then 0 else -(2 ^ (w - 1) : Nat)
  let hi : Int := if uns then (2 ^ w : Nat) - 1 else (2 ^ (w - 1) : Nat) - 1
  if x < lo then (lo, fSAT) else if hi < x then (hi, fSAT) else (x, 0)

/-- A finite magnitude m × 2^e rounded to an integer magnitude, and whether that was inexact. -/
def roundMag (rm : Rm) (neg : Bool) (m : Nat) (e : Int) : Nat × Bool :=
  if 0 ≤ e then (m * 2 ^ e.toNat, false)
  else
    let k := (-e).toNat
    let r := m % 2 ^ k
    let q := m / 2 ^ k
    (if roundsUp rm neg (decide (q % 2 = 1)) r k false then q + 1 else q, decide (r ≠ 0))

/-- A floating value to an integer of `w` bits (R188, R243). -/
def intOf (w : Nat) (uns : Bool) (rm : Rm) (v : FV) : Int × Flags :=
  match v with
  | .nan _ => (0, fNV)
  | .inf neg => ((satInt w uns (if neg then -(2 ^ 2000 : Nat) else (2 ^ 2000 : Nat))).1, fSAT)
  | .num neg m e =>
    let r := roundMag rm neg m e
    let q := satInt w uns (if neg then -(r.1 : Int) else r.1)
    (q.1, q.2 ||| fIf r.2 fNX)

/-! ### Conversions (R187) -/

/-- The IEEE-style format of a type. -/
def Ty.fmt : Ty → Option Fmt
  | .bf16 => some fmtBF16
  | .f16 => some fmtF16
  | .f32 => some fmtF32
  | .f64 => some fmtF64
  | _ => none

def Ty.isInt : Ty → Bool
  | .i8 | .i16 | .i32 | .i64 | .i4 => true
  | _ => false

/-- The integer in the low bits of `x`, as an element of a type. -/
def Ty.intVal (t : Ty) (uns : Bool) (x : Nat) : Int :=
  if uns then (x % 2 ^ t.width : Nat) else sextInt t.width x

/-- The floating value of an element. -/
def Ty.fv (t : Ty) (uns : Bool) (x : Nat) : FV :=
  match Ty.fmt t with
  | some f => f.decode x
  | none => if t = .mk8 then mk8Decode x else fvOfInt (Ty.intVal t uns x) 0 false

/-- One conversion between element types: bits of the result in the target's width, and flags (R187, R243). -/
def convert (dst src : Ty) (uns : Bool) (rm : Rm) (x : Nat) : Nat × Flags :=
  let nar := src == .mk8 && decide (x % 256 = 0x80)
  if Ty.isInt dst then
    if Ty.isInt src then
      let q := satInt dst.width uns (Ty.intVal src uns x)
      (lowBits dst.width q.1, q.2)
    else
      let q := intOf dst.width uns rm (Ty.fv src uns x)
      (lowBits dst.width q.1, q.2)
  else if dst = .mk8 then
    if nar then (0x80, 0) else mk8Of (Ty.fv src uns x)
  else match Ty.fmt dst with
    | none => (x, 0)
    | some f =>
      let q := f.ofFV rm (Ty.fv src uns x)
      (q.1, q.2 ||| fIf nar fSPC)

/-- RNE32 of a value, as an encoding (R20). -/
def rne32 (v : FV) : Nat × Flags := fmtF32.ofFV .rne v

/-- The FP32 value of an encoding. -/
def f32 (x : Nat) : FV := fmtF32.decode x

/-- RNE32 of an exact sum; an exact zero is +0 (R182). -/
def rneSum (a b : FV) : Nat × Flags :=
  let v := FV.add false a b
  if v.1.isZero then (0, v.2) else
    let q := rne32 v.1
    (q.1, v.2 ||| q.2)

/-! ### Error feedback (R189) -/

/-- One element of a conversion in mode EF: result, flags and the next residual (an FP32 encoding). -/
def efStep (dst : Ty) (rprev x : Nat) : Nat × Flags × Nat :=
  let xv := f32 x
  let y := if xv.isNan || xv.isInf then x else (rneSum xv (f32 rprev)).1
  let q := convert dst .f32 false .rne y
  let yv := f32 y
  let qv := Ty.fv dst false q.1
  let stop := yv.isNan || yv.isInf || qv.isNan || qv.isInf || decide (q.2 &&& fSAT ≠ 0)
  (q.1, q.2, if stop then 0 else (rneSum yv qv.neg).1)

/-- TwoSum of two finite FP32 encodings: the rounded sum, the exact error as a value, and the flags of the rounding (R20, R182). -/
def twoSum (a b : Nat) : Nat × FV × Flags :=
  let s := rneSum (f32 a) (f32 b)
  let ab := (FV.add false (f32 a) (f32 b)).1
  (s.1, (FV.add false ab (f32 s.1).neg).1, s.2)

end Sys2Proof.Machine
end

