-- ==== Sys2Proof/Machine/Scalar.lean ====
section
/-! DEFINITION. Scalar.lean: integer arithmetic and logic, moves, selection, predicates and scalar floating point
(R224 to R243). -/

namespace Sys2Proof.Machine

abbrev Out := Host.Outcome State Fault Refusal

/-! ### Integer operands and results (R228) -/

/-- w of R228. -/
def Wid.bits : Wid → Nat
  | .w64 => 64
  | .w32 => 32
  | .w16 => 16
  | .w8 => 8

/-- The operands of R228 at a width: ua, ub, sa, sb, and the shift amount n. -/
structure IArg where
  w : Nat
  ua : Nat
  ub : Nat
  sa : Int
  sb : Int
  deriving DecidableEq, Repr

def iarg (wid : Wid) (a b : W64) : IArg :=
  let w := Wid.bits wid
  ⟨w, a.toNat % 2 ^ w, b.toNat % 2 ^ w, sextInt w a.toNat, sextInt w b.toNat⟩

def IArg.n (x : IArg) : Nat := x.ub % x.w

/-- Kind S: D := Sext(r, w) (R228). -/
def extS (w : Nat) (r : Int) : W64 := BitVec.ofInt 64 (sextInt w (lowBits w r))

/-- Kind Z: D := Zext(r, w) (R228). -/
def extZ (w : Nat) (r : Int) : W64 := BitVec.ofNat 64 (lowBits w r)

/-- Clamp of R229, with SAT where it changes its value. -/
def clampI (x lo hi : Int) : Int × Flags := if x < lo then (lo, fSAT) else if hi < x then (hi, fSAT) else (x, 0)

def minS (w : Nat) : Int := -(2 ^ (w - 1) : Nat)
def maxS (w : Nat) : Int := (2 ^ (w - 1) : Nat) - 1
def maxU (w : Nat) : Int := (2 ^ w : Nat) - 1

/-- A scalar result and its flags retire (R225). -/
def retireS (s : State) (w : Window) (d : SReg) (v : W64) (fl : Flags) : Res := .ok (s.retire (w.wrS d v).advance fl)

/-- The integer instructions of two sources (R228, R229). -/
def alu (h : Hdr) (o : Int3) (s : State) (f : IArg → W64 × Flags) : Out :=
  issue h false [.s o.d] s fun s w =>
    let r := f (iarg o.wid (w.rdS o.a) (w.si o.b))
    retireS s w o.d r.1 r.2

/-- The integer instructions of one source. -/
def alu1 (h : Hdr) (o : Int2) (s : State) (f : IArg → W64 × Flags) : Out :=
  issue h false [.s o.d] s fun s w =>
    let r := f (iarg o.wid (w.rdS o.a) 0)
    retireS s w o.d r.1 r.2

/-- ADD and SUB by SATM (R229). -/
def addSub (satm : SatM) (w : Nat) (s u : Int) : W64 × Flags :=
  match satm with
  | .wrap => (extS w s, 0)
  | .ss => let c := clampI s (minS w) (maxS w); (extS w c.1, c.2)
  | .us => let c := clampI u 0 (maxU w); (extZ w c.1, c.2)

def execAdd (h : Hdr) (o : IntS) (s : State) : Out :=
  alu h ⟨o.wid, o.d, o.a, o.b⟩ s fun x => addSub o.satm x.w (x.sa + x.sb) ((x.ua : Int) + x.ub)

def execSub (h : Hdr) (o : IntS) (s : State) : Out :=
  alu h ⟨o.wid, o.d, o.a, o.b⟩ s fun x => addSub o.satm x.w (x.sa - x.sb) ((x.ua : Int) - x.ub)

def execMul (h : Hdr) (o : Int3) (s : State) : Out := alu h o s fun x => (extS x.w (x.sa * x.sb), 0)

/-- The arithmetic shift is a floor division. -/
def execMulh (h : Hdr) (o : Int3) (s : State) : Out :=
  alu h o s fun x => (extS x.w (x.sa * x.sb / (2 ^ x.w : Nat)), 0)

def execMulhz (h : Hdr) (o : Int3) (s : State) : Out := alu h o s fun x => (extZ x.w (x.ua * x.ub / 2 ^ x.w : Nat), 0)

/-- R230: divisor 0 gives -1; DZ unless the dividend is 0. -/
def execDiv (h : Hdr) (o : Int3) (s : State) : Out :=
  alu h o s fun x => if x.sb = 0 then (extS x.w (-1), fIf (x.sa ≠ 0) fDZ) else (extS x.w (x.sa.tdiv x.sb), 0)

def execDivz (h : Hdr) (o : Int3) (s : State) : Out :=
  alu h o s fun x => if x.ub = 0 then (extZ x.w (maxU x.w), fIf (x.ua ≠ 0) fDZ) else (extZ x.w (x.ua / x.ub : Nat), 0)

def execRem (h : Hdr) (o : Int3) (s : State) : Out :=
  alu h o s fun x => if x.sb = 0 then (extS x.w x.sa, fIf (x.sa ≠ 0) fDZ) else (extS x.w (x.sa - x.sb * x.sa.tdiv x.sb), 0)

def execRemz (h : Hdr) (o : Int3) (s : State) : Out :=
  alu h o s fun x => if x.ub = 0 then (extZ x.w x.ua, fIf (x.ua ≠ 0) fDZ) else (extZ x.w (x.ua - x.ub * (x.ua / x.ub) : Nat), 0)

/-- Bitwise NOT at a width. -/
def notW (w x : Nat) : Nat := 2 ^ w - 1 - x

def execAnd (h : Hdr) (o : Int3) (s : State) : Out := alu h o s fun x => (extS x.w (x.ua &&& x.ub : Nat), 0)

def execOr (h : Hdr) (o : Int3) (s : State) : Out := alu h o s fun x => (extS x.w (x.ua ||| x.ub : Nat), 0)

def execXor (h : Hdr) (o : Int3) (s : State) : Out := alu h o s fun x => (extS x.w (x.ua ^^^ x.ub : Nat), 0)

def execAndn (h : Hdr) (o : Int3) (s : State) : Out := alu h o s fun x => (extS x.w (x.ua &&& notW x.w x.ub : Nat), 0)

def execOrn (h : Hdr) (o : Int3) (s : State) : Out := alu h o s fun x => (extS x.w (x.ua ||| notW x.w x.ub : Nat), 0)

def execShl (h : Hdr) (o : Int3) (s : State) : Out := alu h o s fun x => (extS x.w (x.ua * 2 ^ x.n : Nat), 0)

def execShr (h : Hdr) (o : Int3) (s : State) : Out := alu h o s fun x => (extZ x.w (x.ua / 2 ^ x.n : Nat), 0)

def execSar (h : Hdr) (o : Int3) (s : State) : Out := alu h o s fun x => (extS x.w (x.sa / (2 ^ x.n : Nat)), 0)

def execRol (h : Hdr) (o : Int3) (s : State) : Out :=
  alu h o s fun x => (extS x.w ((x.ua * 2 ^ x.n ||| x.ua / 2 ^ (x.w - x.n) : Nat)), 0)

/-- Count of one bits among the low `n` bits. -/
def popCount : Nat → Nat → Nat
  | 0, _ => 0
  | n + 1, x => x % 2 + popCount n (x / 2)

/-- The low `n` bits in reverse order. -/
def revBits : Nat → Nat → Nat
  | 0, _ => 0
  | n + 1, x => x % 2 * 2 ^ n + revBits n (x / 2)

def execClz (h : Hdr) (o : Int2) (s : State) : Out :=
  alu1 h o s fun x => (extZ x.w (if x.ua = 0 then x.w else x.w - 1 - Nat.log2 x.ua : Nat), 0)

def execCtz (h : Hdr) (o : Int2) (s : State) : Out := alu1 h o s fun x => (extZ x.w (ctzBelow x.w x.ua), 0)

def execPopc (h : Hdr) (o : Int2) (s : State) : Out := alu1 h o s fun x => (extZ x.w (popCount x.w x.ua), 0)

def execBrev (h : Hdr) (o : Int2) (s : State) : Out := alu1 h o s fun x => (extS x.w (revBits x.w x.ua), 0)

/-- Field position and length from B (R231). -/
def fieldPos (b : W64) : Nat := bitsOf b.toNat 5 0
def fieldLen (b : W64) : Nat := bitsOf b.toNat 11 6 + 1

def execBfx (h : Hdr) (sx : Bool) (d a : SReg) (b : SI) (s : State) : Out :=
  issue h false [.s d] s fun s w =>
    let v := w.si b
    let f := (w.rdS a).toNat / 2 ^ fieldPos v % 2 ^ fieldLen v
    retireS s w d (if sx then extS (fieldLen v) f else BitVec.ofNat 64 f) 0

def execBfi (h : Hdr) (d a : SReg) (b : SI) (s : State) : Out :=
  issue h false [.s d] s fun s w =>
    let v := w.si b
    let mask : W64 := BitVec.ofNat 64 ((2 ^ fieldLen v - 1) * 2 ^ fieldPos v)
    let ins : W64 := BitVec.ofNat 64 ((w.rdS a).toNat * 2 ^ fieldPos v)
    retireS s w d ((w.rdS d &&& ~~~mask) ||| (ins &&& mask)) 0

def execMin (h : Hdr) (o : Int3) (s : State) : Out := alu h o s fun x => (extS x.w (if x.sa ≤ x.sb then x.sa else x.sb), 0)

def execMax (h : Hdr) (o : Int3) (s : State) : Out := alu h o s fun x => (extS x.w (if x.sa ≤ x.sb then x.sb else x.sa), 0)

def execMinz (h : Hdr) (o : Int3) (s : State) : Out := alu h o s fun x => (extZ x.w (Nat.min x.ua x.ub : Nat), 0)

def execMaxz (h : Hdr) (o : Int3) (s : State) : Out := alu h o s fun x => (extZ x.w (Nat.max x.ua x.ub : Nat), 0)

def execAbs (h : Hdr) (sat : Bool) (o : Int2) (s : State) : Out :=
  alu1 h o s fun x =>
    if sat then let c := clampI x.sa.natAbs 0 (maxS x.w); (extS x.w c.1, c.2)
    else (extS x.w x.sa.natAbs, 0)

/-! ### Moves, selection and predicates (R232 to R237) -/

def execSel (h : Hdr) (pidx : PReg) (pneg : Bool) (d a : SReg) (b : SI) (s : State) : Out :=
  issue h false [.s d] s fun s w => retireS s w d (if w.rdP pidx != pneg then w.rdS a else w.si b) 0

/-- The destination register of a MOV that a variable-latency result could still reach. -/
def MovPair.dst : MovPair → List Dst
  | .ss d _ => [.s d]
  | .si d _ => [.s d]
  | .sp d _ => [.s d]
  | .sm d _ => [.s d]
  | .kk d _ => [.k d]
  | _ => []

/-- The accepted pairs of MOV (R232). -/
def Window.mov (w : Window) : MovPair → Window
  | .ss d b => w.wrS d (w.rdS b)
  | .si d v => w.wrS d (immV v)
  | .sp d b => w.wrS d (BitVec.ofNat 64 (bit (w.rdP b)))
  | .sm d b => w.wrS d (w.rdM b)
  | .ps d b => w.wrP d (decide (w.rdS b ≠ 0))
  | .pp d b => w.wrP d (w.rdP b)
  | .pi d v => w.wrP d (decide (v ≠ 0))
  | .ms d b => w.wrM d (w.rdS b)
  | .mm d b => w.wrM d (w.rdM b)
  | .kk d b => w.wrK d (w.rdK b)

def execMov (h : Hdr) (p : MovPair) (s : State) : Out := issueW h (MovPair.dst p) s fun _ w => .ok (w.mov p)

def execMovi (h : Hdr) (d : SReg) (v : LImm) (s : State) : Out :=
  issue h false [.s d] s fun s w => retireS s w d (LImm.val v) 0

def execMovh (h : Hdr) (d : SReg) (v : LImm) (s : State) : Out :=
  issue h false [.s d] s fun s w =>
    retireS s w d (BitVec.ofNat 64 ((LImm.val v).toNat % 2 ^ 32 * 2 ^ 32 + (w.rdS d).toNat % 2 ^ 32)) 0

/-- The integer conditions (R236). -/
def Cond.holds (c : Cond) (x : IArg) : Bool :=
  match c with
  | .eq => decide (x.ua = x.ub)
  | .ne => decide (x.ua ≠ x.ub)
  | .lt => decide (x.sa < x.sb)
  | .le => decide (x.sa ≤ x.sb)
  | .gt => decide (x.sb < x.sa)
  | .ge => decide (x.sb ≤ x.sa)
  | .ltu => decide (x.ua < x.ub)
  | .leu => decide (x.ua ≤ x.ub)
  | .gtu => decide (x.ub < x.ua)
  | .geu => decide (x.ub ≤ x.ua)
  | .tst => decide (x.ua &&& x.ub ≠ 0)
  | .ntst => decide (x.ua &&& x.ub = 0)

def execCmp (h : Hdr) (wid : Wid) (c : Cond) (d : PReg) (a : SReg) (b : SI) (s : State) : Out :=
  issueW h [] s fun _ w => .ok (w.wrP d (Cond.holds c (iarg wid (w.rdS a) (w.si b))))

def execPlog (h : Hdr) (tt : BitVec 4) (d a b : PReg) (s : State) : Out :=
  issueW h [] s fun _ w => .ok (w.wrP d (tt.getLsbD (2 * bit (w.rdP a) + bit (w.rdP b))))

/-! ### Scalar floating point (R238 to R243) -/

def fmtOf (dbl : Bool) : Fmt := if dbl then fmtF64 else fmtF32

/-- An operand: bits [31:0] of the register for FP32 (R238). -/
def Window.rdF (w : Window) (dbl : Bool) (r : SReg) : Nat := if dbl then (w.rdS r).toNat else (w.rdS r).toNat % 2 ^ 32

/-- A floating instruction of two sources. -/
def fpu (h : Hdr) (o : F3) (s : State) (f : Fmt → Nat → Nat → Nat → Nat × Flags) : Out :=
  issue h false [.s o.d] s fun s w =>
    let r := f (fmtOf o.dbl) (w.rdF o.dbl o.a) (w.rdF o.dbl o.b) (w.rdF o.dbl o.d)
    retireS s w o.d (BitVec.ofNat 64 r.1) r.2

def execFadd (h : Hdr) (o : F3) (s : State) : Out := fpu h o s fun f a b _ => f.add o.rm a b

def execFsub (h : Hdr) (o : F3) (s : State) : Out := fpu h o s fun f a b _ => f.sub o.rm a b

def execFmul (h : Hdr) (o : F3) (s : State) : Out := fpu h o s fun f a b _ => f.mul o.rm a b

def execFma (h : Hdr) (o : F3) (s : State) : Out := fpu h o s fun f a b d => f.fma o.rm a b d

def execFdiv (h : Hdr) (o : F3) (s : State) : Out := fpu h o s fun f a b _ => f.div o.rm a b

def execFsqrt (h : Hdr) (rm : Rm) (dbl : Bool) (d a : SReg) (s : State) : Out :=
  fpu h ⟨rm, dbl, d, a, a⟩ s fun f a _ _ => f.sqrt rm a

def execFmin (h : Hdr) (dbl : Bool) (d a b : SReg) (s : State) : Out :=
  fpu h ⟨.rne, dbl, d, a, b⟩ s fun f a b _ => f.minmax false a b

def execFmax (h : Hdr) (dbl : Bool) (d a b : SReg) (s : State) : Out :=
  fpu h ⟨.rne, dbl, d, a, b⟩ s fun f a b _ => f.minmax true a b

def execFcmp (h : Hdr) (dbl : Bool) (c : FCond) (d : PReg) (a b : SReg) (s : State) : Out :=
  issue h false [] s fun s w =>
    let r := (fmtOf dbl).holds c (w.rdF dbl a) (w.rdF dbl b)
    .ok (s.retire (w.wrP d r.1).advance r.2)

def execScvt (h : Hdr) (rm : Rm) (ty sty : Ty) (uns : Bool) (d a : SReg) (s : State) : Out :=
  issue h false [.s d] s fun s w =>
    let r := convert ty sty uns rm ((w.rdS a).toNat % 2 ^ sty.width)
    retireS s w d (if Ty.isInt ty && !uns then extS ty.width r.1 else BitVec.ofNat 64 r.1) r.2

end Sys2Proof.Machine
end

