-- ==== Sys2Proof/Machine/Control.lean ====
section
/-! DEFINITION. Control.lean: branches, loops, calls, returns, traps and breakpoints (R244 to R251), service windows
(R379, R380, R495), and the resumption of parked frames. -/

namespace Sys2Proof.Machine

/-- A branch target (R244): ALIGN, then ADDR. -/
def target (t : Int) : Ex W64 :=
  let d := (t % (2 ^ 64 : Nat)).toNat
  if d % 4 ≠ 0 then .error ⟨cALIGN, 0, 2, d⟩
  else if t < 0 ∨ (2 ^ 48 : Nat) ≤ t then .error ⟨cADDR, 0, 2, d⟩
  else .ok (BitVec.ofNat 64 d)

/-- PC + 12 × imm (R200). -/
def relTarget (w : Window) (v : LImm) : Ex W64 := target ((w.pc.toNat : Int) + 12 * (LImm.val v).toInt)

def execBr (h : Hdr) (v : LImm) (s : State) : Out :=
  issue h false [] s fun s w => Res.check (relTarget w v) fun t => .ok (s.setTop { w with pc := t })

def execBri (h : Hdr) (b : SReg) (s : State) : Out :=
  issue h false [] s fun s w => Res.check (target (w.rdS b).toNat) fun t => .ok (s.setTop { w with pc := t })

/-- After a target fault D is unchanged (R245). -/
def execLoop (h : Hdr) (d : SReg) (v : LImm) (s : State) : Out :=
  issue h false [.s d] s fun s w =>
    let n := w.rdS d - 1
    if n = 0 then .ok (s.setTop (w.wrS d n).advance)
    else Res.check (relTarget w v) fun t => .ok (s.setTop { w.wrS d n with pc := t })

/-- The STACK fault: DETAIL is TOP of SPL (R446). -/
def stackFault (s : State) : FaultInfo := ⟨cSTACK, 0, 0, spillTop s.me.spilled⟩

/-- The vector count a CALL names (R246). -/
def callVw (vw : Fin 4) (n : Nat) : Nat :=
  match vw.val with
  | 0 => n
  | 1 => 0
  | 2 => 8
  | _ => 16

/-- The start of a CALL window (R246). -/
def callWindow (s : State) (w : Window) (vw : Fin 4) (t : W64) : Window :=
  { wid := s.nextId
    s := Vector.ofFn fun i => if h : i.val < 8 then w.s[i.val + 8] else 0
    p := 0
    m := Vector.replicate 8 0
    k := Vector.ofFn fun i => if h : i.val < 4 then w.k[i.val + 4] else Key.zero
    v := List.replicate (callVw vw w.vn) 0
    drg := w.drg
    nxt := w.nxt
    byt := w.byt
    hnde := w.hnde
    flg := w.flg
    pthr := s.me.thr
    rpc := w.pc + 12
    callw := true
    svc := false
    adm := false
    pc := t
    park := none
    fresh := false
    fr := w.fr }

/-- Push a window above the running one, or raise STACK (R164, R167). -/
def pushOr (s : State) (v : Window) : Res :=
  match s.me.push v with
  | some k => .ok { s.setCore s.cur k with nextId := s.nextId + 1 }
  | none => .fault (stackFault s)

def execCall (h : Hdr) (vw : Fin 4) (v : LImm) (s : State) : Out :=
  issue h true [] s fun s w => Res.check (relTarget w v) fun t => pushOr s (callWindow s w vw t)

def execCalli (h : Hdr) (vw : Fin 4) (b : SReg) (s : State) : Out :=
  issue h true [] s fun s w => Res.check (target (w.rdS b).toNat) fun t => pushOr s (callWindow s w vw t)

/-- A claim entry of a window of this id remains (R170). -/
def Core.claimOf (k : Core) (wid : Nat) : Option Claim := k.claims.find? fun c => c.wid = wid

def claimFault (k : Core) (c : Claim) : FaultInfo := ⟨cCLAIM, 0, 0, (k.awn c.rcd).id⟩

/-- RET's copies into the caller (R247 step 1). -/
def retInto (w caller : Window) : Window :=
  { caller with
    s := Vector.ofFn fun i => if h : i.val < 8 then caller.s[i.val] else w.s[i.val - 8]
    k := Vector.ofFn fun i => if h : i.val < 4 then caller.k[i.val] else w.k[i.val - 4]
    flg := w.flg
    pc := w.rpc }

/-- A return to a PC that is not a multiple of 4 (R200). -/
def returnCheck (pc : W64) : Ex Unit := if pc.toNat % 4 = 0 then .ok () else .error ⟨cALIGN, 0, 2, pc.toNat⟩

def execRet (h : Hdr) (s : State) : Out :=
  issue h true [] s fun s w =>
    if !w.callw || w.svc then .fault (stackFault s)
    else match s.me.claimOf w.wid with
      | some c => .fault (claimFault s.me c)
      | none => Res.check (returnCheck w.rpc) fun _ => .ok ((s.modMe Core.pop).modTop (retInto w))

def execNop (h : Hdr) (s : State) : Out := issueW h [] s fun _ w => .ok w

def execTrap (h : Hdr) (v : BitVec 18) (s : State) : Out :=
  issue h true [] s fun _ _ =>
    if v.toNat < 32 then .fault ⟨0x20 + v.toNat, 0, 0, v.toNat⟩ else .fault (FaultInfo.plain cILLEGAL 0)

/-- BRK posts a stop message to the service core of its die and parks until the reply (R6, R251). -/
def execBrk (h : Hdr) (v : BitVec 18) (s : State) : Out :=
  issue h true [] s fun s w =>
    if v.toNat < 2 ^ 17 then
      .ok ((s.setTop { w with park := some (.brk v.toNat) }).mailTo (dieOf s.cur)
        (.brk s.cur w.wid w.fr.ctx w.fr.tkt w.pc v.toNat))
    else .fault (FaultInfo.plain cILLEGAL 0)

/-- The stop message of a window at a core. -/
def SvcMsg.stopOf (core wid : Nat) : SvcMsg → Bool
  | .brk c i _ _ _ _ => decide (c = core) && decide (i = wid)
  | _ => false

/-- A service core answers the stop message of a window, which leaves its mail: RESUME, or FATAL where the context has a
debugger attached (R6, R251). -/
def execBrkReply (stop : StopRef) (resume : Bool) (s : State) : Out :=
  let core := stop.core
  let wid := stop.wid
  if s.serves (dieOf core) && (vget [] s.mail (dieOf core)).any (SvcMsg.stopOf core wid) then
    match (s.core core).findWin wid with
    | none => .next s
    | some w =>
      let s := { s with mail := vmod (dieOf core) (fun l => l.eraseP (SvcMsg.stopOf core wid)) s.mail }
      match w.park with
      | some (.brk tag) =>
        let dbg := match s.ctxRec w.fr.ctx with
          | some r => r.debugger
          | none => false
        if resume || !dbg then
          .next (s.modCore core fun k => k.modWin w.wid fun w => { w with park := none }.advance)
        else .next (s.contextFatal w.fr.ctx ⟨cBREAK, 0, 0, tag⟩ ⟨core, w.pc.toNat, w.fr.tkt.toNat, w.fr.serial.toNat⟩)
      | _ => .next s
  else .next s

/-! ### Service windows (R379, R380, R495) -/

/-- The start of a service window (R379): the firmware's code of service `n` runs from its entry (log 13). -/
def serviceWindow (s : State) (w : Window) (n : Nat) : Window :=
  { wid := s.nextId
    s := Vector.ofFn fun i => if h : i.val < 8 then w.s[i.val] else 0
    p := 0
    m := Vector.replicate 8 0
    k := Vector.replicate 8 Key.zero
    v := []
    drg := 0
    nxt := 0
    byt := 0
    hnde := 0
    flg := 0
    pthr := s.me.thr
    rpc := (w.pc + 12) ||| 1
    callw := true
    svc := true
    adm := false
    pc := Config.serviceEntry n
    park := some (.service n)
    fresh := false
    fr := { w.fr with sys := true, pri := 7, lvl := 7 } }

def execSvc (h : Hdr) (n : BitVec 18) (s : State) : Out :=
  issue h true [] s fun s w =>
    if 256 ≤ n.toNat then .fault (FaultInfo.plain cILLEGAL 0)
    else match s.me.push (serviceWindow s w n.toNat) with
      | some k => .ok { s.setCore s.cur { k with thr := 7 } with nextId := s.nextId + 1 }
      | none => .fault (stackFault s)

/-- ERET's copies into the caller (R380 step 1). -/
def eretInto (w caller : Window) : Window :=
  { caller with
    s := Vector.ofFn fun i => if i.val < 8 then w.s[i.val] else caller.s[i.val]
    pc := w.rpc - 1 }

def execEret (h : Hdr) (s : State) : Out :=
  issue h true [] s fun s w =>
    if w.rpc.getLsbD 0 = false then .fault (FaultInfo.plain cILLEGAL 0)
    else match s.me.claimOf w.wid with
      | some c => .fault (claimFault s.me c)
      | none => Res.check (returnCheck (w.rpc - 1)) fun _ =>
        .ok (((s.modMe Core.pop).modMe fun k => { k with thr := w.pthr }).modTop (eretInto w))

/-! ### Resumption (R209) -/

def State.modTopOf (s : State) (c : Nat) (f : Window → Window) : State :=
  s.modCore c fun k => match k.wins with
    | w :: r => { k with wins := f w :: r }
    | [] => k

/-- Every earlier result has returned: the marked instruction issues at the core's next turn (R209). -/
def execSwMarkerResume (core : Nat) (s : State) : Out :=
  match s.topOf core with
  | some w =>
    if w.park = some .marker && !(s.core core).outstanding w.fr then
      .next (s.modTopOf core fun w => { w with park := none })
    else .next s
  | none => .next s

/-- A stalled instruction is tried again (R104, R140, R171, R175, R263, R272): it issues at the core's next turn, or
waits once more. -/
def execIssueStallRelease (core : Nat) (s : State) : Out :=
  match s.topOf core with
  | some w =>
    if w.park = some .stall || w.park = some .acquire then
      .next (s.modTopOf core fun w => { w with park := none })
    else .next s
  | none => .next s

end Sys2Proof.Machine
end

