-- ==== Sys2Proof/Machine/Memory.lean ====
section
/-! DEFINITION. Memory.lean: loads, stores, keys and atomics (R254 to R272, R280). -/

namespace Sys2Proof.Machine

/-- Bytes of a data type (R256). -/
def Ty.bytes (t : Ty) : Nat := t.width / 8

/-- A loaded element as D holds it (R256). -/
def loadedValue (t : Ty) (uns : Bool) (x : Nat) : W64 :=
  if Ty.isInt t && !uns then extS t.width x else BitVec.ofNat 64 (x % 2 ^ t.width)

/-! ### Loads (R259, R260, R263, R272) -/

def loadAddr (o : LdA) (align : Bool) (s : State) (w : Window) : Ex Acc :=
  let n := Ty.bytes o.ty
  let a := formAddr s w o.a (w.siInt o.b) n pREAD 1
  if align then aligned a n 1 else a

def loadWith (h : Hdr) (o : LdA) (s : State) (form : LoadForm) (align : Bool) : Out :=
  memIssue h [.s o.d] s (loadAddr o align) fun s w a =>
    let s := startLoad s w (.load o.ty o.uns o.d) a form
    .ok (s.modTop Window.advance)

def execLd (h : Hdr) (o : LdA) (s : State) : Out := loadWith h o s (.plain h.nt) false

/-- LDC never reads the journal (R260). -/
def execLdc (h : Hdr) (o : LdA) (s : State) : Out := loadWith h o s { LoadForm.plain h.nt with useJrn := false } false

def Scope.wide : Scope → Bool
  | .task => false
  | _ => true

/-- LDAQ fills no line (R98). -/
def execLdaq (h : Hdr) (sc : Scope) (o : LdA) (s : State) : Out :=
  loadWith h o s { LoadForm.plain h.nt with alloc := false, acq := true, wide := Scope.wide sc } true

/-- An LDSC of region 0xFF reads the firmware's map at once and takes no place in the SC order (log 15). -/
def execLdsc (h : Hdr) (o : LdA) (s : State) : Out :=
  memIssue h [.s o.d] s (fun s w => match loadAddr o true s w with
      | .ok a => (scCheck s a 1).map fun _ => a
      | .error e => .error e) fun s w a =>
    if !s.me.scReady w.fr then .wait .acquire true
    else
      let sc := decide (a.region ≠ 0xFF)
      let s := startLoad s w (.load o.ty o.uns o.d) a ⟨false, false, false, true, true, sc⟩
      .ok ((if sc then s.modMe fun k => { k with scSeq := k.scSeq + 1 } else s).modTop Window.advance)

/-! ### Stores (R261, R264, R272) -/

def storeAddr (o : StA) (align : Bool) (s : State) (w : Window) : Ex Acc :=
  let n := Ty.bytes o.ty
  let a := formAddr s w o.a (w.siInt o.b) n pWRITE 2
  if align then aligned a n 2 else a

/-- Bytes of the data operand (R256). -/
def storeBytes (o : StA) (w : Window) : List (Option Byte) := (natBytes (Ty.bytes o.ty) (w.si o.d).toNat).map some

/-- Bytes stored at a region 0xFF offset (R23, log 15). -/
def State.sysStore (s : State) (off : Nat) (bs : List (Option Byte)) : State := { s with sysMem := hostMask s.sysMem off bs }

/-- A store that takes the journal, or the core's own buffer, or region 0xFF, whose map is the firmware's (R103, log 15). -/
def putStore (s : State) (w : Window) (a : Acc) (form : StoreForm) (bs : List (Option Byte)) : Res :=
  if a.region = 0xFF then .ok ((s.sysStore a.off bs).modTop Window.advance)
  else if a.own s then
    .ok ((s.modMe fun k => k.bufWrite (winBuf a.off) (winOff a.off) bs).modTop Window.advance)
  else match journalStore s w.fr a form bs with
    | some s => .ok (s.modTop Window.advance)
    | none => .wait .stall false

def execSt (h : Hdr) (o : StA) (s : State) : Out :=
  memIssue h [] s (storeAddr o false) fun s w a => putStore s w a .plain (storeBytes o w)

/-- A store to the core's own buffers that does not enter the journal and may not be performed yet (R103): a part at the core's
own buffer port. -/
def ownStore (s : State) (w : Window) (a : Acc) (rel sc : Bool) (bs : List (Option Byte)) : State :=
  startAccess s w (.ownStore bs) a ⟨false, false, false, false, sc, sc⟩ rel 0 []
    |>.modMe fun k => { k with pend := k.pend.map fun p =>
        if p.stamp + 1 = k.stamp then
          { p with parts := [{ off := a.off, n := a.n, base := a.off, dev := a.dev, st := .queued, tries := 0, data := [],
                               ktag := false, inval := false }] }
        else p }

/-- STRL closes the ticket's open entries; its own entry leaves after them (R264), and a store to the core's own buffers is
performed after them (R103). At scope TASK it waits for nothing. One to region 0xFF, which is performed at its issue (log 15),
issues after them. -/
def execStrl (h : Hdr) (sc : Scope) (o : StA) (s : State) : Out :=
  memIssue h [] s (storeAddr o true) fun s w a =>
    let s := s.modMe fun k => k.closeTicket w.fr
    if a.region = 0xFF && Scope.wide sc && !s.me.settled w.fr s.me.stamp then .wait .acquire true
    else if a.own s && Scope.wide sc then .ok ((ownStore s w a true false (storeBytes o w)).modTop Window.advance)
    else putStore s w a ⟨true, false, false, Scope.wide sc, false⟩ (storeBytes o w)

/-- An STSC to region 0xFF is a store to the firmware's map and takes no place in the SC order (log 15). -/
def execStsc (h : Hdr) (o : StA) (s : State) : Out :=
  memIssue h [] s (fun s w => match storeAddr o true s w with
      | .ok a => (scCheck s a 2).map fun _ => a
      | .error e => .error e) fun s w a =>
    if !s.me.scReady w.fr then .wait .acquire true
    else if a.region = 0xFF then .ok ((s.sysStore a.off (storeBytes o w)).modTop Window.advance)
    else
      let next (s : State) : Res := .ok ((s.modMe fun k => { k with scSeq := k.scSeq + 1 }).modTop Window.advance)
      if a.own s then next (ownStore s w a false true (storeBytes o w))
      else match journalStore s w.fr a ⟨true, false, false, true, true⟩ (storeBytes o w) with
        | none => .wait .stall false
        | some s => next (startAccess s w .stsc a ⟨false, false, false, false, true, true⟩ false 0 [])

/-! ### Buffer accesses (R262) -/

/-- Buffer words wait for earlier acquires as other accesses do (R263, R394). -/
def bufIssue (h : Hdr) (dst : List Dst) (s : State) (a : BuS) (b : SI) (n acc : Nat)
    (body : State → Window → Nat → Nat → Res) : Out :=
  issue h false dst s fun s w =>
    Res.check (formBuf s w a (w.siInt b) n acc) fun p =>
      if s.me.held w.fr then .wait .acquire false else body s w p.1 p.2

def execLdb (h : Hdr) (ty : Ty) (uns : Bool) (d : SReg) (a : BuS) (b : SI) (s : State) : Out :=
  bufIssue h [.s d] s a b (Ty.bytes ty) 1 fun s w buf o =>
    retireS s w d (loadedValue ty uns (memNat (s.me.buf buf) o (Ty.bytes ty))) 0

def execStb (h : Hdr) (ty : Ty) (d : SI) (a : BuS) (b : SI) (s : State) : Out :=
  bufIssue h [] s a b (Ty.bytes ty) 2 fun s w buf o =>
    .ok ((s.modMe fun k => k.bufWrite buf o ((natBytes (Ty.bytes ty) (w.si d).toNat).map some)).modTop Window.advance)

/-! ### Keys (R265 to R268) -/

def execLdk (h : Hdr) (d : KReg) (a : SK) (b : SI) (s : State) : Out :=
  memIssue h [.k d] s (fun s w => aligned (formAddr s w a (w.siInt b) 16 pREAD 1) 16 1) fun s w a =>
    .ok ((startLoad s w (.key d) a ⟨true, false, false, false, false, false⟩).modTop Window.advance)

/-- A store of a key keeps its tag in regions 0x00 and 0x01 and in an S buffer (R44). -/
def Acc.keepsTag (a : Acc) : Bool :=
  decide (a.region = 0) || decide (a.region = 1) || (decide (a.region = 0xFE) && decide (winBuf a.off = 3))

def execStk (h : Hdr) (d : KReg) (a : SK) (b : SI) (s : State) : Out :=
  memIssue h [] s (fun s w => aligned (formAddr s w a (w.siInt b) 16 pWRITE 2) 16 2) fun s w a =>
    let k := w.rdK d
    let bs := (natBytes 16 k.n).map some
    let tag := k.tag && a.keepsTag
    if a.own s then
      let b := winBuf a.off
      let o := winOff a.off
      .ok ((s.modMe fun c =>
        let c := c.bufWrite b o bs
        if tag then { c with stags := c.stags ++ [o / 16] } else c).modTop Window.advance)
    else putStore s w a ⟨true, true, tag, false, false⟩ bs

/-- The checks every key instruction makes on A (R266). -/
def keyCheck (k : Key) (sealOk : Bool) : Ex Unit :=
  if !k.tag then .error (FaultInfo.plain cTAG 0)
  else if k.sealed && !sealOk then .error (FaultInfo.plain cPERM 0)
  else .ok ()

/-- The smallest e of R267 from `e` upward. -/
def derE (o b : Nat) : Nat → Nat → Option Nat
  | 0, _ => none
  | fuel + 1, e =>
    if (o + b + 2 ^ e - 1) / 2 ^ e - o / 2 ^ e ≤ 2 ^ 15 then some e else derE o b fuel (e + 1)

/-- Derived bounds: E, base and top (R267). -/
def derive (k : Key) (b : Nat) : Ex (Nat × Nat × Nat) :=
  let o := k.off
  let f : FaultInfo := ⟨cBOUNDS, 0, k.region.toNat, o⟩
  match k.bounds with
  | none => .error f
  | some (kb, kt) =>
    match derE o b 49 0 with
    | none => .error f
    | some e =>
      let base := o / 2 ^ e * 2 ^ e
      let top := (o + b + 2 ^ e - 1) / 2 ^ e * 2 ^ e
      if base < kb ∨ kt < top then .error f else .ok (e, base, top)

def execKder (h : Hdr) (pm : BitVec 6) (d a : KReg) (b : SI) (s : State) : Out :=
  issueW h [.k d] s fun _ w =>
    let k := w.rdK a
    match keyCheck k false with
    | .error e => .error e
    | .ok _ =>
      if k.perm &&& pDERIVE = 0 then .error (FaultInfo.plain cPERM 0)
      else match derive k (w.si b).toNat with
        | .error e => .error e
        | .ok (e, base, top) =>
          .ok (w.wrK d (Key.mk' k.peer (k.perm &&& pm.toNat) e (base / 2 ^ e) (top / 2 ^ e) false k.region k.off true))

def execKprm (h : Hdr) (pm : BitVec 6) (d a : KReg) (s : State) : Out :=
  issueW h [.k d] s fun _ w =>
    let k := w.rdK a
    (keyCheck k false).map fun _ =>
      w.wrK d (Key.mk' k.peer (k.perm &&& pm.toNat) k.e k.b k.t k.sealed k.region k.off true)

def execKadr (h : Hdr) (set : Bool) (d a : KReg) (b : SI) (s : State) : Out :=
  issueW h [.k d] s fun _ w =>
    let k := w.rdK a
    (keyCheck k false).map fun _ =>
      let o : Int := if set then w.siInt b else k.off + w.siInt b
      let low := (o % (2 ^ 64 : Nat)).toNat
      let ok := decide (0 ≤ o) && decide (o < (2 ^ 64 : Nat)) && k.representable low
      w.wrK d (Key.mk' k.peer k.perm k.e k.b k.t k.sealed k.region low ok)

/-- A field of a key (R268). -/
def Key.get (k : Key) (f : KField) : W64 :=
  match f with
  | .off => BitVec.ofNat 64 k.off
  | .base => match k.bounds with
    | some (b, _) => BitVec.ofNat 64 b
    | none => 0
  | .len => match k.bounds with
    | some (b, t) => BitVec.ofNat 64 (Nat.min (t - b) (2 ^ 64 - 1))
    | none => 0
  | .attr => BitVec.ofNat 64 (k.perm + bit k.sealed * 2 ^ 6 + bit k.tag * 2 ^ 7 + k.region.toNat * 2 ^ 8 + k.peer * 2 ^ 16)
  | .hi => BitVec.ofNat 64 (k.n / 2 ^ 64)

def execKget (h : Hdr) (f : KField) (d : SReg) (a : KReg) (s : State) : Out :=
  issue h false [.s d] s fun s w => retireS s w d ((w.rdK a).get f) 0

def execKtst (h : Hdr) (pm : BitVec 6) (d : PReg) (a : KReg) (b : SI) (s : State) : Out :=
  issueW h [] s fun s w =>
    let k := w.rdK a
    let pass := match k.check pm.toNat k.off (w.si b).toNat 7 w.sys with
      | .ok _ => s.reachable (accDev s w.fr.ctx k.region k.off (some k.peer))
      | .error _ => false
    .ok (w.wrP d pass)

def execKseal (h : Hdr) (d a : KReg) (s : State) : Out :=
  issueW h [.k d] s fun _ w =>
    let k := w.rdK a
    (keyCheck k true).map fun _ => w.wrK d (Key.mk' k.peer k.perm k.e k.b k.t true k.region k.off true)

/-! ### Atomics (R269 to R271) -/

def Order.acq : Order → Bool
  | .acq | .ar | .sc => true
  | _ => false

def Order.rel : Order → Bool
  | .rel | .ar | .sc => true
  | _ => false

/-- The new value of an AMO and its flags (R269). -/
def amoNew (opc : AmoOp) (ty : Ty) (old x : Nat) : Nat × Flags :=
  let b := ty.width
  let so := sextInt b old
  let sx := sextInt b x
  let x := x % 2 ^ b
  match opc with
  | .swap => (x, 0)
  | .add => if ty = .f32 then rneSum (f32 (old % 2 ^ 32)) (f32 x) else ((old + x) % 2 ^ b, 0)
  | .and => (old &&& x, 0)
  | .or => (old ||| x, 0)
  | .xor => (old ^^^ x, 0)
  | .min => if ty = .f32 then fmtF32.minmax false old x else (if so ≤ sx then old else x, 0)
  | .max => if ty = .f32 then fmtF32.minmax true old x else (if so ≤ sx then x else old, 0)

/-- What an atomic writes over an old value: how many bytes and the value, if it writes (R269, R270). -/
def PendKind.newValue (k : PendKind) (old : Nat) : Option (Nat × Nat) :=
  match k with
  | .amo opc ty _ x => some (Ty.bytes ty, (amoNew opc ty old x.toNat).1)
  | .cas ty _ e n => if old = e.toNat % 2 ^ ty.width then some (Ty.bytes ty, n.toNat % 2 ^ ty.width) else none
  | _ => none

/-- The access of an atomic: ATOM, alignment, and no region 0xFE (R258, R269, R270). -/
def atomAddr (s : State) (w : Window) (ord : Order) (ty : Ty) (a : SK) (b : SI) : Ex Acc :=
  let n := Ty.bytes ty
  match aligned (formAddr s w a (w.siInt b) n pATOM 3) n 3 with
  | .error e => .error e
  | .ok a =>
    if a.region = 0xFE then .error ⟨cADDR, 3, 0xFE, a.off⟩
    else if ord = .sc then (scCheck s a 3).map fun _ => a
    else .ok a

/-- An atomic on region 0xFF is performed at its issue, on the bytes stored there, after what its release covers, and takes no
place in the SC order (log 15). -/
def sysAtomic (s : State) (w : Window) (kind : PendKind) (a : Acc) (form : LoadForm) : State :=
  let old := leNat (s.sysBytes a.off a.n)
  let s := startAccess s w kind a { form with sc := false } false 0 [(a.off, a.n)]
  match kind.newValue old with
  | some (n, v) => s.sysStore a.off ((natBytes n v).map some)
  | none => s

/-- Issue an atomic: R113, its order (R271), and its range-slot counts (R277). -/
def atomIssue (h : Hdr) (d : SReg) (sc : Scope) (ord : Order) (ty : Ty) (a : SK) (b : SI) (s : State)
    (kind : Window → PendKind) : Out :=
  memIssue h [.s d] s (fun s w => atomAddr s w ord ty a b) fun s w a =>
    if ord = .sc && !s.me.scReady w.fr then .wait .acquire true
    else
      let f := w.fr
      let tags := s.me.tagsOf f.ctx a.region a.dev a.off a.n
      if s.me.slotsFull tags then .wait .stall false
      else
        let wide := Order.acq ord && (Scope.wide sc || ord = .sc)
        let form : LoadForm := ⟨false, false, false, Order.acq ord, wide, ord = .sc⟩
        if a.region = 0xFF then
          if Order.rel ord && Scope.wide sc && !s.me.settled f s.me.stamp then .wait .acquire true
          else .ok ((sysAtomic s w (kind w) a form).modTop Window.advance)
        else
        let s := s.modMe fun k =>
          let k := if a.region = 1 ∨ a.dev = s.dev then k.l1Drop f.ctx (lineMeets a.region a.off (a.off + a.n)) else k
          let k := k.close fun e => e.ofTicket f && e.block f.ctx a.region a.dev (a.off / 64)
          let k := if Order.rel ord then k.closeTicket f else k
          k.count tags true
        let s := startAccess s w (kind w) a form (Order.rel ord && Scope.wide sc) tags [(a.off, a.n)]
        .ok ((if ord = .sc then s.modMe fun k => { k with scSeq := k.scSeq + 1 } else s).modTop Window.advance)

def execAmo (h : Hdr) (sc : Scope) (ord : Order) (ty : Ty) (opc : AmoOp) (d : SReg) (a : SK) (b : SI) (s : State) : Out :=
  atomIssue h d sc ord ty a b s fun w => .amo opc ty d (w.rdS d)

/-- s2j+1 is read at issue (R270). -/
def execCas (h : Hdr) (sc : Scope) (ord : Order) (ty : Ty) (d : SReg) (a : SK) (b : SI) (s : State) : Out :=
  atomIssue h d sc ord ty a b s fun w => .cas ty d (w.rdS d) (w.rdS (d + 1))

/-! ### Prefetch (R280) -/

/-- PREF never faults; a check that fails makes it do nothing. -/
def execPref (h : Hdr) (l2 : Bool) (a : SK) (b : SI) (s : State) : Out :=
  issue h false [] s fun s w =>
    if s.me.held w.fr then .wait .acquire false
    else match formAddr s w a (w.siInt b) 1 pREAD 1 with
      | .error _ => .ok (s.modTop Window.advance)
      | .ok a =>
        if a.region = 3 ∨ a.region = 0xFE ∨ a.region = 0xFF then .ok (s.modTop Window.advance)
        else
          let fill := !l2 && a.cached s && !h.nt
          .ok ((startLoad s w .pref { a with off := a.off / 128 * 128, n := 128 }
            ⟨false, !l2 && a.cached s, fill, false, false, false⟩).modTop Window.advance)

end Sys2Proof.Machine
end

