-- ==== Sys2Proof/Machine/Chits.lean ====
section
/-! DEFINITION. Chits.lean: sending chits and successor releases (R350, R352, R353, R397, R415, R463). -/

namespace Sys2Proof.Machine

/-- A byte of a context's memory as a reader at its home slice would see it; zero where nothing translates it. -/
def State.peek (s : State) (x : Ctx) (region : BitVec 8) (off : Nat) : Byte :=
  match s.entryFor x region off with
  | some e => if pteKind e = 0 then s.byteAt x region off e else 0
  | none => 0

def State.peekNat (s : State) (x : Ctx) (region : BitVec 8) (off n : Nat) : Nat :=
  leNat ((List.range n).map fun i => s.peek x region (off + i))

/-- PRIO of the ticket at a region 0x00 offset: the lane of a release of it (R415). -/
def State.ticketPrio (s : State) (x : Ctx) (off : Nat) : Nat := (s.peek x 0 (off + 8)).toNat % 8

/-- Send a chit; one of a context that was torn down is dropped (R353). -/
def State.sendChit (s : State) (src : Nat) (fr : Frame) (c : Chit) : State :=
  if !s.holds? c.ctx then s
  else
    let c := { c with colour := s.colourOf src c.ctx }
    let s := s.countSent src c.ctx
    if c.tdev = s.dev then { s with chits := s.chits ++ [⟨c, src, fr, none⟩] }
    else { s with out := s.out ++ [.chit c] }

/-- A RELEASE chit for a successor (R350, R415). -/
def releaseChit (s : State) (x : Ctx) (off : Nat) : Chit :=
  { kind := .release
    lane := Fin.ofNat 8 (s.ticketPrio x off)
    ctx := x
    tdev := s.dev
    tdie := s.ticketDie x off
    tcore := 0
    region := 0
    off := off
    arg := 0
    colour := false }

/-- Release a successor at once; 0 names none (R350). -/
def State.release (s : State) (src : Nat) (fr : Frame) (x : Ctx) (nxt : W64) : State :=
  if nxt = 0 then s else s.sendChit src fr (releaseChit s x nxt.toNat)

/-- Release a successor on a device (R365). -/
def State.releaseOn (s : State) (dev src : Nat) (fr : Frame) (x : Ctx) (nxt : W64) : State :=
  if nxt = 0 then s else s.sendChit src fr { releaseChit s x nxt.toNat with tdev := dev }

/-- Release a successor once the entries and atomics that its ticket issued before `stamp` are done (R397); `die` is that of a crier
from which the release comes (R437). -/
def State.releaseBy (s : State) (die : Option Nat) (core : Nat) (fr : Frame) (stamp : Nat) (nxt : W64) : State :=
  let c := { releaseChit s fr.ctx nxt.toNat with die := die }
  if nxt = 0 then s
  else if (s.core core).settled fr stamp then s.sendChit core fr c
  else s.modCore core fun k => { k with defer := k.defer ++ [⟨fr.serial, fr.ctx, stamp, true, .chit c, fr, []⟩] }

/-- Release what an operation of a core captured (R397). -/
def State.releaseAfter (s : State) (core : Nat) (fr : Frame) (stamp : Nat) (nxt : W64) : State := s.releaseBy none core fr stamp nxt

/-- The place of the chit at `k` among those of its lane, source and target: the first may arrive (R353). -/
def chitFirst (cs : List Flying) (k : Nat) : Bool :=
  match cs[k]? with
  | none => false
  | some c => !((cs.take k).any fun d => decide (d.c.lane = c.c.lane) && decide (d.src = c.src)
      && decide (d.c.tdie = c.c.tdie) && decide (d.c.tcore = c.c.tcore))

/-- Take the chit an arrival event names, of one of the kinds it handles (R353). -/
def State.takeChit (s : State) (x : ChitRef) (ok : ChitKind → Bool) : Option (Flying × State) :=
  match x with
  | .ext dev core c => if ok c.kind && c.tdev = s.dev then
      some (⟨c, core, { probeFrame with ctx := c.ctx, sys := false, pri := c.lane.val, lvl := c.lane.val }, some dev⟩, s)
    else none
  | .sent k =>
    match s.chits[k]? with
    | some c => if ok c.c.kind && chitFirst s.chits k then some (c, { s with chits := s.chits.eraseIdx k }) else none
    | none => none

end Sys2Proof.Machine
end

