-- ==== Sys2Proof/Machine/Stubs.lean ====
section
/-! DEFINITION. Stubs.lean: the stub table and what a stub does with a request (R58, R59, R61 to R63), the owner cache
(R50 to R53), TLB invalidation (R36) and the writing back of L2 lines (R94, R96). -/

namespace Sys2Proof.Machine

/-! ### Stub records (R58) -/

structure Stub where
  owner : Nat
  st : Nat
  big : Bool
  gen : BitVec 32
  acks : Nat
  tcre : Nat
  sharers : Nat
  ctx : Ctx
  page : Nat
  deriving DecidableEq, Repr

def Stub.ofNat (n : Nat) : Stub :=
  { owner := bitsOf n 10 0
    st := bitsOf n 12 11
    big := decide (bitsOf n 13 13 = 1)
    gen := BitVec.ofNat 32 (bitsOf n 47 16)
    acks := bitsOf n 63 48
    tcre := bitsOf n 127 64
    sharers := bitsOf n 177 128
    ctx := BitVec.ofNat 16 (bitsOf n 207 192)
    page := bitsOf n 239 208 }

def Stub.toNat (t : Stub) : Nat :=
  t.owner % 2 ^ 11 + t.st % 4 * 2 ^ 11 + bit t.big * 2 ^ 13 + t.gen.toNat * 2 ^ 16 + t.acks % 2 ^ 16 * 2 ^ 48
    + t.tcre % 2 ^ 64 * 2 ^ 64 + t.sharers % 2 ^ 50 * 2 ^ 128 + t.ctx.toNat * 2 ^ 192 + t.page % 2 ^ 32 * 2 ^ 208

/-- Live or draining; the other codes are free (R58). -/
def Stub.on (t : Stub) : Bool := t.st = 1 || t.st = 2

def State.stub (s : State) (i : Nat) : Stub := Stub.ofNat (memNat s.mem (s.stbase + 32 * i) 32)

def State.setStub (s : State) (i : Nat) (t : Stub) : State :=
  s.physWrite (s.stbase + 32 * i) (natBytes 32 t.toNat)

/-- The first record in a free state (R55). -/
def State.freeStub (s : State) : Option Nat :=
  let used := (stubNums s.stbase s.mem).filter fun i => (s.stub i).on
  (List.range (used.length + 1)).find? fun i => decide (i < 16384) && !used.contains i

/-- The record of a page that is in use on this device. -/
def State.stubOf (s : State) (x : Ctx) (off : Nat) : Option Nat :=
  (stubNums s.stbase s.mem).find? fun i =>
    let t := s.stub i
    t.on && decide (t.ctx = x) && decide (t.page = pageOf t.big off)

/-- The group of a device: s·q + x (R76). -/
def State.groupOf (s : State) (d : Nat) : Nat := d / s.q

/-- A device can be reached, and the first link of its minimal path is up (R61, R81). -/
def State.pathUp (s : State) (d : Nat) : Bool :=
  s.reachable d && (decide (d = s.dev) || (vget Port.down s.ports (s.mport d)).up)

/-- OWNER-UPDATEs to the q devices of each group of a list; those that cannot be reached are not delivered, and the
stub's own device acknowledges internally (R61). -/
def State.ownerUpdates (s : State) (i : Nat) (t : Stub) (groups : List Nat) : State :=
  let devs := groups.flatMap fun g => (List.range s.q).map fun y => g * s.q + y
  { s with
    acksDue := s.acksDue ++ (if devs.contains s.dev then [⟨t.ctx, t.page, t.big, s.dev, i⟩] else [])
    out := s.out ++ (devs.filter fun d => d != s.dev && s.pathUp d).map fun d =>
      .ownerUpdate d t.ctx t.page t.big t.owner t.gen i }

/-! ### The owner cache (R50 to R53) -/

/-- g1 is newer than g2 (R50). -/
def genNewer (g1 g2 : BitVec 32) : Bool :=
  let d := (g1 - g2).toNat
  decide (1 ≤ d) && decide (d ≤ 2 ^ 31 - 1)

/-- The way a new entry takes: the lowest free one of its set, else that of the least recently used (R51, R53). -/
def ownerWay (set : List OwnerEntry) : Nat :=
  match (List.range 8).find? fun w => !(set.any fun o => o.v && decide (o.way = w)) with
  | some w => w
  | none => match set.getLast? with
    | some o => o.way
    | none => 0

/-- Write the owner cache (R53). DESIGN CHOICE (log 63): overwriting an entry leaves its recency as it was. -/
def State.writeOwner (s : State) (x : Ctx) (page : Nat) (big : Bool) (owner : Nat) (gen : BitVec 32) : State :=
  match s.ownerAt x big page with
  | some o =>
    if genNewer o.gen gen then s
    else { s with owners := s.owners.map fun p => if p = o then { o with owner := owner, gen := gen } else p }
  | none =>
    let i := ownerSet x page
    let way := ownerWay (s.owners.filter fun o => o.set = i)
    { s with owners := ⟨i, way, true, big, x, page, owner, gen⟩ :: s.owners.filter fun o => !(decide (o.set = i) && decide (o.way = way)) }

/-! ### TLBs and lines -/

/-- Invalidate at every slice the TLB entries that match an address of a page, of whatever size (R34, R36). -/
def State.tlbDrop (s : State) (x : Ctx) (size : Nat) (region : BitVec 8) (off : Nat) : State :=
  { s with slices := s.slices.map fun (p : Nat × Slice) => (p.1, { p.2 with
      tlb := p.2.tlb.filter fun t => !tlbMeets x size region off t }) }

/-- Write back and invalidate the lines of a slice that a test names (R96). -/
def State.flushLines (s : State) (sl : Nat) (gone : L2Line → Bool) : State :=
  let ls := (s.slice sl).lines
  let s := (ls.filter gone).foldl State.writeBack s
  s.modSlice sl fun t => { t with lines := t.lines.filter fun l => !gone l }

/-- A line lies in a region 0x01 page of a context. -/
def lineInPage (x : Ctx) (page : Nat) (big : Bool) (l : L2Line) : Bool :=
  decide (l.ctx = x) && decide (l.line / 2 ^ 57 = 1) && decide (pageOf big (l.line % 2 ^ 57 * 128) = page)

/-- Set a migration hold: every slice writes back and invalidates its lines of the page (R56, R96). -/
def State.setHold (s : State) (x : Ctx) (page : Nat) (big : Bool) : State :=
  let s := (s.slices.map Prod.fst).foldl (fun s sl => s.flushLines sl (lineInPage x page big)) s
  { s with holds := s.holds ++ [⟨x, page, big⟩] }

def State.clearHold (s : State) (x : Ctx) (page : Nat) (big : Bool) : State :=
  { s with holds := s.holds.filter fun h => !(decide (h.ctx = x) && decide (h.page = page) && h.big = big) }

/-- A hold covers an offset of region 0x01. -/
def State.heldPage (s : State) (x : Ctx) (off : Nat) : Bool :=
  s.holds.any fun h => decide (h.ctx = x) && decide (h.page = pageOf h.big off)

/-! ### Requests at a stub (R61 to R63) -/

/-- The group bit of a requester goes into SHARERS; a draining stub informs a new group (R61). -/
def State.addSharer (s : State) (i dev : Nat) : State :=
  let t := s.stub i
  let g := s.groupOf dev
  if bitsOf t.sharers g g = 1 then s
  else
    let t := { t with sharers := t.sharers + 2 ^ g }
    if t.st = 2 then (s.setStub i { t with acks := t.acks + s.q }).ownerUpdates i t [g]
    else s.setStub i t

/-- Where an answer to a request goes: the stub that relayed it last, else the requester (R60, R61). -/
def backDev (r : PeerReq) : Nat := r.path.head?.getD r.dev

/-- A request meets stub `i`: relayed with FC + 1, or answered with REDIRECT-ONLY along its path at FC = 2 (R61). DESIGN CHOICE (log 63):
one that finds the stub's record free, for which R61 has no event, is answered by nobody. -/
def State.atStub (s : State) (i : Nat) (r : PeerReq) : State :=
  let t := s.stub i
  if !t.on then s
  else if r.fc ≤ 1 then
    let s := s.addSharer i r.dev
    { s with
      relays := s.relays ++ [⟨i, r⟩]
      out := s.out ++ [.request t.owner { r with fc := r.fc + 1, ord := true, path := s.dev :: r.path }] }
  else { s with out := s.out ++ [.redirectOnly (backDev r) r.core r.id t.ctx t.page t.big t.owner t.gen] }

end Sys2Proof.Machine
end

