-- ==== Sys2Proof/Machine/PageTable.lean ====
section
/-! DEFINITION. PageTable.lean: what firmware does to page tables: entries found, written and removed, and the refusals
of R511 (R30 to R36). -/

namespace Sys2Proof.Machine

/-- The address of a VPN's bucket entries, in ascending order. -/
def slotAddrs (tr sz : Nat) (region : BitVec 8) (off : Nat) : List Nat :=
  (List.range 8).map fun i => bucketAddr tr sz (vpnOf sz region off) + 8 * i

/-- The tag of an address at a size (R31). -/
def tagOf (tr sz : Nat) (region : BitVec 8) (off : Nat) : Nat := vpnOf sz region off / 2 ^ ptn tr

/-- The valid entry of the bucket with this size and tag: its address and its value (R511). -/
def State.slotOf (s : State) (tr sz : Nat) (region : BitVec 8) (off : Nat) : Option (Nat × Nat) :=
  ((slotAddrs tr sz region off).map fun a => (a, memNat s.mem a 8)).find? fun p =>
    pteV p.2 && decide (pteSz p.2 = sz) && decide (pteTag p.2 = tagOf tr sz region off)

/-- The lowest free slot of the bucket (R511). -/
def State.freeSlot (s : State) (tr sz : Nat) (region : BitVec 8) (off : Nat) : Option Nat :=
  (slotAddrs tr sz region off).find? fun a => !pteV (memNat s.mem a 8)

/-- An entry with its TAG field replaced. -/
def withTag (e tag : Nat) : Nat := e - pteTag e * 2 ^ 11 + tag % 2 ^ 20 * 2 ^ 11

/-- The virtual address of the entry of bucket `idx`, as region × 2^48 + offset (R31). -/
def pteVa (tr idx e : Nat) : Nat :=
  let n := ptn tr
  let vpn := pteTag e * 2 ^ n + (idx ^^^ foldX n 8 (pteTag e) ^^^ pageSalt (pteSz e))
  vpn * 2 ^ pageShift (pteSz e)

/-- The entries of a context's table of which some byte is listed: bucket number and value. -/
def tableEntries (tr : Nat) (m : Mem) : List (Nat × Nat) :=
  let base := ptb tr
  let ks := ((m.filter fun c => decide (base ≤ c.1) && decide (c.1 < base + 64 * 2 ^ ptn tr)).map fun c => (c.1 - base) / 8).eraseDups
  ks.map fun k => (k / 8, memNat m (base + 8 * k) 8)

/-- A mapping of the same physical bytes at another virtual address (R35). -/
def synonym (tr : Nat) (m : Mem) (va e : Nat) : Bool :=
  let sz := 2 ^ pageShift (pteSz e)
  let pa : Nat := pteFrame e * 2 ^ 16
  (tableEntries tr m).any fun p =>
    let f := p.2
    let osz := 2 ^ pageShift (pteSz f)
    let opa : Nat := pteFrame f * 2 ^ 16
    let ova : Nat := pteVa tr p.1 f
    pteSound f && decide (pteKind f = pteKind e) && decide (pteKind e ≠ 2)
      && !(decide (pteSz f = pteSz e) && decide (ova = va))
      && decide (pa < opa + osz) && decide (opa < pa + sz) && decide ((va : Int) - (pa : Int) ≠ (ova : Int) - (opa : Int))

/-- The status of a MAP that creates or changes an entry; 0 where firmware carries it out (R511). -/
def State.mapStatus (s : State) (x : Ctx) (region off e : Nat) : Nat :=
  let tr := s.trans x
  let sz := pteSz e
  let r : BitVec 8 := BitVec.ofNat 8 region
  if 4 ≤ region ∨ 2 ^ 48 ≤ off ∨ (sz ≠ 3 ∧ off % 2 ^ pageShift sz ≠ 0) then cADDR
  else if !pteSound (withTag e 0) then cADDR
  else if ((region = 0 ∨ region = 2) ∧ pteKind e ≠ 0) ∨ (region = 1 ∧ pteKind e = 1) ∨ (region = 3 ∧ pteKind e ≠ 1)
      ∨ (region = 1 ∧ sz = 2) then cADDR
  else if ptnOk tr && synonym tr s.mem (region * 2 ^ 48 + off) e then cPERM
  else if !ptnOk tr then cBUFFER
  else if (s.slotOf tr sz r off).isNone && (s.freeSlot tr sz r off).isNone then cBUFFER
  else 0

/-- Write an entry at its slot, and invalidate TLB entries (R36, R511). -/
def State.mapPut (s : State) (x : Ctx) (region off e : Nat) : State :=
  let tr := s.trans x
  let sz := pteSz e
  let r : BitVec 8 := BitVec.ofNat 8 region
  let slot := match s.slotOf tr sz r off with
    | some (a, _) => some a
    | none => s.freeSlot tr sz r off
  match slot with
  | some a =>
    (s.physWrite a (natBytes 8 (withTag e (tagOf tr sz r off)))).tlbDrop x sz r off
  | none => s

/-- Remove an entry (R511). DESIGN CHOICE (log 63): with a PTN outside 14 to 26 the table has no entry to remove, and the removal
changes nothing and ends with status 0. -/
def State.mapRemove (s : State) (x : Ctx) (region off sz : Nat) : State :=
  let r : BitVec 8 := BitVec.ofNat 8 region
  if !ptnOk (s.trans x) then s
  else match s.slotOf (s.trans x) sz r off with
    | some (a, _) => (s.physWrite a (natBytes 8 0)).tlbDrop x sz r off
    | none => s

/-- A page's owned record on this device. -/
def State.ownedOf (s : State) (x : Ctx) (page : Nat) (big : Bool) : Option Owned :=
  s.owned.find? fun o => decide (o.ctx = x) && decide (o.page = page) && o.big = big

def State.dropOwned (s : State) (x : Ctx) (page : Nat) (big : Bool) : State :=
  { s with owned := s.owned.filter fun o => !(decide (o.ctx = x) && decide (o.page = page) && o.big = big) }

end Sys2Proof.Machine
end

