-- ==== Sys2Proof/Machine/Slices.lean ====
section
/-! DEFINITION. Slices.lean: the L2 home slices: translation and permission of an access, lines, loads, store drains,
atomics, watches met by a write, page walks and faults (R37 to R42, R92 to R97, R109, R112 to R114, R365, R399, R513). -/

namespace Sys2Proof.Machine

/-- An access as a slice sees it. -/
structure Ask where
  x : Ctx
  region : BitVec 8
  off : Nat
  n : Nat
  kind : AccKind
  /-- an access that writes -/
  wr : Bool
  /-- an atomic of order ACQ, AR or SC -/
  ac : Bool
  sys : Bool
  pref : Bool
  core : Nat
  dev : Nat
  sc : Bool
  seq : BitVec 32
  /-- of the ordered class (R85) -/
  ord : Bool := true
  /-- by the fabric input: of another device, or relayed by a stub (R94) -/
  fab : Bool := false
  deriving DecidableEq, Repr

/-- What a slice makes of an access before performing it. -/
inductive SlRes where
  | ok (s : State) (sl e : Nat)
  | stub (s : State) (i : Nat)
  /-- a write denied by WR (R37) -/
  | denied (s : State)
  | notHeld
  | missed (s : State) (sl : Nat)
  /-- a prefetch at a hold (R280) -/
  | drop
  /-- walking, held, or not yet accepted -/
  | wait (s : State)
  deriving DecidableEq, Repr

/-- Where a fault message of an access comes from (R39). -/
def Ask.by' (a : Ask) : MissBy := ⟨a.kind, a.dev, a.core⟩

/-- The step of R97 in which an access is performed within its tick; an SC form comes last (R399). -/
def Ask.rank (a : Ask) : Nat :=
  if a.sc then 4
  else if a.kind = .atomic then 0
  else if a.wr && decide (a.kind ≠ .load) then (if a.fab then 2 else 1)
  else 3

/-- The place of an STSC's entry in its core's SC sequence (R272). -/
def Core.entrySeq (k : Core) (e : JEntry) : BitVec 32 :=
  match k.pend.find? fun p => p.kind = .stsc && p.fr.same e.fr with
  | some p => p.seq
  | none => 0

/-- The access a reference names, if it stands at a slice of this device. -/
def State.askOf (s : State) : AccRef → Option Ask
  | .pend c id i =>
    match (s.core c).pend.find? fun p => p.id = id with
    | some p => match p.parts[i]? with
      | some q =>
        if q.st = .queued ∧ p.region.toNat ≤ 3 then
          some { x := p.ctx, region := p.region, off := q.off, n := q.n
                 kind := if p.atomic then .atomic else if p.engine then .engine else .load
                 wr := match p.kind with | .engWrite _ _ => true | _ => false
                 ac := p.atomic && p.acq, sys := p.fr.sys, pref := decide (p.kind = .pref), core := c
                 dev := s.dev, sc := p.sc, seq := p.seq }
        else none
      | none => none
    | none => none
  | .jrn c i =>
    match (s.core c).jrn.find? fun e => e.idx = i with
    | some e =>
      if e.st = .draining ∧ e.region.toNat ≤ 3 ∧ e.dev = s.dev then
        some { x := e.ctx, region := e.region, off := e.blk * 64, n := 64, kind := .store, wr := true, ac := false
               sys := e.fr.sys, pref := false, core := c, dev := s.dev, sc := e.sc
               seq := (s.core c).entrySeq e }
      else none
    | none => none
  | .peer r =>
    let wr := match r.kind with
      | .store _ _ => true
      | _ => false
    if 3 < r.region.toNat then none
    else
    some { x := r.ctx, region := r.region, off := r.off, n := r.n
           kind := if r.eng then .engine else match r.kind with
             | .load => .load
             | .store _ _ => .store
             | _ => .atomic
           wr := wr, ac := r.ac, sys := r.sys, pref := r.pref, core := r.core, dev := r.dev, sc := r.sc, seq := r.seq
           ord := r.ord, fab := true }

/-- An accepted access that still stands at the slice. A message of another device stands until its own event. -/
def State.standing (s : State) (e : Accepted) : Bool :=
  match e.who with
  | .acc r => (s.askOf r).isSome
  | .packet c j _ => (s.core c).copies.any fun o => o.tid = j
  | .operand c j => (s.core c).mjobs.any fun o => o.tid = j
  | .porter c r => (vget Ring.zero (s.core c).rings r).bound
  | .fetch c w => ((s.core c).wins ++ (s.core c).spilled).any fun o => o.wid = w && o.park = some .fetch
  | .exchange d => !(s.exch d).input.isEmpty
  | .chit x region off ext => ext
      || (s.chits.any fun c => decide (c.c.ctx = x) && decide (c.c.region = region) && decide (c.c.off = off))
      || (s.watchMsgs.any fun c => decide (c.ctx = x) && decide (c.region = region) && decide (c.off = off))

/-- The record of an access on its line. -/
def Accepted.is (e : Accepted) (who : Waiter) (a : Ask) : Bool :=
  decide (e.who = who) && decide (e.region = a.region) && decide (e.off / 128 = a.off / 128)

/-- Of two accesses to one line: the order of acceptance, within one tick that of R97. An SC form comes after every other access
accepted in its window; SC forms of one window come in ascending order of core and sequence (R399). -/
def Accepted.first (e m : Accepted) : Bool :=
  if decide (e.rank = 4) = decide (m.rank = 4) then
    if e.rank = 4 ∧ e.tick / 8 = m.tick / 8 then
      decide (e.core < m.core) || (decide (e.core = m.core) && decide (e.seq.toNat ≤ m.seq.toNat))
    else decide (e.tick < m.tick) || (decide (e.tick = m.tick) && decide (e.rank ≤ m.rank))
  else if e.tick / 8 = m.tick / 8 then decide (m.rank = 4)
  else decide (e.tick < m.tick)

/-- Two atomics arrived by different inputs in one tick (R114). -/
def Accepted.ties (e m : Accepted) : Bool :=
  decide (e.rank = 0) && decide (m.rank = 0) && decide (e.tick = m.tick) && decide (e.fab ≠ m.fab)

/-- Two accesses keep their order of arrival: of one ordered stream from another device (R87), or of one region 0x01 page (R56,
R69). -/
def keepOrder (e m : Accepted) : Bool :=
  decide (e.ctx = m.ctx) && decide (e.region = m.region)
    && ((e.ord && m.ord && e.fab && m.fab && decide (e.dev = m.dev) && decide (e.core = m.core)
          && decide (e.off / 2 ^ 16 = m.off / 2 ^ 16))
      || (decide (m.region = 1) && decide (e.off / 2 ^ 21 = m.off / 2 ^ 21)))

/-- An accepted access that another must follow: of its line (R97, R114), one whose order it keeps, or an atomic of its input at
the port (R114). `later`: it stands behind in the input. Atomics that tie follow the toggle instead. -/
def follows (later : Bool) (e m : Accepted) : Bool :=
  !e.ties m && e.first m && !(later && e.tick = m.tick && e.rank = m.rank && e.rank ≠ 4)
    && ((decide (e.ctx = m.ctx) && decide (e.region = m.region) && decide (e.off / 128 = m.off / 128))
      || (!later && (keepOrder e m || (decide (e.rank = 0) && decide (m.rank = 0) && decide (e.fab = m.fab)))))

/-- The record of an access that its slice accepts now. -/
def acceptedOf (s : State) (who : Waiter) (a : Ask) : Accepted :=
  { who := who, ctx := a.x, region := a.region, off := a.off, dev := a.dev, core := a.core, tick := s.tick.toNat
    rank := a.rank, ord := a.ord, stuck := false, fab := a.fab, seq := a.seq }

/-- Accesses that the migration holds of a slice hold (R57). -/
def State.heldAt (s : State) (sl : Nat) : Nat :=
  ((s.slice sl).input.filter fun e => s.standing e && decide (e.region = 1) && s.heldPage e.ctx e.off).length

/-- In this tick the slice has performed accesses of a later step of R97 on the line. -/
def Slice.past (l : Slice) (now : Nat) (a : Ask) (rank : Nat) : Bool :=
  decide (l.doneAt = now) && l.done.any fun d =>
    decide (d.1 = a.x) && decide (d.2.1 = vaOf a.region a.off / 128) && decide (rank < d.2.2)

/-- An atomic arrives in the tick in which the port has performed one of the other input that arrived in it: a tie, in which the
toggle gave that one the first place, or else this one arrives a tick later (R114). -/
def Slice.lateTie (l : Slice) (now : Nat) (a : Ask) : Option Bool :=
  match l.port with
  | some (t, f) => if a.rank = 0 ∧ t = now ∧ f ≠ a.fab then some (decide (f = l.toggle)) else none
  | none => none

/-- The slice accepts the access, if it has not before: not while 64 accesses are held, nor while a miss waits for a
pending-fault entry (R39, R57), nor behind a later step of its tick (R97) where the two keep their order. -/
def State.accept (s : State) (sl : Nat) (who : Waiter) (a : Ask) : Option State :=
  let l := s.slice sl
  let now := s.tick.toNat
  if l.input.any fun e => e.is who a then some s
  else if 64 ≤ s.heldAt sl || (l.input.any fun e => e.stuck && s.standing e) || l.past now a a.rank
      || (l.input.any fun e => s.standing e && decide (e.tick = now) && decide (a.rank < e.rank)
        && keepOrder e (acceptedOf s who a)) then none
  else
    let put (t : Slice) : Slice := { t with input := t.input ++ [acceptedOf s who a] }
    match l.lateTie now a with
    | some false => none
    | some true => some (s.modSlice sl fun t => { put t with toggle := !t.toggle, port := none })
    | none => some (s.modSlice sl put)

/-- An access of the slice's input comes before this one and is not performed. -/
def State.overtakes (s : State) (sl : Nat) (who : Waiter) (a : Ask) : Bool :=
  let l := s.slice sl
  let m := (l.input.find? fun e => e.is who a).getD (acceptedOf s who a)
  ((l.input.takeWhile fun e => !e.is who a).any fun e => e.who ≠ who && s.standing e && follows false e m)
    || ((l.input.dropWhile fun e => !e.is who a).any fun e => e.who ≠ who && s.standing e && follows true e m)

/-- Another atomic ties with this one (R114): one that stands at the slice and waits for no translation. -/
def State.tied (s : State) (sl : Nat) (who : Waiter) (a : Ask) : Bool :=
  let l := s.slice sl
  match l.input.find? fun e => e.is who a with
  | some m => l.input.any fun e => e.ties m && s.standing e && !s.blocked e.who
  | none => false

/-- An SC form performs at the last tick of a window, in ascending order of core and sequence: after the forms of smaller place
that stand at slices, and before none of greater place that has performed (R399). One of another device has no place here (R401). -/
def State.scTurn (s : State) (core : Nat) (seq : BitVec 32) (fab : Bool) : Bool :=
  let less (c : Nat) (q : BitVec 32) (d : Nat) (r : BitVec 32) : Bool :=
    decide (c < d) || (decide (c = d) && decide (q.toNat < r.toNat))
  decide (s.tick.toNat % 8 = 7)
    && (fab || (!(s.scForms.any fun f => decide (f.window = s.tick.toNat / 8) && less core seq f.core f.seq)
      && !(s.slices.any fun p => p.2.input.any fun e => decide (e.rank = 4) && !e.fab && decide (e.tick / 8 = s.tick.toNat / 8)
          && less e.core e.seq core seq && s.standing e && !s.blocked e.who)))

/-- The atomic port has performed its atomic of this tick (R114). -/
def Slice.portBusy (l : Slice) (now : Nat) : Bool := decide (l.doneAt = now) && l.done.any fun d => decide (d.2.2 = 0)

/-- The entry that translates an access at its slice: of the TLB, where the hit becomes the most recent; or, for a line that the
slice holds, of the table, since only a line miss walks (R33, R37, R95). -/
def State.sliceEntry (s : State) (sl : Nat) (a : Ask) : Option (State × Nat) :=
  match tlbFind (s.slice sl).tlb a.x a.region a.off with
  | some t => some (s.modSlice sl fun l => { l with tlb := tlbFill l.tlb t }, t.pte.toNat)
  | none =>
    if ((s.slice sl).findLine a.x (vaOf a.region a.off / 128)).isSome then
      (walkTable s.mem (s.trans a.x) a.region a.off).map fun e => (s, e)
    else none

/-- Acceptance, order, migration holds, translation and permission at the home slice (R37, R56, R57, R95, R97, R114, R399,
R513). -/
def State.slicePass (s : State) (who : Waiter) (a : Ask) : SlRes :=
  if !s.holds? a.x then .notHeld
  else
    let sl := s.home a.x a.region a.off
    match s.accept sl who a with
    | none => .wait s
    | some s =>
      if s.blocked who || s.overtakes sl who a || (a.sc && !s.scTurn a.core a.seq a.fab)
          || (a.kind = .atomic && ((s.slice sl).portBusy s.tick.toNat
            || (s.tied sl who a && decide (a.fab ≠ (s.slice sl).toggle)))) then .wait s
      else if a.region = 1 && s.heldPage a.x a.off then (if a.pref then .drop else .wait s)
      else match s.sliceEntry sl a with
        | none => .wait (s.startWalk sl a.x a.region a.off a.by' a.sys who)
        | some (s, e) =>
          if pteKind e = 2 then .stub s (pteFrame e)
          else if permits e a.kind a.wr a.ac then .ok s sl e
          else if a.kind = .store || (a.kind = .engine && a.wr) then .denied s
          else .missed s sl

/-- An access leaves the slice's input. -/
def State.leaveSlice (s : State) (who : Waiter) (a : Ask) : State :=
  s.modSlice (s.home a.x a.region a.off) fun l => { l with input := l.input.filter fun e => !e.is who a }

/-- An access has been performed in this tick (R97, R114). The toggle inverts after a tie; an atomic performed in the tick of its
arrival may tie with one that arrives later in the tick. -/
def State.performed (s : State) (who : Waiter) (a : Ask) : State :=
  let now := s.tick.toNat
  let sl := s.home a.x a.region a.off
  let tie := decide (a.rank = 0) && s.tied sl who a
  let fresh := decide (a.rank = 0) && !tie && (s.slice sl).input.any fun e => e.is who a && decide (e.tick = now)
  let line := vaOf a.region a.off / 128
  (s.leaveSlice who a).modSlice sl fun l =>
    { l with doneAt := now
             done := (if l.doneAt = now then l.done else []) ++ (if a.kind = .atomic ∧ a.sc then [(a.x, line, 0)] else [])
               ++ [(a.x, line, a.rank)]
             toggle := if tie then !l.toggle else l.toggle
             port := if fresh then some (now, a.fab) else l.port }

/-! ### Lines (R94) -/

/-- The set of a line (R94). -/
def l2Set (line : Nat) : Nat := foldX 11 8 line

/-- The tags memory holds for a line (R44). -/
def memTags (mtags : List Nat) (pa : Nat) : List Bool := (List.range 8).map fun i => mtags.contains (pa / 16 + i)

/-- Bring a line to the front of its slice: a hit, or a fill that may write the oldest line of its set back (R94). -/
def State.useLine (s : State) (sl : Nat) (x : Ctx) (region : BitVec 8) (off e : Nat) : State × L2Line :=
  let line := vaOf region off / 128
  let same (l : L2Line) : Bool := decide (l.ctx = x) && decide (l.line = line)
  match (s.slice sl).lines.find? same with
  | some l => (s.modSlice sl fun t => { t with lines := l :: t.lines.filter fun m => !same m }, l)
  | none =>
    let pa := ptePa e off / 128 * 128
    let set := (s.slice sl).lines.filter fun m => decide (l2Set m.line = l2Set line)
    let s := match (if set.length < 16 then none else set.getLast?) with
      | some v => s.flushLines sl fun m => decide (m.ctx = v.ctx) && decide (m.line = v.line)
      | none => s
    let l : L2Line := ⟨x, line, pa, false, memRead s.mem pa 128, memTags s.mtags pa⟩
    (s.modSlice sl fun t => { t with lines := l :: t.lines }, l)

/-- Bytes put into a list where they are there. -/
def putAt : List Byte → Nat → List (Option Byte) → List Byte
  | l, _, [] => l
  | l, i, none :: r => putAt l (i + 1) r
  | l, i, some b :: r => putAt (l.set i b) (i + 1) r

/-- Write bytes of a line: the tags of the units touched are cleared, but for a key's own tag (R44). -/
def L2Line.write (l : L2Line) (i : Nat) (bs : List (Option Byte)) (tag : Bool) : L2Line :=
  let touched (u : Nat) : Bool :=
    (List.range bs.length).any fun j => (bs.getD j none).isSome && decide ((i + j) / 16 = u)
  { l with
    dirty := true
    data := putAt l.data i bs
    tags := (List.range 8).map fun u => if touched u then tag else l.tags.getD u false }

def State.putLine (s : State) (sl : Nat) (l : L2Line) : State :=
  s.modSlice sl fun t => { t with lines := l :: t.lines.filter fun m => !(decide (m.ctx = l.ctx) && decide (m.line = l.line)) }

/-! ### Watches (R365) -/

/-- A watch is satisfied by a value (R365). -/
def watchMet (value threshold : W64) : Bool := !(value - threshold).msb

/-- After a write of `n` bytes at an offset, the watches of its slice on the dwords written are evaluated (R365). -/
def State.fireWatches (s : State) (sl : Nat) (x : Ctx) (region : BitVec 8) (off n : Nat) : State :=
  let met (w : Watch) : Bool :=
    decide (w.ctx = x) && decide (w.region = region) && decide (off < w.off + 8) && decide (w.off < off + n)
      && watchMet (BitVec.ofNat 64 (s.peekNat x region w.off 8)) w.threshold
  let l := s.slice sl
  let fired := (l.watches ++ l.extraWatches).filter met
  let s := s.modSlice sl fun t =>
    { t with watches := t.watches.filter fun w => !met w, extraWatches := t.extraWatches.filter fun w => !met w }
  fired.foldl (fun s w => s.releaseOn w.dev (1000 + sl) w.fr w.ctx w.nxt) s

/-! ### Memory behind an entry -/

/-- The bridge of a device's group: the device itself where it stands alone (R90, log 63). -/
def State.bridgeOf (s : State) (dev : Nat) : Nat := if bitsOf s.fabcfg.toNat 14 14 = 0 then s.dev else dev / s.q * s.q

/-- The state of port 37 of the bridge of this device's group, as far as this device knows it (R91, log 63). -/
def State.hostPort (s : State) : Bool := (vget Port.down s.ports 37).up

/-- The host can be reached through the bridge of a device's group (R38, R90, R91): of another group's bridge only the way to it
is known here. -/
def State.bridgeUp (s : State) (dev : Nat) : Bool :=
  let b := s.bridgeOf dev
  (decide (s.bridgeOf s.dev ≠ b) || s.hostPort) && (decide (b = s.dev) || s.pathUp b)

/-- The outcome of an access to memory behind its entry. -/
inductive MemRes (α : Type) where
  | ok (s : State) (v : α)
  /-- the host refuses the write (R109) -/
  | refused
  /-- no bridge (R91) -/
  | link
  /-- the access goes on to the bridge device, with its host physical address (R38, R90) -/
  | away (bridge pa : Nat)
  | bad (pa : Nat)

/-- The bytes an access reads: the whole line with its base offset, or the host's bytes (R38, R94). -/
def State.readEntry (s : State) (sl : Nat) (a : Ask) (e : Nat) : MemRes (Nat × List Byte × List Bool) :=
  if pteKind e = 1 then
    if !s.bridgeUp a.dev then .link
    else if s.bridgeOf a.dev ≠ s.dev then .away (s.bridgeOf a.dev) (ptePa e a.off)
    else .ok s (a.off, hostRead s.host (ptePa e a.off) a.n, [])
  else if paExists (ptePa e a.off) then
    let r := s.useLine sl a.x a.region a.off e
    .ok r.1 (a.off / 128 * 128, r.2.data, r.2.tags)
  else .bad (ptePa e a.off)

/-- Write bytes of one line (R94, R97), or of host memory; watches are met after it (R365). -/
def State.writeEntry (s : State) (sl : Nat) (a : Ask) (e : Nat) (bs : List (Option Byte)) (tag : Bool) : MemRes Unit :=
  if pteKind e = 1 then
    if !s.bridgeUp a.dev then .link
    else if s.bridgeOf a.dev ≠ s.dev then .away (s.bridgeOf a.dev) (ptePa e a.off)
    else if Config.hostRefuses (ptePa e a.off) then .refused
    else .ok { s with host := hostMask s.host (ptePa e a.off) bs } ()
  else if paExists (ptePa e a.off) then
    let r := s.useLine sl a.x a.region a.off e
    let keeps := a.region = 0 || a.region = 1
    let s := r.1.putLine sl (r.2.write (a.off % 128) bs (tag && keeps))
    .ok (s.fireWatches sl a.x a.region a.off bs.length) ()
  else .bad (ptePa e a.off)

/-! ### Accesses of cores and peers -/

/-- Change one part of an outstanding access. -/
def State.modPart (s : State) (c id i : Nat) (f : Part → Part) : State :=
  s.modCore c fun k => { k with pend := k.pend.map fun p =>
    if p.id = id then { p with parts := p.parts.modify i f } else p }

def State.modEntry (s : State) (c idx : Nat) (f : JEntry → JEntry) : State :=
  s.modCore c fun k => { k with jrn := k.jrn.map fun e => if e.idx = idx then f e else e }

/-- The page size a part or an entry was counted under (R65). -/
def State.partBig (s : State) (c id i : Nat) : Bool :=
  match (s.core c).pend.find? fun p => p.id = id with
  | some p => match p.parts[i]? with
    | some q => q.big
    | none => false
  | none => false

/-- Forget an access whose parts are counted out at the egress (R65, R280). -/
def State.dropPend (s : State) (c id : Nat) : State :=
  let s := match (s.core c).pend.find? fun p => p.id = id with
    | some p =>
      if p.region = 1 then p.parts.foldl (fun (s : State) (q : Part) =>
        if q.st = PartSt.queued ∨ q.st = PartSt.remote then s.egressDone p.ctx q.off q.dev q.big else s) s
      else s
    | none => s
  s.modCore c fun k => { k with pend := k.pend.filter fun p => p.id != id }

/-- A reply to a peer's request, to the stub that relayed it last or to the requester (R60). -/
def State.replyTo (s : State) (q : PeerReq) (data : List Byte) (tag : Bool) (verdict : Nat) : State :=
  { s with out := s.out ++ [.reply (backDev q) q.core q.id data tag verdict q.ctx q.ord] }

/-- Data come back for a load or an atomic, or a write is performed. -/
def State.give (s : State) (r : AccRef) (a : Ask) (base : Nat) (data : List Byte) (tag : Bool) : State :=
  let s := s.performed (.acc r) a
  match r with
  | .pend c id i =>
    let s := if a.region = 1 then s.egressDone a.x a.off s.dev (s.partBig c id i) else s
    s.modPart c id i fun q => { q with st := .done, base := base, data := data, ktag := tag }
  | .jrn c i => s.modEntry c i fun e => { e with st := .performed }
  | .peer q => s.replyTo q (if q.region = 1 then data else sliceBytes data (a.off - base) a.n) tag 0

/-- A prefetch ends without its line: a peer's is answered with no bytes (R280, log 64). -/
def State.dropPref (s : State) (r : AccRef) (a : Ask) : State :=
  let s := s.leaveSlice (.acc r) a
  match r with
  | .pend c id _ => s.dropPend c id
  | .peer q => s.replyTo q [] false 0
  | .jrn _ _ => s

/-- A refusal of an access (R37, R109, R513). -/
def State.refuseAcc (s : State) (r : AccRef) (a : Ask) : State :=
  if a.pref then s.dropPref r a
  else
    let s := s.leaveSlice (.acc r) a
    match r with
    | .jrn c i => s.modEntry c i fun e => { e with st := .refusing }
    | .peer q => s.replyTo q [] false 1
    | .pend c _ _ => s.contextFatal a.x ⟨cREFUSED, a.kind.code, a.region.toNat, a.off⟩ { FaultAt.none with core := c }

/-- A miss (R39, R42, R70, R280). A miss of a peer's SYS access is answered with FATAL. -/
def State.missAcc (s : State) (r : AccRef) (a : Ask) (sl : Nat) : State :=
  if a.pref then s.dropPref r a
  else match r with
  | .peer q =>
    if a.region = 1 && (s.stubOf a.x a.off).isNone
        && !(s.owned.any fun o => decide (o.ctx = a.x) && decide (o.page = pageOf o.big a.off)) then
      let s := s.leaveSlice (.acc r) a
      { s with out := s.out ++ [.misroute q.dev q.core q.id a.x (pageOf false a.off)] }
    else if a.sys then (s.replyTo q [] false 2).miss sl a.x a.region a.off true a.by' (.acc r)
    else s.miss sl a.x a.region a.off false a.by' (.acc r)
  | _ => s.miss sl a.x a.region a.off a.sys a.by' (.acc r)

/-- The request form of an access of this device (R60). -/
def State.asPeer (s : State) (r : AccRef) (a : Ask) : PeerReq :=
  let plain (id : Nat) (k : PKind) (c : Nat) : PeerReq :=
    { dev := s.dev, core := c, id := id, ctx := a.x, region := a.region, off := a.off, n := a.n, kind := k, fc := 0, sys := a.sys }
  match r with
  | .peer q => q
  | .pend c id i => match (s.core c).pend.find? fun p => p.id = id with
    | some p => match p.parts[i]? with
      | some q => partReq s c p i q
      | none => plain id .load c
    | none => plain id .load c
  | .jrn c i => match (s.core c).jrn.find? fun e => e.idx = i with
    | some e => { plain (i * 2 + 1) (.store ((List.range 64).map e.byte) (e.stk && e.tag)) c with sc := e.sc, seq := (s.core c).entrySeq e }
    | none => plain (i * 2 + 1) .load c

/-- From now on an access of this device waits for an answer of another agent; `port` is that of its stream's path (R88). -/
def State.sentOn (s : State) (r : AccRef) (a : Ask) (port : Option Nat) : State :=
  let s := s.leaveSlice (.acc r) a
  match r with
  | .pend c id j => s.modPart c id j fun q => { q with st := .remote, port := port }
  | .jrn c j => s.modEntry c j fun e => { e with st := .relayed, port := port }
  | .peer _ => s

/-- An access is handed to a stub; from then on it waits for REDIRECT (R61). A prefetch is dropped (R280). -/
def State.toStub (s : State) (i : Nat) (r : AccRef) (a : Ask) : State :=
  if a.pref then s.dropPref r a else (s.atStub i (s.asPeer r a)).sentOn r a none

/-- The place of an access of this device in its core's program order: the core, its frame and its stamp; none for an engine's and
for a peer's. -/
def State.placeIn (s : State) (r : AccRef) : Option (Nat × Frame × Nat) :=
  match r with
  | .pend c id _ => ((s.core c).pend.find? fun p => p.id = id && !p.engine).map fun p => (c, p.fr, p.stamp)
  | .jrn c i => ((s.core c).jrn.find? fun e => e.idx = i).map fun e => (c, e.fr, e.stamp)
  | .peer _ => none

/-- A region 0x03 access may leave for the bridge device: the earlier ones of its core, context and 64 KiB range have left, by the
path that the minimal one still is (R87, R88, R90). -/
def State.bridgeTurn (s : State) (bridge : Nat) (r : AccRef) (a : Ask) : Bool :=
  match s.placeIn r with
  | none => true
  | some (c, fr, stamp) =>
    let k := s.core c
    let same (x : Ctx) (region : BitVec 8) (off : Nat) : Bool :=
      decide (x = a.x) && decide (region = a.region) && decide (off / 2 ^ 16 = a.off / 2 ^ 16)
    let ports := ((k.jrn.filter fun e => e.st = .relayed && same e.ctx e.region (e.blk * 64)).filterMap JEntry.port)
      ++ k.pend.flatMap fun p => (p.parts.filter fun q => q.st = .remote && same p.ctx p.region q.off).filterMap Part.port
    !(k.jrn.any fun e => decide (e.stamp < stamp) && same e.ctx e.region (e.blk * 64)
        && (e.st = .draining || ((e.st = .opened || e.st = .closed) && e.ofTicket fr)))
      && !(k.pend.any fun p => decide (p.stamp < stamp) && !p.engine && decide (p.kind ≠ .pref)
        && p.parts.any fun q => (q.st = .queued || q.st = .egress) && same p.ctx p.region q.off)
      && ports.all fun p => decide (p = s.mport bridge)

/-- An access of host memory goes on to the bridge device in its turn, in the ordered class (R38, R87, R90). -/
def State.toBridge (s : State) (bridge pa : Nat) (r : AccRef) (a : Ask) : State :=
  if s.bridgeTurn bridge r a then
    let port := some (s.mport bridge)
    ({ s with out := s.out ++ [OutMsg.hostReq bridge { s.asPeer r a with ord := true, port := port } pa] }).sentOn r a port
  else s

/-! ### SC forms (R272, R399) -/

/-- An SC form of this window has been performed on a line of a window: other accesses to it wait for the next window (R399). -/
def State.scBusy (s : State) (x : Ctx) (line : Nat) : Bool :=
  s.scForms.any fun f => decide (f.window = s.tick.toNat / 8) && decide (f.ctx = x) && decide (f.line = line)

/-- Record an SC form performed in this window (R399). -/
def State.scDone (s : State) (a : Ask) (id : Nat) : State :=
  if a.sc && !a.fab then
    let s := s.modCore a.core fun k => { k with pend := k.pend.map fun p => if p.id = id then { p with scDone := true } else p }
    { s with scForms := s.scForms ++ [⟨s.tick.toNat / 8, a.core, a.seq, id, a.x, vaOf a.region a.off / 128, false⟩] }
  else s

/-- The outstanding access an SC form waits in: itself, or the STSC of its ticket. -/
def State.scId (s : State) (r : AccRef) : Nat :=
  match r with
  | .pend _ id _ => id
  | .jrn c i => match (s.core c).jrn.find? fun e => e.idx = i with
    | some e => match (s.core c).pend.find? fun p => p.kind = .stsc && p.fr.same e.fr with
      | some p => p.id
      | none => 0
    | none => 0
  | .peer _ => 0

/-- LINK for the context of a region 0x03 access without a bridge (R91, R446). -/
def State.linkFatal (s : State) (a : Ask) : State := s.fatalAt a.x cLINK 0 0 37 a.core

/-- LINK for an access: a peer's is answered with that verdict (R60, R91). -/
def State.linkAcc (s : State) (r : AccRef) (a : Ask) : State :=
  match r with
  | .peer q => (s.leaveSlice (.acc r) a).replyTo q [] false 3
  | _ => s.linkFatal a

/-- An entry of its own core that a read by an engine or a fill shall not see: performed, or relayed, and not yet acknowledged
(R102, R395). -/
def JEntry.unseen (e : JEntry) : Bool := e.st = .performed || e.st = .relayed

/-- A part waits for its frame's earlier accesses of the line (R388, R390), for its core's emitted entries, if it is of the constant
path (R102, R391, R395), and for performed ones, whose bytes its line would bring into L1 (R102). -/
def State.progWait (s : State) (r : AccRef) : Bool :=
  match r with
  | .pend c id i =>
    let k := s.core c
    match k.pend.find? fun p => p.id = id with
    | some p => match p.parts[i]? with
      | some q =>
        let on (st : JEntry → Bool) : Bool := k.unackedOn p.ctx p.region q.dev q.off q.n st
        if p.atomic then k.behindLoad p q
        else (p.loads && k.behindAtomic p q) || (p.constPath && on JEntry.emitted)
          || (match p.kind with | .engWrite _ _ => false | _ => on JEntry.unseen)
      | none => false
    | none => false
  | _ => false

/-- An engine's read at a slice of its own device waits for its core's performed entries of those lines (R395). -/
def State.engUnseen (s : State) (who : Waiter) (a : Ask) : Bool :=
  match who with
  | .packet c _ _ | .operand c _ | .porter c _ => (s.core c).unackedOn a.x a.region s.dev a.off a.n JEntry.unseen
  | _ => false

/-! ### Accesses of engines, porters, fetchers and Exchanges (R93) -/

/-- The outcome of an engine access. -/
inductive EngRes (α : Type) where
  | ok (s : State) (v : α)
  | wait (s : State)
  | bad (pa : Nat)

def engAsk (kind : AccKind) (x : Ctx) (region : BitVec 8) (wr sys : Bool) (core off n dev : Nat) : Ask :=
  { x := x, region := region, off := off, n := n, kind := kind, wr := wr, ac := false, sys := sys, pref := false
    core := core, dev := dev, sc := false, seq := 0, ord := false }

/-- The agent that a fault record names for an access: a core, or a porter by its cluster (R447). -/
def Waiter.agent (who : Waiter) (core : Nat) : Nat :=
  match who with
  | .porter c _ => agentAt (clusterOf c)
  | _ => core

/-- A refusal of an engine's access (R37, R118, R146, R513). -/
def State.engRefuse (s : State) (who : Waiter) (a : Ask) : State :=
  match who with
  | .acc r => s.refuseAcc r a
  | .fetch _ _ => s.fatalAt a.x cREFUSED 4 a.region.toNat a.off a.core
  | _ => s.fatalAt a.x cREFUSED 5 a.region.toNat a.off (who.agent a.core)

def State.engLink (s : State) (who : Waiter) (a : Ask) : State :=
  match who with
  | .acc r => s.linkAcc r a
  | _ => s.linkFatal { a with core := who.agent a.core }

/-- Host memory behind another device: only an access that can wait for its reply goes there (R90). -/
def State.engAway (s : State) (who : Waiter) (bridge pa : Nat) (a : Ask) : State :=
  match who with
  | .acc r => s.toBridge bridge pa r a
  | _ => s

/-- Translate every line of an access (R93, R118, R146): the entries, or a wait. While a line waits, those before it have not
arrived at their slices. -/
def State.engPass (s : State) (who : Waiter) (a : Ask) : List (Nat × Nat) → EngRes (List (Ask × Nat × Nat))
  | [] => .ok s []
  | (off, n) :: r =>
    let a := { a with off := off, n := n }
    match s.slicePass who a with
    | .wait s => .wait s
    | .notHeld => .wait (s.engRefuse who a)
    | .denied s => .wait (s.engRefuse who a)
    | .drop => .wait s
    | .missed s sl =>
      match who with
      | .acc x => .wait (s.missAcc x a sl)
      | _ => .wait (s.miss sl a.x a.region off a.sys a.by' who)
    | .stub s i =>
      match who with
      | .acc x => .wait (s.toStub i x a)
      | _ =>
        let t := s.stub i
        .wait (((s.addSharer i s.dev).writeOwner t.ctx t.page t.big t.owner t.gen).leaveSlice who a)
    | .ok s sl e =>
      match State.engPass s who a r with
      | .ok s l => .ok s ((a, sl, e) :: l)
      | .wait s => .wait (s.leaveSlice who a)
      | .bad p => .bad p

def State.engReadList (s : State) (who : Waiter) : List (Ask × Nat × Nat) → EngRes (List Byte)
  | [] => .ok s []
  | (a, sl, e) :: r =>
    match s.readEntry sl a e with
    | .ok s v =>
      match State.engReadList (s.performed who a) who r with
      | .ok s bs => .ok s (sliceBytes v.2.1 (a.off - v.1) a.n ++ bs)
      | .wait s => .wait s
      | .bad p => .bad p
    | .link => .wait (s.engLink who a)
    | .away b pa => .wait (s.engAway who b pa a)
    | .refused => .wait s
    | .bad p => .bad p

def State.engWriteList (s : State) (who : Waiter) : List (Ask × Nat × Nat) → List (Option Byte) → EngRes Unit
  | [], _ => .ok s ()
  | (a, sl, e) :: r, bs =>
    match s.writeEntry sl a e (bs.take a.n) false with
    | .ok s _ => State.engWriteList (s.performed who a) who r (bs.drop a.n)
    | .refused => .wait (s.engRefuse who a)
    | .link => .wait (s.engLink who a)
    | .away b pa => .wait (s.engAway who b pa a)
    | .bad p => .bad p

/-- The lines of an access. -/
def Ask.lines (a : Ask) : List (Nat × Nat) := splitLines (a.n / 128 + 2) a.off a.n

/-- Read bytes of a context's memory at home slices of this device. -/
def State.engRead (s : State) (who : Waiter) (a : Ask) : EngRes (List Byte) :=
  if s.engUnseen who a then .wait s
  else match s.engPass who a a.lines with
  | .ok s l => s.engReadList who l
  | .wait s => .wait s
  | .bad p => .bad p

/-- Write bytes of a context's memory at home slices; a refusal ends the context with REFUSED (R37, R118, R146). -/
def State.engWrite (s : State) (who : Waiter) (a : Ask) (bs : List (Option Byte)) : EngRes Unit :=
  match s.engPass who a a.lines with
  | .ok s l => s.engWriteList who l bs
  | .wait s => .wait s
  | .bad p => .bad p

/-- Read bytes at home slices as a load does (R403). -/
def State.exchRead (s : State) (die : Nat) (x : Ctx) (off n : Nat) : EngRes (List Byte) :=
  s.engRead (.exchange die) (engAsk .load x 0 false false (die * 192) off n s.dev)

/-- The bytes that an engine's write carries. -/
def State.engData (s : State) : AccRef → List (Option Byte)
  | .pend c id i => match (s.core c).pend.find? fun p => p.id = id with
    | some p => match p.parts[i]? with
      | some q => engBytes p q
      | none => []
    | none => []
  | .peer r => match r.kind with
    | .store bs _ => bs
    | _ => []
  | .jrn _ _ => []

/-- An engine's access at a slice: of a core of this device, or of another (R93, R117, R145). -/
def State.sliceEngine (s : State) (r : AccRef) (a : Ask) : Out :=
  if a.wr then
    match s.engWrite (.acc r) a (s.engData r) with
    | .ok s _ => .next (s.give r a 0 [] false)
    | .wait s => .next s
    | .bad pa => .fault (.noSuchAddress pa)
  else
    match s.engRead (.acc r) a with
    | .ok s bs => .next (s.give r a a.off bs false)
    | .wait s => .next s
    | .bad pa => .fault (.noSuchAddress pa)

/-! ### The steps of a slice -/

/-- A load or fill of one line (R97). -/
def execSliceLoad (r : AccRef) (s : State) : Out :=
  match s.askOf r with
  | none => .next s
  | some a =>
    if a.kind = .atomic || a.kind = .store || a.wr || s.progWait r then .next s
    else if a.kind = .engine then s.sliceEngine r a
    else match s.slicePass (.acc r) a with
      | .notHeld => .next (s.refuseAcc r a)
      | .denied s => .next (s.refuseAcc r a)
      | .drop => .next (s.dropPref r a)
      | .stub s i => .next (s.toStub i r a)
      | .missed s sl => .next (s.missAcc r a sl)
      | .wait s => .next s
      | .ok s sl e =>
        match s.readEntry sl a e with
        | .ok s v =>
          let tag := (a.region = 0 || a.region = 1) && v.2.2.getD (a.off % 128 / 16) false
          .next ((s.give r a v.1 v.2.1 tag).scDone a (s.scId r))
        | .link => .next (s.linkAcc r a)
        | .away b pa => .next (s.toBridge b pa r a)
        | .refused => .next s
        | .bad pa => .fault (.noSuchAddress pa)

/-- An older draining entry of the same core and block stands before this one (R105). -/
def Core.olderDrain (k : Core) (idx : Nat) : Bool :=
  match k.jrn.find? fun e => e.idx = idx with
  | some e => k.jrn.any fun o => decide (o.stamp < e.stamp) && o.st = .draining && o.block e.ctx e.region e.dev e.blk
  | none => false

/-- The bytes of a store access: a journal entry's block, or a peer's. -/
def State.storeOf (s : State) : AccRef → List (Option Byte) × Bool
  | .jrn c i => match (s.core c).jrn.find? fun e => e.idx = i with
    | some e => ((List.range 64).map e.byte, e.stk && e.tag)
    | none => ([], false)
  | .peer r => match r.kind with
    | .store bs tag => (bs, tag)
    | _ => ([], false)
  | .pend _ _ _ => ([], false)

/-- A drained store entry is performed, or refused (R97, R109). A refused STSC keeps its place in the SC order (R272). -/
def execSliceStoreDrain (r : AccRef) (s : State) : Out :=
  let blockedByOlder := match r with
    | .jrn c i => (s.core c).olderDrain i
    | _ => false
  match s.askOf r with
  | none => .next s
  | some a =>
    if a.kind = .engine && a.wr then s.sliceEngine r a
    else if a.kind ≠ .store || blockedByOlder then .next s
    else
      let refuse (s : State) : Out := .next ((s.refuseAcc r a).scDone a (s.scId r))
      match s.slicePass (.acc r) a with
      | .notHeld => refuse s
      | .denied s => refuse s
      | .drop => .next s
      | .stub s i => .next (s.toStub i r a)
      | .missed s sl => .next (s.missAcc r a sl)
      | .wait s => .next s
      | .ok s sl e =>
        let d := s.storeOf r
        match s.writeEntry sl a e d.1 d.2 with
        | .ok s _ => .next ((s.give r a 0 [] false).scDone a (s.scId r))
        | .link => .next (s.linkAcc r a)
        | .away b pa => .next (s.toBridge b pa r a)
        | .refused => refuse s
        | .bad pa => .fault (.noSuchAddress pa)

/-- The operation of an atomic access: the new bytes, if it writes, from the old value (R269, R270). -/
def State.atomicOp (s : State) (r : AccRef) (old : Nat) : Option (Nat × Nat) :=
  match r with
  | .peer q => match q.kind with
    | .amo opc ty x => (PendKind.amo opc ty 0 x).newValue old
    | .cas ty e n => (PendKind.cas ty 0 e n).newValue old
    | _ => none
  | .pend c id _ => match (s.core c).pend.find? fun p => p.id = id with
    | some p => p.kind.newValue old
    | none => none
  | .jrn _ _ => none

/-- An atomic may be at the port: after the entries of its block and what its release covers (R113, R271). -/
def State.atomicReady (s : State) (r : AccRef) : Bool :=
  match r with
  | .pend c id i => match (s.core c).pend.find? fun p => p.id = id with
    | some p =>
      let k := s.core c
      let dev := match p.parts[i]? with
        | some q => q.dev
        | none => s.dev
      !(k.jrn.any fun e => e.live && e.ofTicket p.fr && decide (e.stamp < p.stamp) && e.block p.ctx p.region dev (p.off / 64))
        && (!p.rel || k.settled p.fr p.stamp) && !s.progWait r
    | none => false
  | _ => true

/-- The atomic has been performed: its result is its old value, and the count of its range slots falls (R277). -/
def State.atomicGive (s : State) (r : AccRef) (a : Ask) (old : List Byte) : State :=
  let s := (s.give r a a.off old false).scDone a (s.scId r)
  match r with
  | .pend c id _ => s.modCore c fun k =>
      match k.pend.find? fun p => p.id = id with
      | some p => k.count p.slots false
      | none => k
  | _ => s

/-- One atomic at the port (R112 to R114). -/
def State.atomicOne (s : State) (r : AccRef) : Out :=
  match s.askOf r with
  | none => .next s
  | some a =>
    if a.kind ≠ .atomic || !s.atomicReady r then .next s
    else match s.slicePass (.acc r) a with
      | .notHeld => .next (s.refuseAcc r a)
      | .denied s => .next (s.refuseAcc r a)
      | .drop => .next s
      | .stub s i => .next (s.toStub i r a)
      | .missed s sl => .next (s.missAcc r a sl)
      | .wait s => .next s
      | .ok s sl e =>
        match s.readEntry sl a e with
        | .link => .next (s.linkAcc r a)
        | .away b pa => .next (s.toBridge b pa r a)
        | .refused => .next s
        | .bad pa => .fault (.noSuchAddress pa)
        | .ok s1 v =>
          let oldB := sliceBytes v.2.1 (a.off - v.1) a.n
          match s.atomicOp r (leNat oldB) with
          | none => .next (s1.atomicGive r a oldB)
          | some (n, new) =>
            match s1.writeEntry sl a e ((natBytes n new).map some) false with
            | .ok s2 _ => .next (s2.atomicGive r a oldB)
            | .link => .next (s.linkAcc r a)
            | .away b pa => .next (s.toBridge b pa r a)
            | .refused => .next (s1.atomicGive r a oldB)
            | .bad pa => .fault (.noSuchAddress pa)

/-- Whether an atomic of a reference belongs to a slice. -/
def State.atSlice (s : State) (slice : Nat) (r : AccRef) : Bool :=
  match s.askOf r with
  | some a => decide (a.kind = .atomic) && decide (s.home a.x a.region a.off = slice)
  | none => false

/-- An atomic arrives at its slice. -/
def State.arrive (s : State) (r : AccRef) : State :=
  match s.askOf r with
  | some a =>
    if a.kind = .atomic && s.atomicReady r && s.holds? a.x then (s.accept (s.home a.x a.region a.off) (.acc r) a).getD s else s
  | none => s

/-- An atomic can be performed at its port now. -/
def State.atomicPasses (s : State) (r : AccRef) : Bool :=
  match s.askOf r with
  | none => false
  | some a => a.kind = .atomic && s.atomicReady r && match s.slicePass (.acc r) a with
    | .ok _ _ _ => true
    | _ => false

/-- The atomic port of a slice performs one atomic in a tick. A mesh and a fabric atomic that arrive in one tick tie: the toggle
says which goes first, and inverts; the other waits (R114, State.slicePass). -/
def execAtomicPort (slice : Nat) (mesh : Option (Nat × Nat)) (fabric : Option PeerReq) (s : State) : Out :=
  let m := match mesh with
    | some (c, id) => if s.atSlice slice (.pend c id 0) then some (AccRef.pend c id 0) else none
    | none => none
  let f := match fabric with
    | some q => if s.atSlice slice (.peer q) then some (AccRef.peer q) else none
    | none => none
  match m, f with
  | none, none => .next s
  | some r, none => s.atomicOne r
  | none, some r => s.atomicOne r
  | some r, some q =>
    let s := (s.arrive r).arrive q
    if s.atomicPasses r then s.atomicOne r else s.atomicOne q

/-! ### Walks and page faults (R33, R39 to R42) -/

/-- A walk in flight ends: a hit fills the TLB and the access is tried again; a miss is served (R33, R39, R42). The first eight
walks of a slice are in flight (R95). -/
def execPageWalkDone (sl k : Nat) (s : State) : Out :=
  match (s.slice sl).walks[k]? with
  | none => .next s
  | some w =>
    if 8 ≤ k then .next s
    else
      let region : BitVec 8 := BitVec.ofNat 8 (w.va / 2 ^ 64)
      let off := w.va % 2 ^ 64
      let s1 := s.modSlice sl fun t => { t with walks := t.walks.eraseIdx k }
      match walk s.mem (s.trans w.ctx) region off with
      | .bad pa => .fault (.noSuchAddress pa)
      | .hit e => .next (s1.modSlice sl fun t => { t with tlb := tlbFill t.tlb (tlbOf w.ctx region off e) })
      | .miss =>
        match w.who with
        | .acc r => match s1.askOf r with
          | some a => .next (s1.missAcc r a sl)
          | none => .next s1
        | who => .next (s1.miss sl w.ctx region off w.sys ⟨w.kind, w.dev, w.core⟩ who)

/-- The fault message of a pending-fault entry of a slice. -/
def SvcMsg.faultOf (sl : Nat) (f : PFault) : SvcMsg → Bool
  | .fault i x r _ _ _ => decide (i = sl) && decide (x = f.ctx) && decide (r = f.range)
  | _ => false

/-- A service task takes a fault message from its core's mail and answers it with its verdict (R6, R41, R406). -/
def execPageFaultMessage (sl k : Nat) (resume : Bool) (s : State) : Out :=
  match (s.slice sl).faults[k]? with
  | none => .next s
  | some f =>
    if f.answered = none && s.serves (sl / 48) && (vget [] s.mail (sl / 48)).any (SvcMsg.faultOf sl f) then
      .next ({ s with mail := vmod (sl / 48) (fun l => l.eraseP (SvcMsg.faultOf sl f)) s.mail }.modSlice sl fun t =>
        { t with faults := t.faults.modify k fun f => { f with answered := some resume } })
    else .next s

/-- A peer's access that a FATAL verdict drops is answered with FATAL (R41, R60). -/
def State.answerFatal (s : State) (w : Waiter) : State :=
  match w with
  | .acc (.peer q) => s.replyTo q [] false 2
  | _ => s

/-- The context has been evicted from the device (R462). -/
def State.evicted (s : State) (x : Ctx) : Bool :=
  match s.ctxRec x with
  | some r => r.st = .evicted
  | none => false

/-- A FAULT-REPLY: RESUME lets every joined access walk again; FATAL drops them and ends the context with PAGE. A reply
for a context torn down or evicted in the meantime is discarded with its entry (R41). -/
def execFaultReply (sl k : Nat) (s : State) : Out :=
  match (s.slice sl).faults[k]? with
  | none => .next s
  | some f =>
    match f.answered with
    | none => .next s
    | some resume =>
      let s := s.modSlice sl fun t => { t with faults := t.faults.eraseIdx k }
      if resume || !s.holds? f.ctx || s.evicted f.ctx || f.stale then .next s
      else
        let s := f.who.foldl State.answerFatal s
        .next (s.contextFatal f.ctx ⟨cPAGE, f.kind.code, f.range / 2 ^ 48, f.range % 2 ^ 48 * 2 ^ 16⟩
          { FaultAt.none with core := agentAt sl })

/-- An uncorrectable error that a slice finds in a line of a context, or in a migration's copy: ECC (R57, R97, R447). -/
def execUncorrectableError (x : Ctx) (found : EccAt) (s : State) : Out :=
  .next (s.fatalAt x cECC 0 0 found.pa (agentAt found.slice))

end Sys2Proof.Machine
end

