-- ==== Sys2Proof/Machine/Reply.lean ====
section
/-! DEFINITION. Reply.lean: what comes back to a core: replies of loads and atomics, the journal's steps, window accesses,
and the SC order (R27, R98 to R101, R105, R106, R109, R110, R158, R208, R272, R394, R397, R399 to R401, R463, R482). -/

namespace Sys2Proof.Machine

/-! ### Replies (R208, R259, R263, R269) -/

/-- Byte `i` of a result: from the journal as it was at issue, else from the part that covers it, else zero (R107). -/
def Pend.byteAt (p : Pend) (i : Nat) : Byte :=
  match p.jrn.getD i none with
  | some b => b
  | none =>
    match (if p.map.isEmpty then some (p.off + i) else p.map.getD i none) with
    | none => 0
    | some o =>
      match p.parts.find? fun q => decide (q.off ≤ o) && decide (o < q.off + q.n) with
      | some q => q.data.getD (o - q.base) 0
      | none => 0

/-- The result as a number. -/
def Pend.value (p : Pend) : Nat := leNat ((List.range p.n).map p.byteAt)

/-- The tag of a key load (R44). -/
def Pend.keyTag (p : Pend) : Bool := p.jtag.getD (p.parts.any Part.ktag)

/-- A vector destination after a VLDG: active lanes, the inactive ones under ZR, and the discarded bits kept (R211, R285). -/
def vldgResult (old : VReg) (zr : Bool) (lanes dead data : VReg) : VReg :=
  let m := lanes &&& ~~~dead
  let z := if zr then ~~~lanes &&& ~~~dead else 0
  (data &&& m) ||| (old &&& ~~~(m ||| z))

/-- The registers that MFS reads at its return: TIME, SEQC, SEQM (R208, R216). -/
def lateReg (s : State) (k : Core) (x : Ctx) (n : Nat) : W64 :=
  let c := k.cx x
  if n = 0x30 then s.tick
  else if n = 0x31 then BitVec.ofNat 64 (c.seqcDone.toNat + c.seqcIssued.toNat * 2 ^ 32)
  else BitVec.ofNat 64 (c.seqmDone.toNat + c.seqmIssued.toNat * 2 ^ 32)

/-- The register a result goes into, wherever its window lies (R40). -/
def Window.receive (w : Window) (p : Pend) (mfs : W64) : Window :=
  if p.dead then w
  else match p.kind with
    | .load ty uns d => w.wrS d (loadedValue ty uns p.value)
    | .key d => w.wrK d ⟨BitVec.ofNat 128 p.value, p.keyTag⟩
    | .vec d zr lanes => w.wrV d (vldgResult (w.rdV d) zr lanes p.deadLanes (BitVec.ofNat 2048 p.value))
    | .amo _ ty d _ => w.wrS d (loadedValue ty false p.value)
    | .cas ty d _ _ => w.wrS d (loadedValue ty false p.value)
    | .mfs _ d => w.wrS d mfs
    | _ => w

/-- The flags of an FP32 atomic, which commit when its result returns (R269, R466, R467). -/
def Pend.flags (p : Pend) : Flags :=
  match p.kind with
  | .amo opc ty _ x => (amoNew opc ty p.value x.toNat).2
  | _ => 0

/-- The result is delivered and the access is no longer outstanding. -/
def Core.finish (k : Core) (p : Pend) (mfs : W64) : Core :=
  let k := k.modWin p.wid fun w => w.receive p mfs
  let k := if p.flags = 0 then k else k.commit p.fr p.flags
  { k with pend := k.pend.filter fun q => q.id != p.id }

/-- Whole lines a returned load allocates in L1 (R98, R99, R101). -/
def Pend.fills (p : Pend) : List L1Line :=
  if p.cached && p.alloc then
    p.parts.filterMap fun q =>
      if q.data.length = 128 ∧ q.inval = false then some ⟨p.ctx, p.region, q.off / 128, q.data⟩ else none
  else []

/-- Allocate lines, each with a victim of the implementation's choice. -/
def fillAll (s : State) (c : Nat) (ls : List L1Line) : State :=
  ls.foldl (fun s l => (s.modCore c fun k => k.l1Fill l (Config.freeNat s.free)).useFree) s

/-- Complete an access whose parts are all there (R263). -/
def State.complete (s : State) (c : Nat) (p : Pend) : State :=
  let s := fillAll s c p.fills
  s.modCore c fun k =>
    let k := if p.wide then k.l1DropAll p.ctx else k
    k.finish p (lateReg s k p.ctx (match p.kind with | .mfs n _ => n | _ => 0))

/-- The reply of a peer for one part (R65, R401). -/
def State.peerPart (s : State) (c : Nat) (p : Pend) (i : Nat) (data : List Byte) (tag : Bool) : State :=
  match p.parts[i]? with
  | none => s
  | some q =>
    let base := if data.length = 128 then q.off / 128 * 128 else q.off
    let s := s.modPart c p.id i fun q => { q with st := .done, data := data, base := base, ktag := tag }
    let s := if p.region = 1 then s.egressDone p.ctx q.off q.dev q.big else s
    let s := if p.sc && !p.scDone then
        { s.modCore c fun k => { k with pend := k.pend.map fun r => if r.id = p.id then { r with scDone := true } else r } with
          scForms := s.scForms ++ [⟨s.tick.toNat / 8, c, p.seq, p.id, p.ctx, vaOf p.region q.off / 128, false⟩] }
      else s
    if p.atomic then s.modCore c fun k => k.count p.slots false else s

/-- The kind of an outstanding access in a fault record (R447). -/
def Pend.acc (p : Pend) : Nat := if p.atomic then 3 else if p.engine then 5 else 1

/-- A verdict other than done on a part: REFUSED, FATAL or LINK ends the context (R60, R91, R158, R459, R513); a prefetch is
forgotten (R280). -/
def State.badVerdict (s : State) (c : Nat) (p : Pend) (q : Part) (verdict : Nat) : State :=
  if p.kind = .pref then s.dropPend c p.id
  else
    let code := if verdict = 1 then cREFUSED else if verdict = 2 then (if p.region = 0xFE then cBUFFER else cPAGE) else cLINK
    let f : FaultInfo :=
      if verdict = 3 then ⟨cLINK, p.acc, 0, 37⟩
      else if verdict = 2 && p.region = 0xFE then ⟨code, p.acc, 0, winOff q.off⟩
      else ⟨code, p.acc, p.region.toNat, if verdict = 2 then q.off / 2 ^ 16 * 2 ^ 16 else q.off⟩
    s.contextFatal p.ctx f { FaultAt.none with core := c }

/-- The core has an entry on the line of a part that has left, or that a stub relayed, and is not acknowledged: a line with its
bytes is not delivered before (R87, R102). -/
def Core.unackedAway (k : Core) (p : Pend) (q : Part) : Bool :=
  p.cached && k.unackedOn p.ctx p.region q.dev q.off q.n fun e => e.st = .draining || e.st = .relayed

/-- A reply: of a peer for one part, or the delivery of an access whose parts are all done. What an engine asked for stays for
the engine's own step. -/
def execLoadReply (core id : Nat) (ext : Option (Nat × List Byte × Bool × Nat)) (s : State) : Out :=
  match (s.core core).pend.find? fun p => p.id = id with
  | none => .next s
  | some p =>
    match ext with
    | some (i, data, tag, verdict) =>
      match p.parts[i]? with
      | none => .next s
      | some q =>
        if q.st ≠ .remote then .next s
        else if verdict ≠ 0 then .next (s.badVerdict core p q verdict)
        else if p.kind = .pref && data.isEmpty then .next (s.dropPend core id)
        else if (s.core core).unackedAway p q then .next s
        else .next (s.peerPart core p i data tag)
    | none =>
      if p.sc || p.engine || p.kind = .stsc || p.kind = .spawn || !(p.parts.all fun q => q.st = .done) then .next s
      else .next (s.complete core p)

/-! ### The journal's steps (R105, R106, R109, R110) -/

def Core.entry (k : Core) (idx : Nat) : Option JEntry := k.jrn.find? fun e => e.idx = idx

/-- 256 core cycles have passed since the entry opened (R105). -/
def execJournalOpenTimeout (core idx : Nat) (s : State) : Out :=
  match (s.core core).entry idx with
  | some e =>
    if e.st = .opened ∧ e.opened + openTicks core ≤ s.tick.toNat then
      .next (s.modCore core fun k => k.close fun o => o.idx = idx)
    else .next s
  | none => .next s

/-- The request an entry sends to another device (R60). -/
def entryReq (s : State) (core : Nat) (e : JEntry) : PeerReq :=
  { dev := s.dev, core := core, id := e.idx * 2 + 1, ctx := e.ctx, region := e.region, off := e.blk * 64, n := 64
    kind := .store ((List.range 64).map e.byte) (e.stk && e.tag), fc := 0, sys := e.fr.sys
    sc := e.sc, seq := (s.core core).entrySeq e, port := some (s.mport e.dev), colour := ((s.core core).cx e.ctx).colour }

/-- Where an entry goes now: the owner of its page, by the owner cache, else as at issue (R38, R52). -/
def State.entryDev (s : State) (e : JEntry) : Nat :=
  if e.region = 1 then (match s.ownerEntry e.ctx (e.blk * 64) with
    | some o => o.owner
    | none => e.dev)
  else e.dev

/-- An entry may leave behind those that wait to be issued again, or `again`, and on its stream's path (R67, R69, R88). -/
def State.entryGo (s : State) (core : Nat) (e : JEntry) (again : Bool) : Bool :=
  let dev := s.entryDev e
  let off := e.blk * 64
  (again || !(decide (e.region = 1) && s.redirectWaits e.ctx off))
    && (decide (dev = s.dev) || s.pathFree core e.ctx e.region dev off)

/-- An entry leaves for its destination (R66, R88, R105, R463); `again` re-issues it (R67). -/
def State.emitEntry (s : State) (core : Nat) (e : JEntry) (again : Bool) : State :=
  let off := e.blk * 64
  let dev := s.entryDev e
  let go (s : State) (big : Bool) : State :=
    let port := if dev = s.dev then none else some (s.mport dev)
    let s := s.modEntry core e.idx fun o => { o with st := .draining, dev := dev, port := port, big := big }
    if dev = s.dev then s else { s with out := s.out ++ [.request dev (entryReq s core { e with dev := dev })] }
  if !s.entryGo core e again then s
  else if e.region = 1 then
    let s := s.touchOwner e.ctx off
    match s.egressRaw e.ctx off dev with
      | some s1 => go s1 (s.pageBig e.ctx off)
      | none => s
  else
    let s := if e.region = 0xFE && !(e.dev = s.dev && winCore off = core) then s.countSent core e.ctx else s
    go s false

def execJournalEmit (core idx : Nat) (s : State) : Out :=
  match (s.core core).entry idx with
  | some e => if s.mayEmit core e then .next (s.emitEntry core e false) else .next s
  | none => .next s

/-- An answer stands for the entry: its slice or buffer has performed it, or a peer or the bridge answers. -/
def JEntry.away (e : JEntry) (dev : Nat) : Bool :=
  (e.st = .draining && e.dev != dev) || (e.st = .relayed && decide (e.region = 3))

/-- The SC form of an STSC whose owner is another device takes its place when its answer arrives (R401). -/
def State.remoteSc (s : State) (core : Nat) (e : JEntry) : State :=
  if e.sc && (decide (e.dev ≠ s.dev) || e.st = .relayed) then
    match (s.core core).pend.find? fun p => p.kind = .stsc && p.fr.same e.fr with
    | some p =>
      { s.modCore core fun k => { k with pend := k.pend.map fun r => if r.id = p.id then { r with scDone := true } else r } with
        scForms := s.scForms ++ [⟨s.tick.toNat / 8, core, p.seq, p.id, p.ctx, vaOf e.region (e.blk * 64) / 128, false⟩] }
    | none => s
  else s

/-- Acknowledge an entry: its L1 line is invalidated, its counts fall and it is free (R100, R106, R277). L1 holds no line of
another device's region 0x00 or 0x02 (R99). -/
def State.ackEntry (s : State) (core : Nat) (e : JEntry) : State :=
  let off := e.blk * 64
  let s := s.remoteSc core e
  let s := if e.region = 1 then s.egressDone e.ctx off e.dev e.big else s
  let cached := e.region = 1 || e.dev = s.dev
  s.modCore core fun k =>
    let k := k.dropEntry e.idx
    if cached then k.l1Drop e.ctx (lineMeets e.region off (off + 64)) else k

def execJournalAck (core idx : Nat) (s : State) : Out :=
  match (s.core core).entry idx with
  | some e => if e.st = .performed || e.away s.dev then .next (s.ackEntry core e) else .next s
  | none => .next s

/-- The instance a frame belongs to is running on the core (R455). -/
def Core.running (k : Core) (f : Frame) : Bool := (k.wins ++ k.spilled).any fun w => w.fr.same f

/-- HENT (R449). -/
def State.hent (s : State) (x : Ctx) : W64 :=
  match s.ctxRec x with
  | some r => BitVec.ofNat 64 (r.vec.toNat % 2 ^ 48 / 4 * 4)
  | none => 0

/-- The fault-handler ticket of a refused entry whose instance has ended (R454). -/
def faultTicket (s : State) (core : Nat) (e : JEntry) : Waiting :=
  { kind := .faultTicket e.idx
    prio := e.fr.pri
    entry := s.hent e.ctx
    ctx := e.ctx
    args := [recordHead ⟨cREFUSED, 2, 0, e.idx⟩ e.ctx s.dev core true false, BitVec.ofNat 64 e.idx, e.fr.tkt,
      BitVec.ofNat 64 e.fr.serial.toNat]
    payload := []
    vw := 0
    origin := e.fr.origin }

/-- A refusal returns (R109, R110, R453, R454). -/
def State.refuseEntry (s : State) (core : Nat) (e : JEntry) : State :=
  let s := s.remoteSc core e
  let s := if e.region = 1 then s.egressDone e.ctx (e.blk * 64) e.dev e.big else s
  if e.orphan then s.modCore core fun k => k.dropEntry e.idx
  else
  let had := ((s.core core).jrn.filter fun o => o.st = .refused && decide (o.ctx = e.ctx)).length
  let fatal := s.contextFatal e.ctx ⟨cREFUSED, 2, 0, e.idx⟩ { FaultAt.none with core := core }
  if 16 ≤ had then fatal
  else
    let keep (k : Core) : Core :=
      let k := k.count e.slots false
      { k with jrn := (k.jrn.filter fun o => o.idx != e.idx) ++ [{ e with st := .refused, slots := 0 }] }
    if (s.core core).running e.fr then
      s.modCore core fun k => { keep k with traps := k.traps ++ [⟨e.idx, e.fr⟩] }
    else if s.handled e.ctx then s.modCore core fun k => { keep k with waiting := k.waiting ++ [faultTicket s core e] }
    else fatal

def execStoreRefused (core idx : Nat) (s : State) : Out :=
  match (s.core core).entry idx with
  | some e => if e.st = .refusing || e.away s.dev then .next (s.refuseEntry core e) else .next s
  | none => .next s

/-! ### Deferred sends (R264, R354, R355, R363 to R365, R397) -/

/-- A chit that performs at a slice (R362 to R364). -/
def atSliceKind (c : Chit) : Bool := c.kind = .barArrive || c.kind = .barInit || c.kind = .tlSet || c.kind = .tlAdd

/-- The line of the barrier record or timeline that a message acts on: device, region, line (R364). -/
def chitObj (c : Chit) : Option (Nat × BitVec 8 × Nat) :=
  if atSliceKind c then some (c.tdev, c.region, c.off / 128) else none

def sendObj : Send → Option (Nat × BitVec 8 × Nat)
  | .chit c => chitObj c
  | .watch dev region off _ _ => some (dev, region, off / 128)
  | _ => none

/-- An earlier message of the same ticket to the same line has not performed yet (R364). -/
def State.objBusy (s : State) (core k : Nat) (d : Defer) : Bool :=
  match sendObj d.what with
  | none => false
  | some o =>
    (((s.core core).defer.take k).any fun e => e.fr.same d.fr && decide (sendObj e.what = some o))
      || (s.chits.any fun c => c.fr.same d.fr && decide (chitObj c.c = some o))
      || (s.watchMsgs.any fun w => w.fr.same d.fr && decide ((s.dev, w.region, w.off / 128) = o))

/-- What a deferred send sends. -/
def State.emitSend (s : State) (core : Nat) (d : Defer) : State :=
  match d.what with
  | .chit c => s.sendChit core d.fr c
  | .watch dev region off th nxt =>
    if dev = s.dev then { s with watchMsgs := s.watchMsgs ++ [⟨dev, core, d.ctx, region, off, th, nxt, d.fr⟩] }
    else { s with out := s.out ++ [.watch dev d.ctx region off th nxt (Fin.ofNat 8 d.fr.pri)] }
  | .launch c =>
    if s.holds? c.ctx then s.modExch (s.ticketDie c.ctx c.tkt) fun e => { e with input := e.input ++ [c] }
    else match s.ctxRec c.ctx with
      | some r => s.setCtx c.ctx { r with dropl := r.dropl + 1 }
      | none => s
  | .away dev l => { s with out := s.out ++ [.launch dev l] }

/-- A deferred send leaves once what it waits for is done. -/
def execDeferredEmit (core k : Nat) (s : State) : Out :=
  match (s.core core).defer[k]? with
  | none => .next s
  | some d =>
    if (d.wait && !(s.core core).settled d.fr d.stamp) || (d.gates.any fun g => !(s.core g.core).settled g.fr g.stamp)
        || s.objBusy core k d then
      .next s
    else .next ((s.modCore core fun c => { c with defer := c.defer.eraseIdx k }).emitSend core d)

/-! ### Arrivals at a core (R463, R482) -/

/-- An arrival for one of a cluster's cores: entry into retention is abandoned, and a retained cluster begins its exit
(R481, R482). -/
def State.wakeCluster (s : State) (cl : Nat) : State :=
  match (s.cluster cl).rst with
  | .active => s
  | .entering => s.modCluster cl fun c => { c with rst := .active }
  | .retained => s.modCluster cl fun c => { c with rst := .exiting, rstSince := s.tick.toNat }
  | .exiting => s

/-- An arrival is held at the ring stop of a cluster in retention, whose exit begins (R482). -/
def State.holdAt (s : State) (cl : Nat) (h : HeldMsg) : State :=
  { s.wakeCluster cl with held := if s.held.contains (cl, h) then s.held else s.held ++ [(cl, h)] }

/-- Arrivals at the core's cluster wait at the ring stop until its exit completes (R482). -/
def State.retained (s : State) (cl : Nat) : Bool :=
  match (s.cluster cl).rst with
  | .retained => true
  | .exiting => true
  | _ => false

/-- The core has flipped its colour for X: its interface delivers no message of X (R463). -/
def State.flipped (s : State) (core : Nat) (x : Ctx) : Bool := ((s.core core).cx x).colour

/-- Keep an arrival for the save area; beyond 4,096 records the context ends with BUFFER (R463). -/
def State.capture (s : State) (core : Nat) (x : Ctx) (m : Msg) : State :=
  let n := ((s.core core).captured.filter fun p => decide (p.1 = x)).length
  if 4096 ≤ n then s.fatalAt x cBUFFER 0 0 0 core
  else s.modCore core fun k => { k with captured := k.captured ++ [(x, m)] }

/-! ### Window accesses (R26, R27, R158, R394) -/

/-- A window access as its target's interface sees it. -/
structure WinAcc where
  x : Ctx
  src : Nat
  own : Bool
  sys : Bool
  off : Nat
  n : Nat
  store : Option (List (Option Byte) × Bool)
  sc : Bool
  seq : BitVec 32
  colour : Bool
  /-- a packet of another device's copy engine (R463) -/
  packet : Bool
  deriving DecidableEq, Repr

/-- The window access a reference names, if it stands at a buffer of this device. -/
def State.winAsk (s : State) (r : AccRef) : Option WinAcc :=
  match r with
  | .pend c id i =>
    match (s.core c).pend.find? fun p => p.id = id with
    | some p => match p.parts[i]? with
      | some q =>
        if q.st = .queued ∧ p.region = 0xFE ∧ winDev q.off = s.dev ∧ (p.rel = false ∨ (s.core c).settled p.fr p.stamp) then
          let store := match p.kind with
            | .ownStore bs => some (bs, false)
            | _ => none
          some ⟨p.ctx, c, decide (winCore q.off = c), p.fr.sys, q.off, q.n, store, p.sc, p.seq, s.flipped c p.ctx, false⟩
        else none
      | none => none
    | none => none
  | .jrn c i =>
    match (s.core c).entry i with
    | some e =>
      if e.st = .draining ∧ e.region = 0xFE ∧ e.dev = s.dev then
        let off := e.blk * 64
        some ⟨e.ctx, c, decide (winCore off = c), e.fr.sys, off, 64, some ((List.range 64).map e.byte, e.stk && e.tag), e.sc,
          (s.core c).entrySeq e, s.flipped c e.ctx, false⟩
      else none
    | none => none
  | .peer q =>
    if q.region = 0xFE ∧ winDev q.off = s.dev then
      match q.kind with
      | .store bs tag => some ⟨q.ctx, q.core, false, q.sys, q.off, q.n, some (bs, tag), false, 0, q.colour, q.eng⟩
      | _ => some ⟨q.ctx, q.core, false, q.sys, q.off, q.n, none, false, 0, q.colour, false⟩
    else none

/-- The bytes that a window access touches: offsets in the buffer and how many. -/
def WinAcc.span (a : WinAcc) : Nat × Nat :=
  match a.store with
  | none => (winOff a.off, a.n)
  | some (bs, _) =>
    let on := (List.range bs.length).filter fun i => (bs.getD i none).isSome
    match on.head?, on.getLast? with
    | some i, some j => (winOff a.off + i, j + 1 - i)
    | _, _ => (winOff a.off, 0)

/-- The record of a captured window access; the layout of its header is the model's (log 21). -/
def WinAcc.msg (a : WinAcc) : Msg :=
  match a.store with
  | none => ⟨1, BitVec.ofNat 256 (a.off + a.src % 1024 * 2 ^ 136), []⟩
  | some (bs, tag) =>
    if a.packet && bs.all Option.isSome then
      ⟨2, BitVec.ofNat 256 (a.off + bs.length * 2 ^ 64 + a.src % 1024 * 2 ^ 136), bs.map fun b => b.getD 0⟩
    else
    { kind := 1
      head := BitVec.ofNat 256 (a.off + packBits (bs.map Option.isSome) % 2 ^ 64 * 2 ^ 64 + bit tag * 2 ^ 128 + a.src % 1024 * 2 ^ 136)
      payload := bs.map fun b => b.getD 0 }

/-- The answer of a performed or captured window access. -/
def State.winDone (s : State) (r : AccRef) (a : WinAcc) (data : List Byte) (tag : Bool) : State :=
  match r with
  | .pend c id i =>
    if a.store.isSome && !a.sc then s.dropPend c id
    else s.modPart c id i fun q => { q with st := .done, data := data, base := q.off, ktag := tag }
  | .jrn c i => s.modEntry c i fun e => { e with st := .performed }
  | .peer q => s.replyTo q (if a.store.isSome then [] else data) tag 0

/-- A load that its target's interface has captured has no answer yet (R463). -/
def State.winKept (s : State) (r : AccRef) : State :=
  match r with
  | .pend c id i => s.modPart c id i fun q => { q with st := .remote }
  | _ => s

/-- An SC form at a buffer port takes its place (R399). -/
def State.winSc (s : State) (r : AccRef) (a : WinAcc) : State :=
  if a.sc then
    let id := s.scId r
    let s := s.modCore a.src fun k => { k with pend := k.pend.map fun p => if p.id = id then { p with scDone := true } else p }
    { s with scForms := s.scForms ++ [⟨s.tick.toNat / 8, a.src, a.seq, id, a.x, vaOf 0xFE a.off / 128, false⟩] }
  else s

/-- A window access outside its context's allocation on the target: BUFFER for the context; a peer's is answered with that
verdict (R60, R158, R459). -/
def State.winBuffer (s : State) (r : AccRef) (a : WinAcc) : State :=
  let s := s.fatalAt a.x cBUFFER (if a.store.isSome then 2 else 1) 0 a.span.1 a.src
  match r with
  | .peer q => s.replyTo q [] false 2
  | _ => s

/-- A window access reaches the buffer port of its target core (R158, R394, R463, R482). -/
def execWindowAccess (r : AccRef) (s : State) : Out :=
  match s.winAsk r with
  | none => .next s
  | some a =>
    let t := winCore a.off
    let turn := if a.sc then s.scTurn a.src a.seq false else !s.scBusy a.x (vaOf 0xFE a.off / 128)
    if 768 ≤ t || !turn then .next s
    else if !a.own && s.retained (clusterOf t) then .next (s.holdAt (clusterOf t) (.access r))
    else
      let s := if a.own then s else s.wakeCluster (clusterOf t)
      if !s.holds? a.x then .next (s.winBuffer r a)
      else if !a.own && s.flipped t a.x then
        let s := (s.countRecv t a.x a.colour).capture t a.x a.msg
        if a.store.isSome then .next ((s.winDone r a [] false).winSc r a) else .next (s.winKept r)
      else
        let buf := winBuf a.off
        let sp := a.span
        let k := s.core t
        if !a.own && !k.winOk a.x a.sys buf sp.1 sp.2 then .next (s.winBuffer r a)
        else
          let s := if a.own then s else s.countRecv t a.x a.colour
          match a.store with
          | none =>
            let data := memRead (k.buf buf) (winOff a.off) a.n
            .next ((s.winDone r a data (k.stag buf (winOff a.off))).winSc r a)
          | some (bs, tag) =>
            let s := s.modCore t fun k =>
              let k := k.bufWrite buf (winOff a.off) bs
              if tag && buf = 3 then { k with stags := k.stags ++ [sp.1 / 16] } else k
            .next ((s.winDone r a [] false).winSc r a)

/-! ### The SC order (R272, R399, R400) -/

/-- Every form performed in an earlier window is announced (R399). -/
def execScAnnounce (s : State) : Out :=
  .next { s with scForms := s.scForms.map fun f =>
    if f.window < s.tick.toNat / 8 then { f with announced := true } else f }

/-- The result of an announced form is delivered at tick 8 (w + 7), with the context's L1 lines invalidated (R399). -/
def execScDeliver (core id : Nat) (s : State) : Out :=
  match s.scForms.find? fun f => decide (f.core = core) && decide (f.id = id) with
  | none => .next s
  | some f =>
    if !f.announced || s.tick.toNat < 8 * (f.window + 7) then .next s
    else
      let s1 := { s with scForms := s.scForms.filter fun g => decide (g ≠ f) }
      match (s.core core).pend.find? fun p => p.id = id with
      | none => .next s1
      | some p => .next (s1.modCore core fun k => (k.l1DropAll p.ctx).finish p 0)

end Sys2Proof.Machine
end

