-- ==== Sys2Proof/Machine/Migration.lean ====
section
/-! DEFINITION. Migration.lean: pages that move while in use: the old owner, its stubs, the requesters and the new owner
(R49 to R71). The service cores' and peers' decisions come as parameters of the events. -/

namespace Sys2Proof.Machine

/-- The offset of a page's first byte. -/
def pageOff (page : Nat) : Nat := page * 2 ^ 16

def pageSz (big : Bool) : Nat := if big then 1 else 0

/-! ### The old owner (R56 step 4) -/

/-- An entry that points to stub `i` (R32). -/
def stubEntry (e i : Nat) : Nat := e - pteKind e * 2 ^ 7 - pteFrame e * 2 ^ 31 + 2 * 2 ^ 7 + i * 2 ^ 31

/-- The new owner reports the last byte performed: step 4 of R56. A treatment of the context there before that ends the migration with
its code, and the old owner keeps the page (R512). -/
def execMigrationCopyDone (copy : CopyEnd) (s : State) : Out :=
  let k := copy.k
  match s.migrations[k]? with
  | none => .next s
  | some m =>
    if copy.dead ≠ 0 then
      .next (({ s with migrations := s.migrations.eraseIdx k }.clearHold m.ctx m.page m.big).cmdDone m.queue m.hseq copy.dead.toNat)
    else match s.freeStub, s.slotOf (s.trans m.ctx) (pageSz m.big) 1 (pageOff m.page) with
    | some i, some (a, e) =>
      let groups := if s.q = 0 then 0 else 2 * s.q
      let t : Stub :=
        { owner := m.newOwner, st := 1, big := m.big, gen := m.gen, acks := 0, tcre := s.tick.toNat
          sharers := m.shmask.toNat % 2 ^ (Nat.min groups 50), ctx := m.ctx, page := m.page }
      let s := s.physWrite a (natBytes 8 (stubEntry e i))
      let s := (s.setStub i t).tlbDrop m.ctx (pageSz m.big) 1 (pageOff m.page)
      let s := (s.writeOwner m.ctx m.page m.big m.newOwner m.gen).clearHold m.ctx m.page m.big
      let s := (s.dropOwned m.ctx m.page m.big)
      let s := { s with
        migrations := s.migrations.eraseIdx k
        out := s.out ++ [OutMsg.copyDone m.newOwner m.ctx m.page i] }
      .next (s.cmdDone m.queue m.hseq 0)
    | _, _ => .next s

/-! ### The new owner (R56 steps 1 and 4) -/

/-- The entry the new owner installs: KIND 00 with the old owner's permissions. -/
def installEntry (big : Bool) (perms : Fin 16) (frame : Nat) : Nat := 1 + pageSz big * 2 + perms.val * 2 ^ 3 + frame * 2 ^ 31

/-- Firmware of the new owner installs the page with its hold, or refuses (R55, R56 step 1). It takes no frame of the queue arena
(R486). -/
def execMigrationInstall (ctx : Ctx) (page : Nat) (big : Bool) (perms : Fin 16) (gen : BitVec 32) (_oldOwner frame : Nat)
    (s : State) : Out :=
  let e := installEntry big perms frame
  if !s.holds? ctx || decide (frame * 2 ^ 16 < 2 ^ 26) || (s.stubOf ctx (pageOff page)).isSome || s.mapStatus ctx 1 (pageOff page) e ≠ 0 then .next s
  else
    let s := (s.mapPut ctx 1 (pageOff page) e).setHold ctx page big
    .next { s with installs := s.installs ++ [⟨ctx, page, big, gen⟩] }

/-- The notice of step 4: the bytes that the old owner's copy has written stand in the new frame (step 3), and the new owner
names itself and clears its hold (R56). -/
def execMigrationNotice (ctx : Ctx) (page : Nat) (copy : PageCopy) (s : State) : Out :=
  let big := copy.big
  let hit (o : Owned) : Bool := decide (o.ctx = ctx) && decide (o.page = page) && o.big = big
  match s.installs.find? hit with
  | none => .next s
  | some o =>
    let s := match s.slotOf (s.trans ctx) (pageSz big) 1 (pageOff page) with
      | some (_, e) => s.physWrite (pteFrame e * 2 ^ 16) (copy.data.take (2 ^ pageShift (pageSz big)))
      | none => s
    let s := (s.writeOwner ctx page big s.dev o.gen).clearHold ctx page big
    .next { s.dropOwned ctx page big with
      installs := s.installs.filter fun i => !hit i
      owned := (s.dropOwned ctx page big).owned ++ [o] }

/-! ### The requester (R65 to R67, R70, R71) -/

/-- The access a reference names: its context, offset, and the device it was sent to, where it stands as asked. -/
def State.awayOf (s : State) (r : AccRef) (pst : PartSt) (jst : JSt) : Option (Ctx × Nat × Nat) :=
  match r with
  | .pend c id i => match (s.core c).pend.find? fun p => p.id = id with
    | some p => match p.parts[i]? with
      | some q => if q.st = pst ∧ p.region = 1 then some (p.ctx, q.off, q.dev) else none
      | none => none
    | none => none
  | .jrn c i => match (s.core c).entry i with
    | some e => if e.st = jst ∧ e.region = 1 then some (e.ctx, e.blk * 64, e.dev) else none
    | none => none
  | .peer _ => none

/-- An access that waits for an answer of its owner or of a stub of this device. -/
def State.outside (s : State) (r : AccRef) : Option (Ctx × Nat × Nat) :=
  match s.awayOf r .remote .draining with
  | some a => some a
  | none => s.awayOf r .remote .relayed

/-- Complete an access with a reply that REDIRECT carries: verdict 0 done, 1 REFUSED, 2 FATAL, 3 LINK (R62, R67). -/
def State.answer (s : State) (r : AccRef) (data : List Byte) (tag : Bool) (verdict : Nat) : State :=
  match r with
  | .pend c id i => match (s.core c).pend.find? fun p => p.id = id with
    | some p => match p.parts[i]? with
      | some q => if verdict = 0 then s.peerPart c p i data tag else s.badVerdict c p q verdict
      | none => s
    | none => s
  | .jrn c i => match (s.core c).entry i with
    | some e =>
      if verdict = 0 then s.ackEntry c e
      else if verdict = 1 then s.refuseEntry c e
      else s.contextFatal e.ctx (if verdict = 2 then ⟨cPAGE, 2, 1, e.blk * 64 / 2 ^ 16 * 2 ^ 16⟩ else ⟨cLINK, 2, 0, 37⟩)
        { FaultAt.none with core := c }
    | none => s
  | .peer _ => s

/-- The place of an access in its core's program order. -/
def State.stampOf (s : State) (r : AccRef) : Nat × Nat :=
  match r with
  | .pend c id _ => (c, match (s.core c).pend.find? fun p => p.id = id with | some p => p.stamp | none => 0)
  | .jrn c i => (c, match (s.core c).entry i with | some e => e.stamp | none => 0)
  | .peer _ => (0, 0)

/-- The service core of the issuing core's die books a REDIRECT or REDIRECT-ONLY (R6): it can admit a service task, or the access is
the service core's own, whose window books it (log 13). -/
def State.books (s : State) (r : AccRef) : Bool :=
  let c := (s.stampOf r).1
  s.serves (dieOf c) || decide (c = svcCore (dieOf c))

/-- REDIRECT: the service core writes the owner cache, and the access completes (R6, R53, R67). -/
def execRedirect (r : AccRef) (data : List Byte) (tag : Bool) (verdict owner : Nat) (gen : BitVec 32) (big : Bool) (s : State) : Out :=
  match s.outside r with
  | none => .next s
  | some a =>
    .next (if s.books r then (s.writeOwner a.1 (pageOf big a.2.1) big owner gen).answer r data tag verdict else s)

/-- Change where an access stands. -/
def State.stand (s : State) (r : AccRef) (pst : PartSt) (jst : JSt) : State :=
  match r with
  | .pend c id i => s.modPart c id i fun q => { q with st := pst }
  | .jrn c i => s.modEntry c i fun e => { e with st := jst }
  | .peer _ => s

/-- The page size an access was counted under (R65). -/
def State.bigOf (s : State) (r : AccRef) : Bool :=
  match r with
  | .pend c id i => s.partBig c id i
  | .jrn c i => match (s.core c).entry i with
    | some e => e.big
    | none => false
  | .peer _ => false

/-- REDIRECT-ONLY: the service core writes the owner cache, and the access waits for its re-issue (R6, R67). -/
def execRedirectOnly (r : AccRef) (owner : Nat) (gen : BitVec 32) (big : Bool) (s : State) : Out :=
  match s.outside r with
  | none => .next s
  | some a =>
    .next (if s.books r then
      ((s.egressDone a.1 a.2.1 a.2.2 (s.bigOf r)).writeOwner a.1 (pageOf big a.2.1) big owner gen).stand r .redirected .redirected
    else s)

/-- An earlier access of the core to the page waits for its re-issue too (R67, R69). -/
def State.earlierRedirect (s : State) (r : AccRef) (x : Ctx) (off : Nat) : Bool :=
  let st := s.stampOf r
  let k := s.core st.1
  let same (o : Nat) : Bool := decide (pageOf (s.pageBig x off) o = pageOf (s.pageBig x off) off)
  (k.pend.any fun p => decide (p.ctx = x) && decide (p.region = 1) && decide (p.stamp < st.2)
      && p.parts.any fun q => (q.st = .redirected || q.st = .misrouted) && same q.off)
    || k.jrn.any fun e => decide (e.ctx = x) && decide (e.region = 1) && decide (e.stamp < st.2)
      && (e.st = .redirected || e.st = .misrouted) && same (e.blk * 64)

/-- Nothing of the page is outstanding toward a device (R67, R68). -/
def State.quiet (s : State) (x : Ctx) (page : Nat) (big : Bool) (dev : Nat) : Bool :=
  !(s.pageOrder.any fun o => decide (o.ctx = x) && decide (o.dev = dev) && pagesMeet o.big o.page big page)

/-- Send a part of an access; in region 0x01 to the page's owner as the owner cache names it now (R52). -/
def State.sendOwned (s : State) (c : Nat) (p : Pend) (i : Nat) (again : Bool) : State :=
  match p.parts[i]? with
  | none => s
  | some q =>
    if p.region ≠ 1 then s.sendPart c p i again
    else
      let dev := match s.ownerEntry p.ctx q.off with
        | some o => o.owner
        | none => q.dev
      let p' := { p with parts := p.parts.set i { q with dev := dev } }
      ((s.touchOwner p.ctx q.off).modCore c fun k =>
        { k with pend := k.pend.map fun o => if o.id = p.id then p' else o }).sendPart c p' i again

/-- Send an access of region 0x01 afresh to the page's owner (R67, R71); one that may not leave yet stays as it is. -/
def State.resend (s : State) (r : AccRef) : State :=
  let s1 := match r with
    | .pend c id i => match (s.core c).pend.find? fun p => p.id = id with
      | some p => s.sendOwned c p i true
      | none => s
    | .jrn c i => match (s.core c).entry i with
      | some e => s.emitEntry c e true
      | none => s
    | .peer _ => s
  if (s1.awayOf r .redirected .redirected).isSome then s else s1

/-- Re-issue in program order once nothing of the page is outstanding toward the old owner (R67). -/
def execRedirectOnlyReissue (r : AccRef) (s : State) : Out :=
  match s.awayOf r .redirected .redirected with
  | none => .next s
  | some a =>
    let big := s.pageBig a.1 a.2.1
    if s.quiet a.1 (pageOf big a.2.1) big a.2.2 && !s.earlierRedirect r a.1 a.2.1 then .next (s.resend r) else .next s

/-- An access that waits at the egress leaves when its owner's turn comes (R66). -/
def execEgressRelease (r : AccRef) (s : State) : Out :=
  match r with
  | .pend c id i => match (s.core c).pend.find? fun p => p.id = id with
    | some p => match p.parts[i]? with
      | some q =>
        if q.st = .egress then .next (s.sendOwned c p i false) else .next s
      | none => .next s
    | none => .next s
  | .jrn c i => match (s.core c).entry i with
    | some e => if s.mayEmit c e then .next (s.emitEntry c e false) else .next s
    | none => .next s
  | .peer _ => .next s

/-- MIGRATE-LOST (R71). -/
def State.migrateLost (s : State) (x : Ctx) (off core : Nat) : State :=
  s.fatalAt x cMIGRATELOST 0 1 (off / 2 ^ 16 * 2 ^ 16) core

/-- How often an access has met MISROUTE (R71). -/
def State.triesOf (s : State) (r : AccRef) : Nat :=
  match r with
  | .pend c id i => match (s.core c).pend.find? fun p => p.id = id with
    | some p => match p.parts[i]? with
      | some q => q.tries
      | none => 0
    | none => 0
  | .jrn c i => match (s.core c).entry i with
    | some e => e.tries
    | none => 0
  | .peer _ => 0

/-- The access is a prefetch. -/
def State.isPref (s : State) (r : AccRef) : Bool :=
  match r with
  | .pend c id _ => (s.core c).pend.any fun p => p.id = id && decide (p.kind = .pref)
  | _ => false

/-- MISROUTE: the access is held, and a message goes to the service core of the issuing core's die, which asks the directory; the
fourth one ends the context (R71). A prefetch is dropped (R280). -/
def execMisroute (r : AccRef) (s : State) : Out :=
  match s.outside r with
  | none => .next s
  | some a =>
    let core := (s.stampOf r).1
    if s.isPref r then
      match r with
      | .pend c id _ => .next (s.dropPend c id)
      | _ => .next s
    else if 3 ≤ s.triesOf r then .next (s.migrateLost a.1 a.2.1 core)
    else
      let s := (s.egressDone a.1 a.2.1 a.2.2 (s.bigOf r)).stand r .misrouted .misrouted
      let s := s.mailTo (dieOf core) (.misroute r a.1 a.2.1)
      .next (match r with
        | .pend c id i => s.modPart c id i fun q => { q with tries := q.tries + 1 }
        | .jrn c i => s.modEntry c i fun e => { e with tries := e.tries + 1 }
        | .peer _ => s)

/-- The MISROUTE message of an access. -/
def SvcMsg.misrouteOf (r : AccRef) : SvcMsg → Bool
  | .misroute y _ _ => decide (y = r)
  | _ => false

/-- The domain directory's answer, taken by the service core that holds the message (R6, R71). DESIGN CHOICE (log 63): the answer
names the page's size. -/
def execDirectoryAnswer (r : AccRef) (owner : Option (Nat × BitVec 32 × Bool)) (s : State) : Out :=
  match s.awayOf r .misrouted .misrouted with
  | none => .next s
  | some a =>
    let die := dieOf (s.stampOf r).1
    if s.serves die && (vget [] s.mail die).any (SvcMsg.misrouteOf r) then
      let s := { s with mail := vmod die (fun l => l.eraseP (SvcMsg.misrouteOf r)) s.mail }
      match owner with
      | none => .next (s.migrateLost a.1 a.2.1 (s.stampOf r).1)
      | some (o, g, big) =>
        let s := (s.writeOwner a.1 (pageOf big a.2.1) big o g).stand r .redirected .redirected
        .next (if s.earlierRedirect r a.1 a.2.1 then s else s.resend r)
    else .next s

/-! ### Stubs (R58 to R64) -/

/-- A request from a peer reaches its slice and finds the KIND 10 entry of a stub, in the slice's order (R56, R61). -/
def execStubRequest (r : PeerReq) (s : State) : Out :=
  match s.askOf (.peer r) with
  | none => .next s
  | some a =>
    if r.region ≠ 1 then .next s
    else match s.slicePass (.acc (.peer r)) a with
      | .stub s i => .next (s.toStub i (.peer r) a)
      | .wait s => .next s
      | _ => .next s

/-- The reference of this device's own access that a relayed request stands for. -/
def refOf (r : PeerReq) : AccRef :=
  if r.id % 2 = 1 then .jrn r.core (r.id / 2) else .pend r.core (r.id / 2 / 2 ^ 16) (r.id / 2 % 2 ^ 16)

/-- The reply of a relayed request: REDIRECT carrying it, or a later stub's REDIRECT or REDIRECT-ONLY passed on unchanged, back
along the path of the request (R60, R61). `later` names the owner, generation, and whether it is a REDIRECT-ONLY. -/
def execStubReply (k : Nat) (data : List Byte) (tag : Bool) (verdict : Nat) (later : Option (Nat × BitVec 32 × Bool))
    (s : State) : Out :=
  match s.relays[k]? with
  | none => .next s
  | some y =>
    if backDev y.req = s.dev && !s.books (refOf y.req) then .next s
    else
    let t := s.stub y.stub
    let r := y.req
    let s := { s with relays := s.relays.eraseIdx k }
    let own := match later with
      | some (o, g, _) => (o, g)
      | none => (t.owner, t.gen)
    let only := match later with
      | some (_, _, b) => b
      | none => false
    if backDev r = s.dev then
      if only then execRedirectOnly (refOf r) own.1 own.2 t.big s
      else execRedirect (refOf r) data tag verdict own.1 own.2 t.big s
    else
      .next { s with out := s.out ++ [if only then .redirectOnly (backDev r) r.core r.id t.ctx t.page t.big own.1 own.2
        else .redirect (backDev r) r.core r.id data tag verdict t.ctx t.page t.big own.1 own.2] }

/-- Remove a stub's entry and free its record (R61). -/
def State.removeStub (s : State) (i : Nat) : State :=
  let t := s.stub i
  let s := match s.slotOf (s.trans t.ctx) (pageSz t.big) 1 (pageOff t.page) with
    | some (a, e) =>
      if pteKind e = 2 ∧ pteFrame e = i then
        (s.physWrite a (natBytes 8 0)).tlbDrop t.ctx (pageSz t.big) 1 (pageOff t.page)
      else s
    | none => s
  s.setStub i { t with st := 0 }

/-- STUB_MIN (R59). -/
def State.stubMin (s : State) : Nat :=
  let x := bitsOf s.migcfg.toNat 4 0
  2 ^ (if x < 16 then 16 else if 24 < x then 24 else x)

/-- The groups a sharer set names. -/
def sharerGroups (m : Nat) : List Nat := (List.range 50).filter fun g => bitsOf m g g = 1

/-- The reclamation scan finds a live stub old enough: it begins to drain (R61). -/
def execReclamationScan (idx : Nat) (s : State) : Out :=
  let t := s.stub idx
  if t.st = 1 ∧ s.stubMin ≤ s.tick.toNat - t.tcre then
    let gs := sharerGroups t.sharers
    let t := { t with st := 2, acks := s.q * gs.length }
    let s := (s.setStub idx t).ownerUpdates idx t gs
    if t.acks = 0 then .next (s.removeStub idx)
    else .next { s with stubSent := tabPut idx s.tick.toNat s.stubSent }
  else .next s

/-- An OWNER-ACK arrives (R61). -/
def State.ownerAcked (s : State) (idx : Nat) : State :=
  let t := s.stub idx
  if t.st = 2 ∧ 0 < t.acks then
    let s := s.setStub idx { t with acks := t.acks - 1 }
    if t.acks = 1 then s.removeStub idx else s
  else s

def execOwnerAck (idx : Nat) (s : State) : Out := .next (s.ownerAcked idx)

/-- 2^24 ticks after its OWNER-UPDATEs a stub still drains: the device reports it on queue 0 (R64). -/
def execStubDrainTimeout (idx : Nat) (s : State) : Out :=
  let t := s.stub idx
  match s.stubSent.find? fun p => p.1 = idx with
  | some (_, sent) =>
    if t.st = 2 ∧ sent + 2 ^ 24 ≤ s.tick.toNat then
      let s := { s with stubSent := s.stubSent.filter fun p => p.1 != idx }
      .next (s.postEvent 0 { Event.mk0 8 0 0 with
        narg := [BitVec.ofNat 64 (1 + t.ctx.toNat * 2 ^ 8 + idx * 2 ^ 24), BitVec.ofNat 64 (t.page + bit t.big * 2 ^ 32),
          BitVec.ofNat 64 t.acks] })
    else .next s
  | none => .next s

/-- OWNER-UPDATE: the owner cache is written, and the acknowledgement is owed (R68). -/
def execOwnerUpdate (ctx : Ctx) (page : Nat) (big : Bool) (owner : Nat) (gen : BitVec 32) (stubDev stubIdx : Nat) (s : State) : Out :=
  let s := if owner = s.dev then s else s.writeOwner ctx page big owner gen
  .next { s with acksDue := s.acksDue ++ [⟨ctx, page, big, stubDev, stubIdx⟩] }

/-- OWNER-ACK is sent once nothing of the page is outstanding toward the stub's device (R68). -/
def execOwnerAckSend (k : Nat) (s : State) : Out :=
  match s.acksDue[k]? with
  | none => .next s
  | some a =>
    if s.quiet a.ctx a.page a.big a.stubDev then
      let s := { s with acksDue := s.acksDue.eraseIdx k }
      if a.stubDev = s.dev then .next (s.ownerAcked a.stubIdx)
      else .next { s with out := s.out ++ [.ownerAck a.stubDev a.ctx a.stubIdx] }
    else .next s

end Sys2Proof.Machine
end

