-- ==== Sys2Proof/Machine/Engine.lean ====
section
/-! DEFINITION. Engine.lean: memory accesses of the engines and porters of a core (R93, R117, R145, R331): at home slices of this
device at once, and as requests that wait for their replies where they go to a peer, to region 0x01 or to the host (R48, R52,
R65, R89, R90). -/

namespace Sys2Proof.Machine

/-- A memory access of an engine: for whom, of which frame, where, and the PEER of its key. -/
structure EngAcc where
  core : Nat
  who : Waiter
  fr : Frame
  region : BitVec 8
  off : Nat
  n : Nat
  peer : Option Nat
  deriving DecidableEq, Repr

def EngAcc.dev (a : EngAcc) (s : State) : Nat := accDev s a.fr.ctx a.region a.off a.peer

/-- The access is one of the issuing device's own home slices (R93). -/
def EngAcc.here (a : EngAcc) (s : State) : Bool := (decide (a.region = 0) || decide (a.region = 2)) && decide (a.dev s = s.dev)

def EngAcc.ask (a : EngAcc) (s : State) (wr : Bool) : Ask := engAsk .engine a.fr.ctx a.region wr a.fr.sys a.core a.off a.n s.dev

/-- Pieces of at most 256 bytes (R74). -/
def splitPackets : Nat → Nat → Nat → List (Nat × Nat)
  | 0, _, _ => []
  | f + 1, off, n => if n = 0 then [] else (off, Nat.min n 256) :: splitPackets f (off + 256) (n - 256)

/-- The pieces in which an access leaves: lines where a slice of this device or an owner serves them, packets to a peer. -/
def EngAcc.pieces (a : EngAcc) (s : State) : List (Nat × Nat) :=
  if a.region = 1 ∨ a.dev s = s.dev then splitLines (a.n / 128 + 2) a.off a.n else splitPackets (a.n / 256 + 1) a.off a.n

/-- Make an engine's access outstanding and send what may leave (R52, R65, R66). -/
def State.engStart (s : State) (a : EngAcc) (kind : PendKind) : State :=
  let part (pc : Nat × Nat) : Part :=
    let dev := accDev s a.fr.ctx a.region pc.1 a.peer
    { off := pc.1, n := pc.2, base := pc.1, dev := dev
      st := if a.region ≠ 1 ∧ dev = s.dev then .queued else .egress
      tries := 0, data := [], ktag := false, inval := false }
  let p : Pend :=
    { id := s.nextId, wid := s.nextId, kind := kind, ctx := a.fr.ctx, fr := a.fr, stamp := (s.core a.core).stamp
      region := a.region, off := a.off, n := a.n, viaKey := a.peer.isSome, cached := false, alloc := false, acq := false
      rel := false, sc := false, scDone := false, wide := false, dead := false, deadLanes := 0, jrn := [], jtag := none
      slots := 0, seq := 0, map := [], parts := (a.pieces s).map part }
  let s := { s.modCore a.core fun k => { k with pend := k.pend ++ [p], stamp := k.stamp + 1 } with nextId := s.nextId + 1 }
  let s := if a.region = 1 then p.parts.foldl (fun (s : State) (q : Part) => s.touchOwner a.fr.ctx q.off) s else s
  s.sendParts a.core p

/-- The outstanding access an engine waits for. -/
def Core.engPend (k : Core) (who : Waiter) : Option Pend :=
  k.pend.find? fun p => match p.kind with
    | .engRead w => decide (w = who)
    | .engWrite w _ => decide (w = who)
    | _ => false

/-- The engine's access meets a page fault somewhere, or its miss waits for a free entry (R39, R40, R146). -/
def State.engFaulted (s : State) (core : Nat) (who : Waiter) : Bool :=
  s.faulted who || s.stuckMiss who || match (s.core core).engPend who with
    | some p => (List.range p.parts.length).any fun i => s.faulted (.acc (.pend core p.id i)) || s.stuckMiss (.acc (.pend core p.id i))
    | none => false

/-- Read bytes for an engine: at once, or asked for and taken once all have come (R93, R117, R145, R331). -/
def State.engGet (s : State) (a : EngAcc) : EngRes (List Byte) :=
  if a.region = 0xFF then .ok s (s.sysBytes a.off a.n)
  else if a.here s then s.engRead a.who (a.ask s false)
  else match (s.core a.core).engPend a.who with
    | none => .wait (s.engStart a (.engRead a.who))
    | some p =>
      if p.parts.all fun q => q.st = .done then
        .ok (s.modCore a.core fun k => { k with pend := k.pend.filter fun q => q.id != p.id })
          ((p.parts.map fun q => sliceBytes q.data (q.off - q.base) q.n).flatten)
      else .wait s

/-- Write bytes for an engine: done once they are performed at their home slices (R106, R117, R145). -/
def State.engPut (s : State) (a : EngAcc) (bs : List (Option Byte)) : EngRes Unit :=
  if a.region = 0xFF then .ok (s.sysStore a.off bs) ()
  else if a.here s then s.engWrite a.who (a.ask s true) bs
  else match (s.core a.core).engPend a.who with
    | none => .wait (s.engStart a (.engWrite a.who bs))
    | some p =>
      if p.parts.all fun q => q.st = .done then
        .ok (s.modCore a.core fun k => { k with pend := k.pend.filter fun q => q.id != p.id }) ()
      else .wait s

/-- Forget the accesses that an engine waits for. -/
def State.engDrop (s : State) (core : Nat) (gone : Waiter → Bool) : State :=
  ((s.core core).pend.filter fun p => match p.kind with
    | .engRead w => gone w
    | .engWrite w _ => gone w
    | _ => false).foldl (fun s p => s.dropPend core p.id) s

/-- A slice without the waits of accesses that a test names (R41, R346). -/
def Slice.forget (gone : Waiter → Bool) (l : Slice) : Slice :=
  { l with
    walks := l.walks.filter fun w => !gone w.who
    input := l.input.filter fun a => !gone a.who
    faults := l.faults.map fun f => { f with who := f.who.filter fun w => !gone w } }

/-- An engine's accesses end: those outstanding, those that wait for a walk, and their part in pending faults (R41, R346). -/
def State.engForget (s : State) (core : Nat) (gone : Waiter → Bool) : State :=
  let ids := ((s.core core).pend.filter fun p => match p.kind with
    | .engRead w => gone w
    | .engWrite w _ => gone w
    | _ => false).map Pend.id
  let out (w : Waiter) : Bool := gone w || match w with
    | .acc (.pend c id _) => decide (c = core) && ids.contains id
    | _ => false
  { s.engDrop core gone with slices := s.slices.map fun (p : Nat × Slice) => (p.1, Slice.forget out p.2) }

end Sys2Proof.Machine
end

