-- ==== Sys2Proof/Machine/Trestle.lean ====
section
/-! DEFINITION. Trestle.lean: the footprints and ordering edges of engine jobs (R173 to R175), bytebars (R151, R152),
the buffer-port writes of engines (R44, R158), and the reservations they need (R473). -/

namespace Sys2Proof.Machine

/-! ### Footprints and edges (R173, R174) -/

/-- The 4 KiB granules that `n` bytes of a buffer touch (R173). -/
def granOf (buf off n : Nat) : List Gran := if n = 0 then [] else [⟨buf, off / 4096, (off + n - 1) / 4096⟩]

/-- A physical C tile as a footprint (R173). -/
def tileGran (t : Nat) : Gran := ⟨2, t, t⟩

def Gran.meets (a b : Gran) : Bool := decide (a.buf = b.buf) && decide (a.lo ≤ b.hi) && decide (b.lo ≤ a.hi)

def gransMeet (a b : List Gran) : Bool := a.any fun x => b.any fun y => x.meets y

/-- The earlier jobs that a footprint must wait for: write after write, read after write, write after read (R174). -/
def Core.edgesFor (k : Core) (reads writes : List Gran) : List Nat :=
  (k.trestle.filter fun t =>
    gransMeet t.writes writes || gransMeet t.writes reads || gransMeet t.reads writes).map Tr.tid

/-- The trestle has room for `n` more jobs (R175). -/
def Core.trestleRoom (k : Core) (n : Nat) : Bool := decide (k.trestle.length + n ≤ 64)

/-- A job enters the trestle. -/
def Core.enterTr (k : Core) (tid : Nat) (reads writes : List Gran) (ring : Option (Nat × Nat)) (fr : Frame) : Core :=
  { k with trestle := settleTr 65 (k.trestle ++ [⟨tid, reads, writes, k.edgesFor reads writes, ring, fr⟩]) }

/-- The first bytes of a job's footprint that the allocation of its context, as it now stands, does not hold (R157, R158). Footprints
and allocations both count 4 KiB granules. -/
def Core.trBad (k : Core) (tid : Nat) (x : Ctx) : Option Nat :=
  let gs := (k.trestle.filter fun t => t.tid = tid).flatMap fun t => t.reads ++ t.writes
  (gs.find? fun g => g.buf ≠ 2 && !k.bufOk x g.buf (4096 * g.lo) (4096 * (g.hi + 1 - g.lo))).map fun g => 4096 * g.lo

/-- Every edge of a job has resolved (R174). -/
def Core.unblocked (k : Core) (tid : Nat) : Bool := (k.trestle.filter fun t => t.tid = tid).all fun t => t.edges.isEmpty

/-- A job completes: its edges resolve (R174). -/
def Core.leaveTr (k : Core) (tid : Nat) : Core := k.resolve fun t => decide (t = tid)

/-! ### Bytebars (R151, R152) -/

/-- Release a successor once what each of several tickets issued earlier is done (R397). -/
def State.releaseGated (s : State) (core : Nat) (fr : Frame) (gates : List Gate) (nxt : W64) : State :=
  if nxt = 0 then s
  else if gates.all fun g => (s.core g.core).settled g.fr g.stamp then s.release core fr fr.ctx nxt
  else s.modCore core fun k =>
    { k with defer := k.defer ++ [⟨fr.serial, fr.ctx, 0, false, .chit (releaseChit s fr.ctx nxt.toNat), fr, gates⟩] }

/-- Count bytes into the bytebar at an S offset: one read-modify-write of ARR, and the release of SUCC on the count that
takes ARR from below EXP to EXP or above (R151, R152). -/
def State.countBytes (s : State) (core off n : Nat) (gate : Gate) : State :=
  let k := s.core core
  let v := memNat k.bufS off 16
  let exp := bitsOf v 39 0
  let arr := bitsOf v 79 40
  let new := (arr + n) % 2 ^ 40
  let k := k.bufWrite 3 off ((natBytes 16 (v - arr * 2 ^ 40 + new * 2 ^ 40)).map some)
  let gates := if (k.gates.contains (off, gate)) then k.gates else k.gates ++ [(off, gate)]
  if arr < exp ∧ exp ≤ new then
    let s := s.setCore core { k with gates := gates.filter fun g => g.1 != off }
    s.releaseGated core gate.fr ((gates.filter fun g => g.1 = off).map Prod.snd) (BitVec.ofNat 64 (bitsOf v 127 80))
  else s.setCore core { k with gates := gates }

/-- Count into the bytebar that a captured BYT names; bit 0 clear names none (R143, R350). -/
def State.countByt (s : State) (core : Nat) (byt : W64) (n : Nat) (gate : Gate) : State :=
  if byt.toNat % 2 = 1 then s.countBytes core (bitsOf byt.toNat 17 4 * 16) n gate else s

/-! ### Stopped engines (R382, R462) -/

/-- The engines of a core do not start work of X: X is frozen, or a CTXSAVE of X is parked on the core. -/
def State.stopped (s : State) (core : Nat) (x : Ctx) : Bool :=
  s.frozen x || (s.core core).wins.any fun w => match w.park with
    | some (.ctxsave _ y _) => decide (y = x)
    | _ => false

/-! ### Reservations (R473, R475) -/

/-- A requester's reservation is granted and not ramping down. -/
def State.granted (s : State) (core : Nat) (u : Load) : Bool :=
  (s.cluster (clusterOf core)).resv.any fun r =>
    decide (r.pos = posOf core) && decide (r.unit = u) && r.down.isNone && !r.ending

end Sys2Proof.Machine
end

