-- ==== Sys2Proof/Machine/Rings.lean ====
section
/-! DEFINITION. Rings.lean: hardware rings, their two sides, and porter streams (R116 to R137, R374 to R378). -/

namespace Sys2Proof.Machine

/-! ### The descriptor (R119, R120) -/

def Ring.en (r : Ring) : Bool := decide (r.rdc.toNat % 2 = 1)
def Ring.bufNo (r : Ring) : Nat := bitsOf r.rdc.toNat 2 1
/-- 1 for an out ring -/
def Ring.isOut (r : Ring) : Bool := decide (bitsOf r.rdc.toNat 3 3 = 1)
def Ring.prod (r : Ring) : Nat := bitsOf r.rdc.toNat 5 4
def Ring.base (r : Ring) : Nat := bitsOf r.rdc.toNat 18 8 * 256
def Ring.slotBytes (r : Ring) : Nat := (bitsOf r.rdc.toNat 26 19 + 1) * 256
/-- NSL + 1 -/
def Ring.size (r : Ring) : Nat := bitsOf r.rdc.toNat 32 27 + 1
def Ring.ctx (r : Ring) : Ctx := BitVec.ofNat 16 (bitsOf r.rdc.toNat 63 48)
/-- The buffer offset of slot `i`, taken modulo the slot count. -/
def Ring.slotAt (r : Ring) (i : Nat) : Nat := r.base + i % r.size * r.slotBytes
def Ring.area (r : Ring) : Nat := r.size * r.slotBytes

/-- RDPn (R120). -/
def Ring.rdp (r : Ring) : W64 :=
  BitVec.ofNat 64 (r.wp % 64 + r.rp % 64 * 2 ^ 6 + r.cnt % 128 * 2 ^ 12 + r.gc % 128 * 2 ^ 19 + bit r.bound * 2 ^ 26
    + bit r.eos * 2 ^ 27 + bit r.ovf * 2 ^ 28 + r.seq.toNat * 2 ^ 32)

def Core.ring (k : Core) (n : Nat) : Ring := vget Ring.zero k.rings n

def Core.modRing (k : Core) (n : Nat) (f : Ring → Ring) : Core := { k with rings := vmod n f k.rings }

/-- The software-side get of index `g` is satisfied (R123). -/
def Ring.getOk (r : Ring) (g : Nat) : Bool := if r.isOut then decide (g + r.cnt < r.size) else decide (g < r.cnt)

/-- The fill get of index `f` is satisfied (R376). -/
def Ring.fillOk (r : Ring) (f : Nat) : Bool := if r.isOut then decide (f < r.cnt) else decide (f + r.cnt < r.size)

/-- The footprint of a slot: what a ring operation declares (R126, R376). -/
def Ring.gran (r : Ring) (i : Nat) : List Gran := granOf r.bufNo (r.slotAt i) r.slotBytes

/-- A ring operation on this slot still waits in the trestle (R126): the far side does not touch the slot. -/
def Core.slotWaits (k : Core) (n i : Nat) : Bool :=
  k.trestle.any fun t => t.ring = some (n, i % (k.ring n).size)

/-! ### Successors of gets (R123, R397) -/

/-- Release what a get captured. -/
def State.releaseGet (s : State) (core : Nat) (g : Get) : State := s.releaseAfter core g.fr g.stamp g.nxt

/-- Satisfied gets leave both queues and release their successors (R123, R128, R376), once their trestle entries are resolved
(R126, R129). -/
def State.satisfy (s : State) (core n : Nat) : State :=
  let k := s.core core
  let r := k.ring n
  let up (g : Get) : Bool := !(k.trestle.any fun t => t.tid = g.tid)
  let got := r.held ++ r.gets.filter fun g => r.getOk g.g
  let filled := r.fheld ++ r.fgets.filter fun g => r.fillOk g.g
  let s := s.modCore core fun k => k.modRing n fun r =>
    { r with
      gets := r.gets.filter fun g => !r.getOk g.g
      fgets := r.fgets.filter fun g => !r.fillOk g.g
      held := got.filter fun g => !up g
      fheld := filled.filter fun g => !up g }
  (got.filter up ++ filled.filter up).foldl (fun s g => s.releaseGet core g) s

/-- Gets that waited for ring operations in the trestle are satisfied (R126). -/
def State.satisfyAll (s : State) (core : Nat) : State := (List.range 16).foldl (fun s n => s.satisfy core n) s

/-- A job leaves the trestle of a core: its edges resolve, and gets that waited for ring operations behind it are satisfied
(R126, R174). -/
def State.leaveTr (s : State) (core tid : Nat) : State :=
  (s.modCore core fun k => k.leaveTr tid).satisfyAll core

/-- The far side's advance (R127). -/
def Ring.advance (r : Ring) : Ring :=
  { r with
    wp := (r.wp + 1) % r.size
    cnt := if r.isOut then r.cnt - 1 else r.cnt + 1
    seq := r.seq + 1 }

def State.advanceRing (s : State) (core n : Nat) : State :=
  (s.modCore core fun k => k.modRing n Ring.advance).satisfy core n

/-! ### Common checks (R122, R348) -/

/-- A ring number (R348). -/
def ringArg (w : Window) (b : SI) : Ex Nat :=
  if (w.si b).toNat < 16 then .ok (w.si b).toNat else .error (FaultInfo.plain cILLEGAL 0)

/-- R122 for RGET, RPUT, PSUB and PDROP. -/
def ringUse (s : State) (w : Window) (b : SI) : Ex (Nat × Ring) :=
  match ringArg w b with
  | .error e => .error e
  | .ok n =>
    let r := s.me.ring n
    if !r.en then .error (FaultInfo.plain cBUFFER 0)
    else if r.ctx ≠ w.fr.ctx then .error (FaultInfo.plain cPERM 0)
    else .ok (n, r)

/-! ### RCFG (R121, R122, R374) -/

/-- The rings of a job, each with whether the job fills it (R130, R144). -/
def CopyJob.rings (j : CopyJob) : List (Nat × Bool) :=
  (if j.dst.kind = 3 then [(j.dst.off, true)] else []) ++ (if j.src.kind = 3 then [(j.src.off, false)] else [])

/-- A copy job or software fill on the ring is not finished. -/
def Core.ringJob (k : Core) (n : Nat) : Bool :=
  (k.copies.any fun j => j.rings.any fun r => decide (r.1 = n))
    || decide ((k.ring n).fgc ≠ 0)

/-- Checks 2 and 3 of R121. -/
def ringFits (s : State) (w : Window) (n : Nat) (r : Ring) : Bool :=
  let hi := r.base + r.area
  decide (hi ≤ (if r.bufNo = 3 then spillBase else bufSize r.bufNo))
    && s.me.bufOk w.fr.ctx r.bufNo r.base r.area
    && !((List.range 16).any fun i =>
        let o := s.me.ring i
        i != n && o.en && decide (o.bufNo = r.bufNo) && decide (o.base < hi) && decide (r.base < o.base + o.area))

/-- DESIGN CHOICE (log 63): a ring that EN = 0 frees has every field of RDC and RDP at its reset value. -/
def rcfgCheck (s : State) (w : Window) (a : SReg) (b : SI) : Ex (Nat × Ring) :=
  match ringArg w b with
  | .error e => .error e
  | .ok n =>
    let v := (w.rdS a).toNat
    let old := s.me.ring n
    let new : Ring := { Ring.zero with rdc := BitVec.ofNat 64 (v % 2 ^ 48 + w.fr.ctx.toNat * 2 ^ 48) }
    let busy := old.bound || decide (old.gc ≠ 0) || s.me.ringJob n
    if bitsOf v 7 6 ≠ 0 ∨ bitsOf v 47 33 ≠ 0 then .error (FaultInfo.plain cILLEGAL 0)
    else if old.en && decide (old.ctx ≠ w.fr.ctx) then .error (FaultInfo.plain cPERM 0)
    else if !new.en then (if old.en && busy then .error (FaultInfo.plain cBUFFER 0) else .ok (n, Ring.zero))
    else if new.bufNo = 2 ∨ new.prod = 3 then .error (FaultInfo.plain cILLEGAL 0)
    else if !ringFits s w n new || busy then .error (FaultInfo.plain cBUFFER 0)
    else .ok (n, new)

def execRcfg (h : Hdr) (a : SReg) (b : SI) (s : State) : Out :=
  issue h false [] s fun s w =>
    Res.check (rcfgCheck s w a b) fun p => .ok ((s.modMe fun k => k.modRing p.1 fun _ => p.2).modTop Window.advance)

/-! ### RGET and RPUT (R123 to R126, R375, R376) -/

/-- The frame's open entries close for an implicit release, if one is named (R105). -/
def State.closeFor (s : State) (f : Frame) (nxt : W64) : State := if nxt = 0 then s else s.modMe fun k => k.closeTicket f

/-- A ring operation enters the trestle with its slot's footprint (R126). -/
def State.ringTr (s : State) (w : Window) (n i : Nat) (r : Ring) (wr : Bool) : State :=
  let g := r.gran i
  { s.modMe fun k => k.enterTr s.nextId (if wr then [] else g) (if wr then g else []) (some (n, i % r.size)) w.fr with
    nextId := s.nextId + 1 }

def rgetCheck (s : State) (w : Window) (b : SI) (fill : Bool) : Ex (Nat × Ring) :=
  match ringUse s w b with
  | .error e => .error e
  | .ok (n, r) =>
    let g := if fill then r.fgc else r.gc
    let waiting := (if fill then r.fgets else r.gets).length
    let ok := if fill then r.fillOk g else r.getOk g || (r.eos && !r.isOut)
    if fill && decide (r.prod ≠ 2) then .error (FaultInfo.plain cBUFFER 0)
    else if g = r.size then .error (FaultInfo.plain cBUFFER 0)
    else if !ok && decide (8 ≤ waiting) then .error (FaultInfo.plain cBUFFER 0)
    else (captureCheck s w false).map fun _ => (n, r)

def rget (h : Hdr) (b : SI) (fill : Bool) (s : State) : Out :=
  issue h false [] s fun s w =>
    Res.check (rgetCheck s w b fill) fun p =>
      let n := p.1
      let r := p.2
      let g := if fill then r.fgc else r.gc
      let get : Get := ⟨g, w.nxt, w.fr, s.me.stamp, s.nextId⟩
      if !s.me.trestleRoom 1 then .wait .stall false
      else
        let s := s.closeFor w.fr w.nxt
        if !fill && r.eos && !r.isOut && !r.getOk g then .ok ((s.releaseGet s.cur get).modTop Window.advance)
        else
          let s := s.ringTr w n (if fill then r.wp + g else r.rp + g) r (if fill then !r.isOut else r.isOut)
          let s := s.modMe fun k => k.modRing n fun r =>
            if fill then { r with fgc := r.fgc + 1, fgets := r.fgets ++ [get] }
            else { r with gc := r.gc + 1, gets := r.gets ++ [get] }
          .ok ((s.satisfy s.cur n).modTop Window.advance)

/-- The software-side RGET (R375). -/
def execRget (h : Hdr) (b : SI) (s : State) : Out := rget h b false s

/-- The far-side RGET (R376). -/
def execRgetFill (h : Hdr) (b : SI) (s : State) : Out := rget h b true s

/-- Gets move up by one once the oldest has been put. -/
def shiftGets (gs : List Get) : List Get := gs.map fun g => { g with g := g.g - 1 }

/-- The software side gives back slot RP (R125, R135). DESIGN CHOICE (log 63): on an out ring with EOS = 1 the slot goes back
unread and WP stays where it is. -/
def Ring.put (r : Ring) : Ring :=
  let r := { r with rp := (r.rp + 1) % r.size, gc := r.gc - 1, gets := shiftGets r.gets }
  if r.isOut && r.eos then { r with ovf := true }
  else { r with cnt := if r.isOut then r.cnt + 1 else r.cnt - 1 }

def rputCheck (s : State) (w : Window) (b : SI) (fill : Bool) : Ex (Nat × Ring) :=
  match ringUse s w b with
  | .error e => .error e
  | .ok (n, r) =>
    if fill && decide (r.prod ≠ 2) then .error (FaultInfo.plain cBUFFER 0)
    else if (if fill then r.fgc else r.gc) = 0 then .error (FaultInfo.plain cBUFFER 0)
    else if !(if fill then r.fillOk 0 else r.getOk 0) then .error (FaultInfo.plain cBUFFER 0)
    else .ok (n, r)

def execRput (h : Hdr) (b : SI) (s : State) : Out :=
  issue h false [] s fun s w =>
    Res.check (rputCheck s w b false) fun p =>
      afterOwn s w <|
      if !s.me.trestleRoom 1 then .wait .stall false
      else
        let s := s.ringTr w p.1 p.2.rp p.2 (!p.2.isOut)
        let s := s.modMe fun k => k.modRing p.1 Ring.put
        .ok ((s.satisfy s.cur p.1).modTop Window.advance)

def execRputFill (h : Hdr) (b : SI) (s : State) : Out :=
  issue h false [] s fun s w =>
    Res.check (rputCheck s w b true) fun p =>
      afterOwn s w <|
      if !s.me.trestleRoom 1 then .wait .stall false
      else
        let s := s.ringTr w p.1 p.2.wp p.2 p.2.isOut
        let s := s.modMe fun k => k.modRing p.1 fun r => { r with fgc := r.fgc - 1, fgets := shiftGets r.fgets }
        .ok ((s.advanceRing s.cur p.1).modTop Window.advance)

/-! ### Streams (R131 to R136, R377, R378) -/

/-- The cores of a core's cluster (R5). -/
def clusterCores (c : Nat) : List Nat := (List.range 4).map fun i => dieOf c * 192 + (rowOf c / 4 * 4 + i) * 16 + colOf c

/-- Stream contexts in use at the porter of a core's cluster (R116). -/
def State.streams (s : State) (c : Nat) : Nat :=
  ((clusterCores c).map fun i => (s.core i).rings.toList.countP fun r => r.stream.isSome).foldr (· + ·) 0

/-- The base of a stream (R134 step 3, R377): region, offset and key. The span through a key is one access of R46; one that leaves
the 64-bit offsets fails its bounds with ADDR. -/
def psubBase (s : State) (w : Window) (a : SK) (span : Nat) (out : Bool) : Ex (BitVec 8 × Nat × Option Key) :=
  let (region, base, key) := w.base a
  let f : FaultInfo := ⟨cADDR, 5, region.toNat, base⟩
  let chk : Ex Unit := match key with
    | some k => match k.check (if out then pWRITE else pREAD) base span 5 w.sys with
      | .error e => .error (if e.code = cBOUNDS ∧ 2 ^ 64 < base + span then f else e)
      | .ok _ =>
        if 3 < region.toNat then .error f
        else if s.reachable (accDev s w.fr.ctx region base (some k.peer)) then .ok () else .error f
    | none => if region = 0 ∨ region = 1 then .ok () else .error f
  match chk with
  | .error e => .error e
  | .ok _ => if 2 ^ 48 < base + span then .error f else .ok (region, base, key)

/-- The checks of PSUB (R122, R134, R158, R377). -/
def psubCheck (s : State) (w : Window) (d : BuS) (a : SK) (b : SI) : Ex (Nat × Stream) :=
  match ringUse s w b with
  | .error e => .error e
  | .ok (n, r) =>
    let bad : FaultInfo := FaultInfo.plain cBUFFER 0
    if r.prod ≠ 0 ∨ r.bound ∨ r.gc ≠ 0 then .error bad
    else match w.buS d with
      | none => .error bad
      | some (buf, o) =>
        if buf ≠ 3 ∨ o % 64 ≠ 0 ∨ !s.me.bufOk w.fr.ctx 3 o 64 then .error { bad with detail := o }
        else
          let raw := memNat s.me.bufS o 64
          let h := Shape.ofNat raw
          if !h.valid || decide (r.slotBytes < h.tileBytes) then .error { bad with detail := o }
          else match psubBase s w a h.span r.isOut with
            | .error e => .error e
            | .ok (region, base, key) =>
              if 32 ≤ s.streams s.cur ∨ !s.me.bufOk w.fr.ctx r.bufNo r.base r.area then .error bad
              else .ok (n, { shape := BitVec.ofNat 512 raw, region := region, base := base, viaKey := key
                             rank := w.fr.rank.toNat, fansz := w.fr.fansz.toNat, next := 0, origin := w.fr })

def Stream.sh (t : Stream) : Shape := Shape.ofNat t.shape.toNat

/-- The tile the stream moves next, if its rank has one left (R133). -/
def Stream.tile (t : Stream) : Option Nat := t.sh.rankTile t.rank t.fansz t.next

/-- A stream without a further tile ends (R135). Gets of an in ring are released and no longer count; a PDROP that waits for the
stream is done (R136). -/
def State.streamEnd (s : State) (core n : Nat) : State :=
  let r := (s.core core).ring n
  match r.stream with
  | none => s
  | some t =>
    if t.tile.isSome then s
    else
      let free := if r.isOut then [] else r.gets
      let s := s.modCore core fun k => k.modRing n fun r =>
        { r with
          eos := true
          bound := false
          stream := none
          gets := if r.isOut then r.gets else []
          gc := r.gc - free.length
          drop := []
          dropLeft := 0 }
      (free ++ r.drop).foldl (fun s g => s.releaseGet core g) s

def execPsub (h : Hdr) (d : BuS) (a : SK) (b : SI) (s : State) : Out :=
  issue h false [] s fun s w =>
    afterOwn s w <| Res.check (psubCheck s w d a b) fun p =>
      let s := s.modMe fun k => k.modRing p.1 fun r => { r with bound := true, eos := false, stream := some p.2 }
      .ok ((s.streamEnd s.cur p.1).modTop Window.advance)

def execPdrop (h : Hdr) (b : SI) (s : State) : Out :=
  issue h false [] s fun s w =>
    Res.check (match ringUse s w b with
      | .error e => .error e
      | .ok p => (captureCheck s w false).map fun _ => p) fun p =>
      let g : Get := ⟨0, w.nxt, w.fr, s.me.stamp, 0⟩
      let s := s.closeFor w.fr w.nxt
      let s := if p.2.bound then s.modMe fun k => k.modRing p.1 fun r =>
          { r with drop := r.drop ++ [g], dropLeft := r.cnt }
        else s.releaseGet s.cur g
      .ok (s.modTop Window.advance)

/-- The porter has begun the current slot. -/
def Ring.midSlot (r : Ring) : Bool :=
  match r.stream with
  | some t => decide (t.row ≠ 0) || !t.data.isEmpty
  | none => false

/-- PDROP's end: of an in ring after the slot its porter is writing, of an out ring once every slot handed over before it is empty (R136). -/
def execPdropDone (core n : Nat) (s : State) : Out :=
  let r := (s.core core).ring n
  if r.drop.isEmpty || r.midSlot || (r.bound && r.isOut && decide (r.dropLeft ≠ 0)) then .next s
  else
    let s := (s.engDrop core fun w => decide (w = .porter core n)).modCore core fun k => k.modRing n fun r =>
      { r with bound := false, stream := none, drop := [], dropLeft := 0 }
    .next (r.drop.foldl (fun s g => s.releaseGet core g) s)

/-! ### The porter (R117, R118, R127, R132) -/

/-- The rows of a tile that lie inside the extents: slot offset, memory offset and bytes (R132). -/
def Stream.rows (t : Stream) (i : Nat) : List (Nat × Nat × Nat) :=
  let h := t.sh
  let t0 := i % h.n0
  let left := ceilDiv ((h.ext0 - t0 * h.tile0) * h.b) 8
  (List.range h.tile1).filterMap fun j =>
    (h.tileAddr i (j * h.rowBytes)).map fun a => (j * h.rowBytes, t.base + a, Nat.min h.rowBytes left)

/-- A porter's access to bytes of its stream (R48, R52, R117). -/
def Stream.acc (t : Stream) (core n off m : Nat) : EngAcc :=
  ⟨core, .porter core n, t.origin, t.region, off, m, t.viaKey.map Key.peer⟩

/-- Change the stream of a ring. -/
def State.modStream (s : State) (core n : Nat) (f : Stream → Stream) : State :=
  s.modCore core fun k => k.modRing n fun r => { r with stream := r.stream.map f }

/-- One more row of the slot has moved (R118). -/
def State.rowMoved (s : State) (core n : Nat) : State := s.modStream core n fun t => { t with row := t.row + 1 }

/-- Where row `j` of a tile lies, if it is inside the extents: memory offset and bytes (R132). -/
def Stream.rowAt (t : Stream) (i j : Nat) : Option (Nat × Nat) :=
  let h := t.sh
  let left := ceilDiv ((h.ext0 - i % h.n0 * h.tile0) * h.b) 8
  (h.tileAddr i (j * h.rowBytes)).map fun a => (t.base + a, Nat.min h.rowBytes left)

/-- A row has come, with zeros outside the extents: each aligned 8-byte unit of the slot is written once all its bytes are there
(R129, R132). -/
def State.putRow (s : State) (core n : Nat) (r : Ring) (row : List Byte) : State :=
  match ((s.core core).ring n).stream with
  | none => s
  | some t =>
    let h := t.sh
    let new := t.data ++ sliceBytes row 0 h.rowBytes
    let lo := t.data.length / 8 * 8
    let hi := if h.tile1 ≤ t.row + 1 then new.length else new.length / 8 * 8
    (s.modCore core fun k => k.bufWrite r.bufNo (r.slotAt r.wp + lo) (((new.drop lo).take (hi - lo)).map some)).modStream core n
      fun t => { t with row := t.row + 1, data := new }

/-- Fill the rows of a slot from row `j` on, each as it comes (R118, R132). -/
def State.readRows (s : State) (core n : Nat) (r : Ring) (t : Stream) (i : Nat) : List Nat → EngRes Unit
  | [] => .ok s ()
  | j :: l =>
    match t.rowAt i j with
    | none => State.readRows (s.putRow core n r []) core n r t i l
    | some (a, m) =>
      match s.engGet (t.acc core n a m) with
      | .ok s bs => State.readRows (s.putRow core n r bs) core n r t i l
      | .wait s => .wait s
      | .bad p => .bad p

/-- Write the rows of a slot to memory, each once (R118, R132). -/
def State.writeRows (s : State) (core n : Nat) (t : Stream) (slot : List Byte) : List (Nat × Nat × Nat) → EngRes Unit
  | [] => .ok s ()
  | (o, a, m) :: r =>
    match s.engPut (t.acc core n a m) ((sliceBytes slot o m).map some) with
    | .ok s _ => State.writeRows (s.rowMoved core n) core n t slot r
    | .wait s => .wait s
    | .bad p => .bad p

/-- The porter may move the slot at WP: not a new slot of an in ring that PDROP stops, nor one of an out ring beyond those handed over
before it (R136), nor of a stopped context; an out slot it has begun it finishes (R137). -/
def State.porterTurn (s : State) (core n : Nat) (out : Bool) : Option (Ring × Stream × Nat) :=
  let r := (s.core core).ring n
  match r.stream with
  | none => none
  | some t =>
    let avail := if out then decide (1 ≤ r.cnt) else decide (r.cnt < r.size)
    let held := (s.stopped core r.ctx && !(out && r.midSlot)) || (!r.drop.isEmpty && !r.midSlot && (!out || decide (r.dropLeft = 0)))
    if r.en && r.bound && decide (r.prod = 0) && r.isOut = out && avail && !(s.core core).slotWaits n r.wp && !held then
      t.tile.map fun i => (r, t, i)
    else none

/-- A tile has moved: the ring advances, and the stream ends after its last tile (R127, R135). -/
def State.tileDone (s : State) (core n : Nat) : State :=
  (((s.modStream core n fun t => { t with next := t.next + 1, row := 0, data := [] }).modCore core fun k => k.modRing n fun r =>
    { r with dropLeft := r.dropLeft - 1 }).advanceRing core n).streamEnd core n

/-- The slot that a porter is to move lies outside the allocation as it now stands: BUFFER for the context (R118, R158). -/
def State.slotOut (s : State) (core : Nat) (r : Ring) (t : Stream) : Option State :=
  if (s.core core).bufOk r.ctx r.bufNo (r.slotAt r.wp) t.sh.tileBytes then none
  else some (s.fatalAt r.ctx cBUFFER 5 0 (r.slotAt r.wp) (agentAt (clusterOf core)))

/-- The porter fills `slot`, which is slot WP of an in ring: elements outside the extents are zero (R127, R132). -/
def execFarSideInAdvance (core n slot : Nat) (s : State) : Out :=
  match s.porterTurn core n false with
  | none => .next s
  | some (r, t, i) =>
    if slot ≠ r.wp then .next s
    else match s.slotOut core r t with
      | some s => .next s
      | none =>
        match s.readRows core n r t i ((List.range t.sh.tile1).drop t.row) with
        | .ok s _ => .next (s.tileDone core n)
        | .wait s => .next s
        | .bad pa => .fault (.noSuchAddress pa)

/-- The porter empties slot WP of an out ring, which advances once its bytes are performed at their destination (R127, R132). It takes
the slot's bytes when it begins. -/
def execFarSideOutAdvance (core n : Nat) (s : State) : Out :=
  match s.porterTurn core n true with
  | none => .next s
  | some (r, t, i) =>
    match s.slotOut core r t with
    | some s => .next s
    | none =>
      let slot := if t.data.isEmpty then memRead ((s.core core).buf r.bufNo) (r.slotAt r.wp) t.sh.tileBytes else t.data
      match (s.modStream core n fun t => { t with data := slot }).writeRows core n t slot ((t.rows i).drop t.row) with
      | .ok s _ => .next (s.tileDone core n)
      | .wait s => .next s
      | .bad pa => .fault (.noSuchAddress pa)

end Sys2Proof.Machine
end

