-- ==== Sys2Proof/Machine/Copy.lean ====
section
/-! DEFINITION. Copy.lean: the copy engine: endpoints, job cards, packets, completion and bytebars
(R138 to R155, R277, R371 to R373). -/

namespace Sys2Proof.Machine

/-! ### Endpoints (R138, R139) -/

/-- Where an endpoint's byte lies: in the core's own buffers, or elsewhere. -/
inductive Place where
  | own (buf off : Nat)
  | mem (region : BitVec 8) (off dev : Nat)
  deriving DecidableEq, Repr

/-- A region and offset as a place: the core's own window is its own buffer. -/
def placeOf (s : State) (core : Nat) (x : Ctx) (region : BitVec 8) (off : Nat) (peer : Option Nat) : Place :=
  let off := off % 2 ^ 64
  if region = 0xFE ∧ winDev off = s.dev ∧ winCore off = core then .own (winBuf off) (winOff off)
  else .mem region off (accDev s x region off peer)

/-- Byte `o` of a job's endpoint. -/
def End.at (e : End) (s : State) (core : Nat) (x : Ctx) (o : Nat) : Place :=
  match e.kind with
  | 0 => placeOf s core x e.region (e.off + o) none
  | 1 => .own (bitsOf e.off 21 20) (bitsOf e.off 19 0 + o)
  | 2 =>
    let k := e.key.getD Key.zero
    placeOf s core x k.region (k.off + e.off + o) (some k.peer)
  | _ => .own (e.slot / 2 ^ 20) (e.slot % 2 ^ 20 + o)

/-- A window endpoint (R27); no job touches the spill area, a SYS ticket's as little as any (R159). -/
def windowEnd (s : State) (w : Window) (o n : Nat) (viaKey : Bool) : Ex Unit :=
  match windowCheck s w o n 5 viaKey with
  | .error e => .error e
  | .ok _ =>
    if winDev o = s.dev ∧ winCore o = s.cur ∧ !s.me.bufOk w.fr.ctx (winBuf o) (winOff o) n then
      .error ⟨cBUFFER, 5, 0xFE, winOff o⟩
    else .ok ()

/-- Step 2 of R139: a key endpoint. -/
def keyEnd (s : State) (w : Window) (e : End) (wr : Bool) (n : Nat) : Ex Unit :=
  match e.key with
  | none => .ok ()
  | some k =>
    let o : Int := k.off + e.off
    let d := (k.off + e.off) % 2 ^ 64
    let f : FaultInfo := ⟨cADDR, 5, k.region.toNat, d⟩
    match k.check (if wr then pWRITE else pREAD) o n 5 w.sys with
    | .error e => .error e
    | .ok _ =>
      if !s.reachable (accDev s w.fr.ctx k.region d (some k.peer)) then .error f
      else if k.region.toNat ≤ 3 then (if 2 ^ 48 < d + n then .error f else .ok ())
      else if k.region = 0xFE then windowEnd s w d n true
      else .ok ()

/-- Step 3 of R139: a buffer or memory endpoint. -/
def bufEnd (s : State) (w : Window) (e : End) (n : Nat) : Ex Unit :=
  let f (code d : Nat) : FaultInfo := ⟨code, 5, e.region.toNat, d⟩
  if e.kind = 1 then
    let b := bitsOf e.off 21 20
    let o := bitsOf e.off 19 0
    if e.off / 2 ^ 22 ≠ 0 ∨ b = 2 ∨ !s.me.bufOk w.fr.ctx b o n then .error ⟨cBUFFER, 5, 0, o⟩ else .ok ()
  else if e.kind = 0 then
    if !regionOk e.region ∨ 2 ^ 64 < e.off + n then .error (f cADDR e.off)
    else if e.region = 0xFF then (if w.sys then .ok () else .error ⟨cPRIV, 5, 0, 0⟩)
    else if e.region = 0xFE then windowEnd s w e.off n false
    else if 2 ^ 48 < e.off + n then .error (f cADDR e.off) else .ok ()
  else .ok ()

/-- Jobs on a ring that have not completed. -/
def Core.ringJobs (k : Core) (n : Nat) : Nat := k.copies.countP fun j => j.rings.any fun r => decide (r.1 = n)

/-- Step 4 of R139: a ring endpoint; its slot lies in the allocation as it now stands (R158). -/
def ringEnd (s : State) (w : Window) (e : End) (dst : Bool) (n : Nat) : Ex Unit :=
  if e.kind = 3 then
    let r := s.me.ring e.off
    let o := r.slotAt (r.wp + s.me.ringJobs e.off)
    if e.off < 16 ∧ r.en ∧ r.prod = 1 ∧ r.ctx = w.fr.ctx ∧ r.isOut = !dst ∧ n ≤ r.slotBytes then
      if s.me.bufOk r.ctx r.bufNo o n then .ok () else .error ⟨cBUFFER, 5, 0, o⟩
    else .error (FaultInfo.plain cBUFFER 5)
  else .ok ()

/-- A card as the engine holds it (R141, R371). -/
structure Card where
  dst : End
  src : End
  len : Nat
  xf : Bool
  hpri : Nat
  deriving DecidableEq, Repr

/-- The first error of a list of checks. -/
def firstErr : List (Ex Unit) → Ex Unit
  | [] => .ok ()
  | .error e :: _ => .error e
  | .ok _ :: r => firstErr r

/-- R139 in its order. -/
def cardCheck (s : State) (w : Window) (c : Card) : Ex Unit :=
  if c.len = 0 ∨ 2 ^ 24 < c.len then .error (FaultInfo.plain cBUFFER 5)
  else firstErr [keyEnd s w c.dst true c.len, keyEnd s w c.src false c.len, bufEnd s w c.dst c.len, bufEnd s w c.src c.len,
    ringEnd s w c.dst true c.len, ringEnd s w c.src false c.len]

/-! ### Issue (R140, R142, R143, R150, R277) -/

/-- A ring endpoint takes the slot that follows those of the ring's earlier jobs. -/
def End.take (e : End) (k : Core) : End :=
  if e.kind = 3 then
    let r := k.ring e.off
    { e with slot := r.bufNo * 2 ^ 20 + r.slotAt (r.wp + k.ringJobs e.off) }
  else e

/-- The buffer footprint of an endpoint (R173). -/
def End.grans (e : End) (n : Nat) : List Gran :=
  if e.kind = 1 then granOf (bitsOf e.off 21 20) (bitsOf e.off 19 0) n
  else if e.kind = 3 then granOf (e.slot / 2 ^ 20) (e.slot % 2 ^ 20) n
  else []

/-- The range slots of each packet whose destination is tagged (R277). -/
def packetTags (s : State) (core : Nat) (x : Ctx) (c : Card) : List (Nat × BitVec 16) :=
  let k := s.core core
  if k.slots.toList.any fun r => r.v && decide (r.ctx = x) then
    (List.range (ceilDiv c.len 256)).filterMap fun i =>
      match c.dst.at s core x (256 * i) with
      | .own _ _ => none
      | .mem region off dev =>
        let t := k.tagsOf x region dev off (Nat.min 256 (c.len - 256 * i))
        if t = 0 then none else some (i, t)
  else []

/-- Counting these packets would take a CNT above 65,535 (R171). -/
def Core.tagsFull (k : Core) (ts : List (Nat × BitVec 16)) : Bool :=
  (List.range 16).any fun i =>
    let n := ts.countP fun t => t.2.getLsbD i
    decide (0 < n) && decide (65535 < (vget Slot.zero k.slots i).cnt + n)

/-- One card becomes a job. -/
def issueCard (s : State) (w : Window) (chain : Nat) (c : Card) : State :=
  let k := s.me
  let dst := c.dst.take k
  let src := c.src.take k
  let tags := packetTags s s.cur w.fr.ctx c
  let j : CopyJob :=
    { tid := s.nextId
      ctx := w.fr.ctx
      fr := w.fr
      stamp := k.stamp
      dst := dst
      src := src
      len := c.len
      xf := c.xf
      hpri := c.hpri
      hnde := w.hnde
      nxt := w.nxt
      byt := w.byt
      chain := chain
      started := false
      issued := 0
      packets := []
      counted := 0
      tags := tags }
  let k := tags.foldl (fun k t => k.count t.2 true) k
  let k := k.enterTr s.nextId (src.grans c.len) (dst.grans c.len) none w.fr
  let k := k.modCx w.fr.ctx fun x => { x with seqcIssued := x.seqcIssued + 1 }
  { s.setCore s.cur { k with copies := k.copies ++ [j] } with nextId := s.nextId + 1 }

/-- Issue the jobs of checked cards, or stall (R140, R171, R175). -/
def issueCards (s : State) (w : Window) (chain : Bool) (cs : List Card) : Res :=
  let k := s.me
  let tags := cs.flatMap fun c => packetTags s s.cur w.fr.ctx c
  if 32 < k.copies.length + cs.length ∨ !k.trestleRoom cs.length ∨ k.tagsFull tags then .wait .stall false
  else
    let s := if w.nxt = 0 ∧ w.byt.toNat % 2 = 0 then s else s.modMe fun k => k.closeTicket w.fr
    let id := if chain then s.nextId else 0
    let s := cs.foldl (fun s c => issueCard s w id c) s
    .ok ((s.modMe fun k => { k with stamp := k.stamp + 1 }).modTop Window.advance)

/-- An operand of COPY as an endpoint (R138, R349, R371). -/
def copyEnd (w : Window) (x : CopyOp) (ring buf : Bool) : End :=
  let drg : BitVec 8 := w.drg.truncate 8
  match x with
  | .s r => ⟨if ring then 3 else if buf then 1 else 0, (w.rdS r).toNat, drg, none, 0, 0⟩
  | .bu b o => ⟨1, b.val * 2 ^ 20 + o.toNat * 16, drg, none, 0, 0⟩
  | .k r => ⟨2, 0, drg, some (w.rdK r), 0, r.val⟩

def execCopy (h : Hdr) (dring sring xf : Bool) (hpri : Fin 8) (dbuf sbuf : Bool) (d a : CopyOp) (b : SI) (s : State) : Out :=
  issue h false [] s fun s w =>
    let c : Card := ⟨copyEnd w d dring dbuf, copyEnd w a sring sbuf, (w.si b).toNat, xf, hpri.val⟩
    afterOwn s w <| Res.check (cardCheck s w c) fun _ =>
      if w.fr.pri < hpri.val then .fault (FaultInfo.plain cBUFFER 0)
      else Res.check (captureCheck s w true) fun _ => issueCards s w false [c]

/-- A job card (R141), or none where its format is refused (R142). -/
def readCard (w : Window) (n : Nat) : Option Card :=
  let drg : BitVec 8 := w.drg.truncate 8
  let key (i : Nat) : Option Key := some (w.rdK (Fin.ofNat 8 i))
  let dk := bitsOf n 154 152
  let sk := bitsOf n 157 155
  if 3 < dk ∨ 3 < sk ∨ bitsOf n 191 168 ≠ 0 ∨ bitsOf n 255 206 ≠ 0 ∨ w.fr.pri < bitsOf n 167 165 then none
  else some
    { dst := ⟨dk, bitsOf n 63 0, drg, if dk = 2 then key (bitsOf n 160 158) else none, 0, bitsOf n 160 158⟩
      src := ⟨sk, bitsOf n 127 64, drg, if sk = 2 then key (bitsOf n 163 161) else none, 0, bitsOf n 163 161⟩
      len := bitsOf n 151 128 + 1
      xf := decide (bitsOf n 164 164 = 1)
      hpri := bitsOf n 167 165 }

/-- The cards of a chain, each checked in chain order (R142). DESIGN CHOICE (log 63): within one card the kinds, the reserved fields and
HPRI come before the checks of R139; R142 gives no order between them. -/
def readChain (s : State) (w : Window) : Nat → Nat → Ex (List Card)
  | 0, o => .error ⟨cBUFFER, 5, 0, o⟩
  | fuel + 1, o =>
    let bad : FaultInfo := ⟨cBUFFER, 5, 0, o⟩
    if o % 32 ≠ 0 ∨ !s.me.bufOk w.fr.ctx 3 o 32 then .error bad
    else
      let n := memNat s.me.bufS o 32
      match readCard w n with
      | none => .error bad
      | some c =>
        match cardCheck s w c with
        | .error e => .error e
        | .ok _ =>
          if bitsOf n 205 205 = 0 then .ok [c]
          else (readChain s w fuel (bitsOf n 204 192 * 32)).map fun r => c :: r

def execCopyc (h : Hdr) (a : BuS) (s : State) : Out :=
  issue h false [] s fun s w =>
    match w.buS a with
    | none => .fault (FaultInfo.plain cBUFFER 5)
    | some (buf, o) =>
      if buf ≠ 3 then .fault ⟨cBUFFER, 5, 0, o⟩
      else afterOwn s w <| Res.check (readChain s w 32 o) fun cs =>
        Res.check (captureCheck s w true) fun _ => issueCards s w true cs

/-- BBINIT (R151, R373). A new count begins, so tickets that counted before are forgotten (R397). -/
def execBbinit (h : Hdr) (d : BuS) (a b : SI) (s : State) : Out :=
  issue h false [] s fun s w =>
    let exp := (w.si b).toNat
    let succ := (w.si a).toNat
    if 2 ^ 40 ≤ exp then .fault (FaultInfo.plain cILLEGAL 0)
    else if succ % 64 ≠ 0 then .fault ⟨cALIGN, 0, 0, succ⟩
    else if 2 ^ 48 ≤ succ then .fault ⟨cADDR, 0, 0, succ⟩
    else match w.buS d with
      | none => .fault (FaultInfo.plain cBUFFER 0)
      | some (buf, o) =>
        if buf ≠ 3 ∨ o % 16 ≠ 0 ∨ !s.me.bufOk w.fr.ctx 3 o 16 then .fault ⟨cBUFFER, 0, 0, o⟩
        else afterOwn s w <| .ok ((s.modMe fun k =>
          let k := k.bufWrite 3 o ((natBytes 16 (exp + succ * 2 ^ 80)).map some)
          { k with gates := k.gates.filter fun g => g.1 != o }).modTop Window.advance)

/-! ### Running (R144 to R147) -/

def Core.job (k : Core) (tid : Nat) : Option CopyJob := k.copies.find? fun j => j.tid = tid

def Core.modJob (k : Core) (tid : Nat) (f : CopyJob → CopyJob) : Core :=
  { k with copies := k.copies.map fun j => if j.tid = tid then f j else j }

/-- Rules 1 and 2 of R144. -/
def Core.startable (k : Core) (j : CopyJob) : Bool :=
  !j.started && k.unblocked j.tid && j.rings.all fun p =>
    let r := k.ring p.1
    !(k.copies.any fun o => decide (o.tid < j.tid) && o.rings.any fun q => decide (q.1 = p.1))
      && (if p.2 then decide (r.cnt < r.size) else decide (1 ≤ r.cnt)) && !k.slotWaits p.1 r.wp

/-- A job goes before another: the higher issuing priority, then the older (R144, R145). -/
def CopyJob.before (a b : CopyJob) : Bool :=
  decide (b.fr.lvl < a.fr.lvl) || (decide (a.fr.lvl = b.fr.lvl) && decide (a.tid < b.tid))

/-- The job is startable and its context is not stopped (R144, R462). -/
def State.copyStartable (s : State) (core : Nat) (j : CopyJob) : Bool := (s.core core).startable j && !s.stopped core j.ctx

/-- A startable job requests its reservation; it starts at the grant (R144, R477), or here where its grant stands. -/
def execCopyJobStart (core tid : Nat) (s : State) : Out :=
  match (s.core core).job tid with
  | none => .next s
  | some j =>
    if !s.copyStartable core j then .next s
    else if !s.granted core (.copy tid) then .next (s.request core (.copy tid) .copy j.fr.lvl j.ctx)
    else .next (s.modCore core fun k => k.modJob tid fun j => { j with started := true })

/-- Bytes of packet `k`. -/
def CopyJob.size (j : CopyJob) (k : Nat) : Nat := Nat.min 256 (j.len - 256 * k)

def CopyJob.more (j : CopyJob) : Bool := decide (256 * j.issued < j.len)

/-- Packets in flight (R145): issued and not performed, those with their handlers among them. -/
def Core.inFlight (k : Core) : Nat := (k.copies.map fun j => j.packets.countP fun p => p.st ≠ .performed).foldr (· + ·) 0

/-- Staging slots in use: packets of jobs with landing handlers that no handler has taken (R148). -/
def Core.staging (k : Core) : Nat :=
  (k.copies.map fun j => if j.xf then j.packets.countP fun p => p.st = .flight || p.st = .staged else 0).foldr (· + ·) 0

/-- A job may issue its next packet: none of its packets is held by a fault, and a staging slot is free (R145, R146, R148). -/
def State.mayIssue (s : State) (core : Nat) (j : CopyJob) : Bool :=
  let k := s.core core
  j.started && j.more && !s.stopped core j.ctx && (!j.xf || decide (k.staging < 4))
    && !(j.packets.any fun p => s.engFaulted core (.packet core j.tid p.k))

/-- A window of another core of this device, as an engine reaches it: the core, or a wait for its cluster (R158, R159, R482). -/
def State.farWindow (s : State) (x : Ctx) (off n src : Nat) (who : Waiter) : EngRes Nat :=
  let t := winCore off
  if s.retained (clusterOf t) then .wait (s.holdAt (clusterOf t) (.engine who))
  else
    let s := s.wakeCluster (clusterOf t)
    if (s.core t).bufOk x (winBuf off) (winOff off) n then .ok s t
    else .wait (s.fatalAt x cBUFFER 5 0 (winOff off) src)

/-- Packet `k` of a job as an access of its engine (R48, R52, R93). -/
def CopyJob.acc (j : CopyJob) (core k : Nat) (e : End) (region : BitVec 8) (off n : Nat) : EngAcc :=
  ⟨core, .packet core j.tid k, j.fr, region, off, n, if e.kind = 2 then e.key.map Key.peer else none⟩

/-- Bytes that an engine reads: of a window of this device at once, else as any of its accesses (R145, R395). -/
def State.placeGet (s : State) (a : EngAcc) : EngRes (List Byte) :=
  if a.region = 0xFE ∧ winDev a.off = s.dev then
    if winCore a.off = a.core then .ok s (memRead ((s.core a.core).buf (winBuf a.off)) (winOff a.off) a.n)
    else match s.farWindow a.fr.ctx a.off a.n a.core a.who with
      | .ok s t => .ok s (memRead ((s.core t).buf (winBuf a.off)) (winOff a.off) a.n)
      | .wait s => .wait s
      | .bad p => .bad p
  else s.engGet a

/-- Bytes of a job in its core's own buffers that the allocation, as it now stands, does not hold: BUFFER for the context (R158). The
job's instruction is long past, so the fault is the context's. -/
def State.ownOut (s : State) (core : Nat) (j : CopyJob) (b o n : Nat) : Option State :=
  if (s.core core).bufOk j.ctx b o n then none else some (s.fatalAt j.ctx cBUFFER 5 0 o core)

/-- Read a packet's source (R145, R158, R395). -/
def State.readSource (s : State) (core : Nat) (j : CopyJob) (k : Nat) : EngRes (List Byte) :=
  match j.src.at s core j.ctx (256 * k) with
  | .own b o =>
    match s.ownOut core j b o (j.size k) with
    | some s => .wait s
    | none => .ok s (memRead ((s.core core).buf b) o (j.size k))
  | .mem region off _ => s.placeGet (j.acc core k j.src region off (j.size k))

/-- The record of a captured packet; the layout of its header is the model's (log 21). -/
def packetMsg (off core : Nat) (bs : List Byte) : Msg :=
  ⟨2, BitVec.ofNat 256 (off + bs.length * 2 ^ 64 + core % 1024 * 2 ^ 136), bs⟩

/-- An aligned 8-byte unit that packets `k - 1` and `k` of a job share (R147): its bytes in packet `k - 1`. -/
def seamLow (off k : Nat) : Nat := if k ≠ 0 then off % 8 else 0

/-- The bytes that a packet writes, and how far below the packet's first byte they begin: its own, and those of a unit that it shares
with a packet performed before it, so that the unit ends holding the job's value (R147). -/
def CopyJob.withSeams (j : CopyJob) (k : Nat) (bs : List Byte) : Nat × List Byte :=
  let seam (i : Nat) : List Byte := tabGet [] i j.seams
  ((seam k).length, seam k ++ bs ++ seam (k + 1))

/-- A packet is performed: it leaves its bytes of the units it shares with packets not yet performed (R147). -/
def CopyJob.leaveSeams (j : CopyJob) (off k : Nat) (bs : List Byte) : CopyJob :=
  let low := seamLow off k
  let high := seamLow (off + 256) (k + 1)
  let keep := j.seams.filter fun (p : Nat × List Byte) => decide (p.1 ≠ k) && decide (p.1 ≠ k + 1)
  let left (i : Nat) (b : List Byte) : List (Nat × List Byte) :=
    if b.isEmpty || j.seams.any fun p => decide (p.1 = i) then [] else [(i, b)]
  { j with seams := keep
      ++ (if low = 0 then [] else left k (bs.take (8 - low)))
      ++ (if high = 0 ∨ j.len ≤ 256 * (k + 1) then [] else left (k + 1) (bs.drop (bs.length - high))) }

/-- A neighbouring packet's write that shares a unit is under way (R147). -/
def Core.seamBusy (c : Core) (core : Nat) (j : CopyJob) (off k : Nat) : Bool :=
  let wr (i : Nat) : Bool := c.pend.any fun p => match p.kind with
    | .engWrite w _ => decide (w = .packet core j.tid i)
    | _ => false
  decide (off % 8 ≠ 0) && !wr k && (wr (k + 1) || (decide (k ≠ 0) && wr (k - 1)))

/-- Write a packet's bytes at its destination, with those of the units it shares with packets performed before it (R145 to R147, R158,
R463). -/
def State.writeDest (s : State) (core : Nat) (j : CopyJob) (k : Nat) (bs : List Byte) : EngRes Unit :=
  let (low, all) := j.withSeams k bs
  let left (s : State) (off : Nat) : State := s.modCore core fun c => c.modJob j.tid fun j => j.leaveSeams off k bs
  match j.dst.at s core j.ctx (256 * k) with
  | .own b o =>
    match s.ownOut core j b (o - low) all.length with
    | some s => .wait s
    | none => .ok (left (s.modCore core fun c => c.bufWrite b (o - low) (all.map some)) o) ()
  | .mem region off dev =>
    if region = 0xFE ∧ dev = s.dev then
      let t := winCore off
      if s.flipped t j.ctx && !s.retained (clusterOf t) then
        .ok (left (((s.countSent core j.ctx).countRecv t j.ctx (s.flipped core j.ctx)).capture t j.ctx
          (packetMsg (off - low) core all)) off) ()
      else match s.farWindow j.ctx (off - low) all.length core (.packet core j.tid k) with
        | .ok s t =>
          let s := (s.countSent core j.ctx).countRecv t j.ctx (s.flipped core j.ctx)
          .ok (left (s.modCore t fun c => c.bufWrite (winBuf off) (winOff off - low) (all.map some)) off) ()
        | .wait s => .wait s
        | .bad p => .bad p
    else if (s.core core).seamBusy core j off k then .wait s
    else
      match s.engPut (j.acc core k j.dst region (off - low) all.length) (all.map some) with
      | .ok s _ => .ok (left s off) ()
      | .wait s => .wait s
      | .bad p => .bad p

/-- Packet `n`, the next of its job, goes out: its source is read, or its read waits at a slice (R145). -/
def execCopyPacketIssue (core tid n : Nat) (s : State) : Out :=
  let c := s.core core
  match c.job tid with
  | none => .next s
  | some j =>
    let goes (o : CopyJob) : Bool := s.mayIssue core o || (s.copyStartable core o && s.granted core (.copy o.tid))
    let first := !(c.copies.any fun o => goes o && o.before j)
    if n ≠ j.issued || !s.mayIssue core j || 32 ≤ c.inFlight || !first then .next s
    else
      let k := j.issued
      let put (s : State) (bs : List Byte) : State := s.modCore core fun c => c.modJob tid fun j =>
        { j with issued := k + 1, packets := j.packets ++ [⟨k, .flight, bs⟩] }
      match (put s []).readSource core j k with
      | .ok s bs => .next (s.modCore core fun c => c.modJob tid fun j =>
          { j with packets := j.packets.map fun p => if p.k = k then { p with data := bs } else p })
      | .wait s => .next s
      | .bad pa => .fault (.noSuchAddress pa)

/-- The job counts the bytes of packet `counted` into its bytebar once it is performed (R152). -/
def State.countPackets (s : State) (core tid : Nat) : Nat → State
  | 0 => s
  | fuel + 1 =>
    match (s.core core).job tid with
    | none => s
    | some j =>
      if j.packets.any fun p => decide (p.k = j.counted) && p.st = .performed then
        let s := s.modCore core fun c => c.modJob tid fun j =>
          { j with counted := j.counted + 1, packets := j.packets.filter fun p => decide (p.k ≠ j.counted) }
        State.countPackets (s.countByt core j.byt (j.size j.counted) ⟨core, j.fr, j.stamp⟩) core tid fuel
      else s

/-- A packet is performed: its range-slot counts fall and its bytes are counted in order (R145, R152, R277). -/
def State.packetDone (s : State) (core tid k : Nat) : State :=
  match (s.core core).job tid with
  | none => s
  | some j =>
    let s := s.modCore core fun c =>
      let c := (j.tags.filter fun t => t.1 = k).foldl (fun c t => c.count t.2 false) c
      c.modJob tid fun j =>
        { j with
          tags := j.tags.filter fun t => t.1 != k
          packets := j.packets.map fun p => if p.k = k then { p with st := .performed } else p }
    s.countPackets core tid (j.packets.length + 1)

/-- A packet is read, if it was not yet, and written at its destination (R145, R146, R152). -/
def execCopyPacketPerformed (core tid k : Nat) (s : State) : Out :=
  match (s.core core).job tid with
  | none => .next s
  | some j =>
    match j.packets.find? fun p => p.k = k with
    | none => .next s
    | some p =>
      if !(p.st = .put || (p.st = .flight && !j.xf)) || s.blocked (.packet core tid k) then .next s
      else
        let rd : EngRes (List Byte) := if p.data.isEmpty then s.readSource core j k else .ok s p.data
        match rd with
        | .wait s => .next s
        | .bad pa => .fault (.noSuchAddress pa)
        | .ok s bs =>
          match s.writeDest core j k bs with
          | .ok s _ => .next (s.packetDone core tid k)
          | .wait s => .next (s.modCore core fun c => c.modJob tid fun j =>
              { j with packets := j.packets.map fun q => if q.k = k then { q with data := bs } else q })
          | .bad pa => .fault (.noSuchAddress pa)

/-! ### Landing handlers (R148) -/

/-- The destination address offset that ARG0 gives a landing handler (R148). -/
def CopyJob.destOff (j : CopyJob) (k : Nat) : Nat :=
  match j.dst.kind with
  | 2 => ((j.dst.key.getD Key.zero).off + j.dst.off + 256 * k) % 2 ^ 64
  | 3 => j.dst.slot + 256 * k
  | _ => j.dst.off + 256 * k

/-- A packet of a job with XF reaches its staging slot, and its handler ticket is issued (R148). -/
def execLandingStage (core tid k : Nat) (s : State) : Out :=
  match (s.core core).job tid with
  | none => .next s
  | some j =>
    match j.packets.find? fun p => p.k = k with
    | none => .next s
    | some p =>
      if !j.xf || p.st ≠ .flight || s.blocked (.packet core tid k) then .next s
      else
        let rd : EngRes (List Byte) := if p.data.isEmpty then s.readSource core j k else .ok s p.data
        match rd with
        | .wait s => .next s
        | .bad pa => .fault (.noSuchAddress pa)
        | .ok s bs =>
          let w : Waiting :=
            { kind := .landing tid k
              prio := if j.hpri = 0 then j.fr.pri else j.hpri
              entry := j.hnde
              ctx := j.ctx
              args := [BitVec.ofNat 64 (j.destOff k), BitVec.ofNat 64 (256 * k), BitVec.ofNat 64 (j.size k)]
              payload := bs
              vw := 1
              origin := j.fr.origin }
          .next (s.modCore core fun c =>
            let c := c.modJob tid fun j =>
              { j with packets := j.packets.map fun q => if q.k = k then { q with st := .staged, data := bs } else q }
            { c with waiting := c.waiting ++ [w] })

/-! ### Completion (R149, R150) -/

/-- Every packet has been performed: the ring advances, DONE of SEQC rises, the successor is released after the last job
of a chain, and the slot frees (R149). -/
def execCopyJobComplete (core tid : Nat) (s : State) : Out :=
  match (s.core core).job tid with
  | none => .next s
  | some j =>
    if !j.started || 256 * j.counted < j.len then .next s
    else
      let s := j.rings.foldl (fun (s : State) (p : Nat × Bool) => s.advanceRing core p.1) s
      let s := (s.modCore core fun k => { k with copies := k.copies.filter fun o => o.tid != tid }.modCx j.ctx fun x =>
        { x with seqcDone := x.seqcDone + 1 }).leaveTr core tid
      let last := j.chain = 0 || !((s.core core).copies.any fun o => o.chain = j.chain)
      .next (if last then s.releaseAfter core j.fr j.stamp j.nxt else s)

end Sys2Proof.Machine
end

