-- ==== Sys2Proof/Machine/Fence.lean ====
section
/-! DEFINITION. Fence.lean: fences and phases, range slots, and refused journal entries (R273 to R282). -/

namespace Sys2Proof.Machine

/-- A parked instruction of the top window performs its effect: the wait ends and the PC advances. -/
def Window.wake (w : Window) : Window := { w with park := none, fresh := false }.advance

/-! ### FENCE (R273) -/

/-- A footprint touches one of the named buffers. -/
def touchesBuf (w a s : Bool) (gs : List Gran) : Bool :=
  gs.any fun g => (w && decide (g.buf = 0)) || (a && decide (g.buf = 1)) || (s && decide (g.buf = 3))

/-- Every engine job of the ticket that touches a named buffer has completed (R273). -/
def Core.fenceReady (k : Core) (f : Frame) (w a s : Bool) : Bool :=
  !(k.trestle.any fun t => t.fr.same f && touchesBuf w a s (t.reads ++ t.writes))

def execFence (h : Hdr) (bw ba bs : Bool) (s : State) : Out :=
  issue h false [] s fun s w =>
    if s.me.fenceReady w.fr bw ba bs then .ok (s.modTop Window.advance) else .wait (.fence bw ba bs) false

def execFenceDone (core : Nat) (s : State) : Out :=
  match s.topOf core with
  | some w =>
    match w.park with
    | some (.fence bw ba bs) =>
      if (s.core core).fenceReady w.fr bw ba bs then .next (s.modTopOf core Window.wake) else .next s
    | _ => .next s
  | none => .next s

/-! ### PHASE (R274) -/

/-- Steps 2 and 3 of R274: no entry of the ticket is outstanding and its engine jobs without handlers have completed. -/
def Core.phaseReady (k : Core) (f : Frame) : Bool :=
  !(k.jrn.any fun e => e.live && e.ofTicket f)
    && !(k.copies.any fun j => j.fr.same f && !j.xf)
    && !(k.mjobs.any fun j => j.fr.same f && (match j.op with
      | .drain _ _ _ hd _ _ _ _ _ _ => !hd
      | _ => true))

/-- Step 4 of R274. -/
def Core.phaseEnd (k : Core) (x : Ctx) (sc : Scope) : Core := if Scope.wide sc then k.l1DropAll x else k

def execPhase (h : Hdr) (sc : Scope) (s : State) : Out :=
  issue h false [] s fun s w =>
    if s.me.outstanding w.fr then .wait .marker false
    else if s.me.phaseReady w.fr then .ok ((s.modMe fun k => k.phaseEnd w.fr.ctx sc).modTop Window.advance)
    else .wait (.phase sc) true

def execPhaseDone (core : Nat) (s : State) : Out :=
  match s.topOf core with
  | some w =>
    match w.park with
    | some (.phase sc) =>
      if (s.core core).phaseReady w.fr then
        .next ((s.modCore core fun k => k.phaseEnd w.fr.ctx sc).modTopOf core Window.wake)
      else .next s
    | _ => .next s
  | none => .next s

/-! ### FENR (R275) -/

/-- The slots a mask names. -/
def maskSlots (m : BitVec 16) : List Nat := (List.range 16).filter fun i => m.getLsbD i

def Core.slot (k : Core) (i : Nat) : Slot := vget Slot.zero k.slots i

/-- A named slot is valid for another context: PERM (R275, R279). -/
def Core.foreign (k : Core) (x : Ctx) (m : BitVec 16) : Bool :=
  (maskSlots m).any fun i => (k.slot i).v && decide ((k.slot i).ctx ≠ x)

/-- CNT of every named slot is zero (R275). -/
def Core.countsZero (k : Core) (m : BitVec 16) : Bool := (maskSlots m).all fun i => decide ((k.slot i).cnt = 0)

/-- The L1 lines in the ranges of the named valid slots go (R275): L1 holds lines of this device, `dev`, and of region 0x01, where
a range's device counts for nothing (R98, R100, R277). -/
def Core.fenrAcq (k : Core) (dev : Nat) (x : Ctx) (m : BitVec 16) : Core :=
  (maskSlots m).foldl (fun k i =>
    let r := k.slot i
    if r.v && (decide (r.region = 1) || decide (r.dev = dev)) then k.l1Drop x (lineMeets r.region r.base (r.base + r.len)) else k) k

/-- What FENR does once its waits are over. -/
def Core.fenrEnd (k : Core) (dev : Nat) (x : Ctx) (m : BitVec 16) (sc : Scope) (ord : Order) : Core :=
  if Order.acq ord && Scope.wide sc then k.fenrAcq dev x m else k

def execFenr (h : Hdr) (sc : Scope) (ord : Order) (b : SI) (s : State) : Out :=
  issue h false [] s fun s w =>
    let m : BitVec 16 := (w.si b).truncate 16
    if s.me.foreign w.fr.ctx m then .fault (FaultInfo.plain cPERM 0)
    else
      let s := if Order.rel ord then
          s.modMe fun k => k.close fun e => decide (e.ctx = w.fr.ctx) && decide (e.slots &&& m ≠ 0)
        else s
      if !Order.rel ord || s.me.countsZero m then
        .ok ((s.modMe fun k => k.fenrEnd s.dev w.fr.ctx m sc ord).modTop Window.advance)
      else .ok (s.parkTop (.fenr m sc ord))

def execFenrDone (core : Nat) (s : State) : Out :=
  match s.topOf core with
  | some w =>
    match w.park with
    | some (.fenr m sc ord) =>
      if (s.core core).countsZero m then
        .next ((s.modCore core fun k => k.fenrEnd s.dev w.fr.ctx m sc ord).modTopOf core Window.wake)
      else .next s
    | _ => .next s
  | none => .next s

/-! ### Range slots (R277 to R279) -/

/-- Some masked byte of an entry lies in a slot's range. -/
def JEntry.inRange (e : JEntry) (r : Slot) : Bool :=
  (List.range 64).any fun i => e.mask.getLsbD i && r.meets e.ctx e.region e.dev (e.blk * 64 + i) 1

/-- The bit of a slot. -/
def slotBit (i : Nat) : BitVec 16 := BitVec.ofNat 16 (2 ^ i)

/-- Unperformed packets of a job that a new range overlaps and that its slot does not count yet (R278). -/
def CopyJob.retag (j : CopyJob) (s : State) (core i : Nat) (r : Slot) : List Nat :=
  if j.ctx = r.ctx then
    (List.range (ceilDiv j.len 256)).filter fun k =>
      decide (j.counted ≤ k) && !(j.packets.any fun p => decide (p.k = k) && p.st = .performed)
        && !(j.tags.any fun t => decide (t.1 = k) && t.2.getLsbD i)
        && (match j.dst.at s core j.ctx (256 * k) with
          | .own _ _ => false
          | .mem region off dev => r.meets j.ctx region dev off (j.size k))
  else []

/-- Add a slot to the tags of a packet. -/
def tagPacket (i : Nat) (ts : List (Nat × BitVec 16)) (k : Nat) : List (Nat × BitVec 16) :=
  if ts.any fun t => t.1 = k then ts.map fun t => if t.1 = k then (k, t.2 ||| slotBit i) else t else ts ++ [(k, slotBit i)]

/-- Set a slot, and tag what is in flight (R278). -/
def rangeSet (s : State) (core i : Nat) (r : Slot) : State :=
  let k := s.core core
  let r := { r with cnt := (k.slot i).cnt }
  let ents := k.jrn.filter fun e => e.live && e.inRange r && !e.slots.getLsbD i
  let ats := k.pend.filter fun p => p.atomic && p.atomicOpen && !p.slots.getLsbD i && p.parts.any fun q => r.meets p.ctx p.region q.dev q.off q.n
  let packs := k.copies.map fun j => (j.tid, j.retag s core i r)
  let n := ents.length + ats.length + (packs.map fun p => p.2.length).foldr (· + ·) 0
  s.setCore core { k with
    slots := k.slots.setIfInBounds i { r with cnt := r.cnt + n }
    jrn := k.jrn.map fun e => if ents.any fun o => o.idx = e.idx then { e with slots := e.slots ||| slotBit i } else e
    pend := k.pend.map fun p => if ats.any fun o => o.id = p.id then { p with slots := p.slots ||| slotBit i } else p
    copies := k.copies.map fun j =>
      { j with tags := ((packs.filter fun p => p.1 = j.tid).flatMap Prod.snd).foldl (tagPacket i) j.tags } }

/-- The range that RGSET names (R278). -/
def rgArg (s : State) (w : Window) (x : RgArg) : Ex Slot :=
  match x with
  | .key r =>
    let k := w.rdK r
    if !k.tag then .error (FaultInfo.plain cTAG 0)
    else if k.sealed then .error (FaultInfo.plain cPERM 0)
    else
      let bt := k.bounds.getD (0, 0)
      .ok ⟨0, true, w.fr.ctx, k.region, if k.region = 0xFE then winDev k.off else k.peer, bt.1, bt.2 - bt.1⟩
  | .range a b =>
    let base := (w.rdS a).toNat
    let neg := match b with
      | .imm v => v.msb
      | .reg _ => false
    if neg then .error (FaultInfo.plain cILLEGAL 0)
    else if 2 ^ 64 < base + (w.si b).toNat then .error ⟨cADDR, 0, (w.drg.truncate 8 : BitVec 8).toNat, base⟩
    else .ok ⟨0, true, w.fr.ctx, w.drg.truncate 8, s.dev, base, (w.si b).toNat⟩

def execRgset (h : Hdr) (slot : Fin 16) (x : RgArg) (s : State) : Out :=
  issue h false [] s fun s w =>
    Res.check (rgArg s w x) fun r =>
      if s.me.foreign w.fr.ctx (slotBit slot.val) then .fault (FaultInfo.plain cPERM 0)
      else
        let s' := rangeSet s s.cur slot.val r
        if 65535 < (s'.me.slot slot.val).cnt then .wait .stall false else .ok (s'.modTop Window.advance)

def execRgclr (h : Hdr) (b : SI) (s : State) : Out :=
  issue h false [] s fun s w =>
    let m : BitVec 16 := (w.si b).truncate 16
    if s.me.foreign w.fr.ctx m then .fault (FaultInfo.plain cPERM 0)
    else .ok ((s.modMe fun k => { k with
      slots := k.slots.mapIdx fun i r => if m.getLsbD i then { r with v := false } else r }).modTop Window.advance)

/-- A field of a slot (R279). -/
def Slot.get (r : Slot) (f : RField) : W64 :=
  if !r.v then 0
  else match f with
    | .base => BitVec.ofNat 64 r.base
    | .len => BitVec.ofNat 64 (Nat.min r.len (2 ^ 64 - 1))
    | .attr => BitVec.ofNat 64 (r.region.toNat + r.dev % 2 ^ 11 * 2 ^ 8 + 2 ^ 19)

def execRgrd (h : Hdr) (slot : Fin 16) (f : RField) (d : SReg) (s : State) : Out :=
  issue h false [.s d] s fun s w =>
    if s.me.foreign w.fr.ctx (slotBit slot.val) then .fault (FaultInfo.plain cPERM 0)
    else retireS s w d ((s.me.slot slot.val).get f) 0

/-! ### Refused entries (R281, R282) -/

/-- The entry at an index, if it is refused and belongs to the context. -/
def Core.refused (k : Core) (x : Ctx) (idx : Nat) : Option JEntry :=
  k.jrn.find? fun e => decide (e.idx = idx) && e.st = .refused && decide (e.ctx = x)

/-- A field of a refused entry (R281). -/
def JEntry.get (e : JEntry) (f : JField) : W64 :=
  match f with
  | .off => BitVec.ofNat 64 (e.blk * 64)
  | .attr => BitVec.ofNat 64 (e.region.toNat + e.dev % 2 ^ 11 * 2 ^ 8 + 2 ^ 19)
  | .mask => e.mask
  | .d i => BitVec.ofNat 64 (leNat ((List.range 8).map fun j => (e.byte (8 * i.val + j)).getD 0))

def execJrd (h : Hdr) (f : JField) (d : SReg) (b : SI) (s : State) : Out :=
  issue h false [.s d] s fun s w =>
    retireS s w d (match s.me.refused w.fr.ctx ((w.si b).toNat % 128) with
      | some e => e.get f
      | none => 0) 0

/-- Dismiss a refused entry: it is free, and a trap or fault-handler ticket for it is withdrawn (R282, R453, R454). -/
def Core.dismiss (k : Core) (idx : Nat) : Core :=
  { k with
    jrn := k.jrn.filter fun e => e.idx != idx
    traps := k.traps.filter fun t => t.idx != idx
    waiting := k.waiting.filter fun w => w.kind != .faultTicket idx }

def execJack (h : Hdr) (b : SI) (s : State) : Out :=
  issue h false [] s fun s w =>
    let idx := (w.si b).toNat % 128
    match s.me.refused w.fr.ctx idx with
    | some _ => .ok ((s.modMe fun k => k.dismiss idx).modTop Window.advance)
    | none => .ok (s.modTop Window.advance)

end Sys2Proof.Machine
end

