-- ==== Sys2Proof/Machine/Transcend.lean ====
section
/-! DEFINITION. Transcend.lean: VEXP, VLOG, VRCP and VRSQ on FP32 encodings (R303 to R307), with their tables. -/

namespace Sys2Proof.Machine

/-! ### Tables: RNE32 of the exact reals that R304 to R307 name -/


/-- T[j] = RNE32(2^(j/32)) (R304). -/
def tabT : List Nat :=
  [0x3F800000, 0x3F82CD87, 0x3F85AAC3, 0x3F88980F, 0x3F8B95C2, 0x3F8EA43A, 0x3F91C3D3, 0x3F94F4F0]
    ++ [0x3F9837F0, 0x3F9B8D3A, 0x3F9EF532, 0x3FA27043, 0x3FA5FED7, 0x3FA9A15B, 0x3FAD583F, 0x3FB123F6]
    ++ [0x3FB504F3, 0x3FB8FBAF, 0x3FBD08A4, 0x3FC12C4D, 0x3FC5672A, 0x3FC9B9BE, 0x3FCE248C, 0x3FD2A81E]
    ++ [0x3FD744FD, 0x3FDBFBB8, 0x3FE0CCDF, 0x3FE5B907, 0x3FEAC0C7, 0x3FEFE4BA, 0x3FF5257D, 0x3FFA83B3]

/-- RC[j] = RNE32(32/(32+j)) (R305). -/
def tabRC : List Nat :=
  [0x3F800000, 0x3F783E10, 0x3F70F0F1, 0x3F6A0EA1, 0x3F638E39, 0x3F5D67C9, 0x3F579436, 0x3F520D21]
    ++ [0x3F4CCCCD, 0x3F47CE0C, 0x3F430C31, 0x3F3E82FA, 0x3F3A2E8C, 0x3F360B61, 0x3F321643, 0x3F2E4C41]
    ++ [0x3F2AAAAB, 0x3F272F05, 0x3F23D70A, 0x3F20A0A1, 0x3F1D89D9, 0x3F1A90E8, 0x3F17B426, 0x3F14F209]
    ++ [0x3F124925, 0x3F0FB824, 0x3F0D3DCB, 0x3F0AD8F3, 0x3F088889, 0x3F064B8A, 0x3F042108, 0x3F020821]

/-- LT[j] = RNE32(ln((32+j)/32)) (R305). -/
def tabLT : List Nat :=
  [0x00000000, 0x3CFC14D8, 0x3D785186, 0x3DB78694, 0x3DF1383B, 0x3E14AA98, 0x3E2FF984, 0x3E4A92D5]
    ++ [0x3E647FBE, 0x3E7DC8C3, 0x3E8B3AE5, 0x3E974716, 0x3EA30C5E, 0x3EAE8DEE, 0x3EB9CEC0, 0x3EC4D19C]
    ++ [0x3ECF991F, 0x3EDA27BC, 0x3EE47FBE, 0x3EEEA350, 0x3EF8947B, 0x3F012A95, 0x3F05F397, 0x3F0AA61F]
    ++ [0x3F0F42FB, 0x3F13CAF1, 0x3F183EBA, 0x3F1C9F07, 0x3F20EC7F, 0x3F2527C3, 0x3F295169, 0x3F2D6A02]

/-- RT[j] = RNE32(128/(129+2j)) (R306). -/
def tabRT : List Nat :=
  [0x3F7E03F8, 0x3F7A232D, 0x3F76603E, 0x3F72B9D6, 0x3F6F2EB7, 0x3F6BBDB3, 0x3F6865AC, 0x3F652598]
    ++ [0x3F61FC78, 0x3F5EE95C, 0x3F5BEB62, 0x3F5901B2, 0x3F562B81, 0x3F53680D, 0x3F50B6A0, 0x3F4E168A]
    ++ [0x3F4B8728, 0x3F4907DA, 0x3F46980C, 0x3F443730, 0x3F41E4BC, 0x3F3FA030, 0x3F3D6910, 0x3F3B3EE7]
    ++ [0x3F392144, 0x3F370FBB, 0x3F3509E7, 0x3F330F63, 0x3F311FD4, 0x3F2F3ADE, 0x3F2D602B, 0x3F2B8F6A]
    ++ [0x3F29C84A, 0x3F280A81, 0x3F2655C4, 0x3F24A9CF, 0x3F23065E, 0x3F216B31, 0x3F1FD80A, 0x3F1E4CAD]
    ++ [0x3F1CC8E1, 0x3F1B4C70, 0x3F19D723, 0x3F1868C8, 0x3F17012E, 0x3F15A025, 0x3F144581, 0x3F12F114]
    ++ [0x3F11A2B4, 0x3F105A38, 0x3F0F177A, 0x3F0DDA52, 0x3F0CA29C, 0x3F0B7034, 0x3F0A42F8, 0x3F091AC7]
    ++ [0x3F07F781, 0x3F06D905, 0x3F05BF37, 0x3F04A9FA, 0x3F039930, 0x3F028CC0, 0x3F01848E, 0x3F008081]

/-- RS[j] = RNE32(1/sqrt(1+j/16+1/32)) (R307). -/
def tabRS : List Nat :=
  [0x3F7C1764, 0x3F74C867, 0x3F6E133E, 0x3F67E3ED, 0x3F6229ED, 0x3F5CD76E, 0x3F57E0CF, 0x3F533C2E]
    ++ [0x3F4EE116, 0x3F4AC83F, 0x3F46EB5A, 0x3F4344E6, 0x3F3FD012, 0x3F3C889F, 0x3F396ACE, 0x3F36734A]
    ++ [0x3F339F19, 0x3F30EB96, 0x3F2E565C, 0x3F2BDD46, 0x3F297E62, 0x3F2737F0, 0x3F250855, 0x3F22EE1D]
    ++ [0x3F20E7F5, 0x3F1EF4A4, 0x3F1D130E, 0x3F1B422C, 0x3F19810C, 0x3F17CED0, 0x3F162AA9, 0x3F1493D9]
    ++ [0x3F1309AF, 0x3F118B87, 0x3F1018C6, 0x3F0EB0E0, 0x3F0D534F, 0x3F0BFF97, 0x3F0AB544, 0x3F0973E8]
    ++ [0x3F083B1E, 0x3F070A87, 0x3F05E1C7, 0x3F04C08B, 0x3F03A682, 0x3F029362, 0x3F0186E2, 0x3F0080C1]

/-- L = RNE32(32/ln 2); H1: ln 2/32 cut to 11 significand bits; H2 = RNE32(ln 2/32 - H1); C3 = RNE32(1/6);
C4 = RNE32(1/24); D3 = RNE32(1/3); LN2 = RNE32(ln 2) (R304, R305). -/
def cL : Nat := 0x4238AA3B
def cH1 : Nat := 0x3CB16000
def cH2 : Nat := 0x3710BFBF
def cC3 : Nat := 0x3E2AAAAB
def cC4 : Nat := 0x3D2AAAAB
def cD3 : Nat := 0x3EAAAAAB
def cLN2 : Nat := 0x3F317218
def cHalf : Nat := 0x3F000000
def cOne : Nat := 0x3F800000

/-! ### RNE32 arithmetic on encodings, without flags -/

def rAdd (a b : Nat) : Nat := (fmtF32.add .rne a b).1
def rSub (a b : Nat) : Nat := (fmtF32.sub .rne a b).1
def rMul (a b : Nat) : Nat := (fmtF32.mul .rne a b).1

/-- RNE32 of a value times an encoding. -/
def rMulV (v : FV) (b : Nat) : Nat := (rne32 (FV.mul v (f32 b)).1).1

/-- Scale(y, m) with its flags (R303). -/
def scaleE (y : Nat) (m : Int) : Nat × Flags :=
  match f32 y with
  | .num neg k e => rne32 (.num neg k (e + m))
  | v => rne32 v

/-- Split of a finite non-zero magnitude k × 2^e: the exponent and mnt in [1, 2) (R303). -/
def splitE (k : Nat) (e : Int) : Int × FV :=
  let t := Nat.log2 k
  ((t : Int) + e, .num false k (-(t : Int)))

/-- floor((mnt - 1) × s) for mnt = k / 2^t. -/
def mntIndex (k s : Nat) : Nat := (k - 2 ^ Nat.log2 k) * s / 2 ^ Nat.log2 k

/-- e^x (R304). -/
def vexp32 (x : Nat) : Nat × Flags :=
  match f32 x with
  | .nan sig => (fmtF32.nan, fIf sig fNV)
  | .inf neg => (if neg then 0 else fmtF32.inf false, 0)
  | .num neg k e =>
    if k = 0 then (cOne, 0)
    else if !neg && FV.cmp (.num neg k e) (.num false 89 0) ≠ .lt then (fmtF32.inf false, fOF ||| fNX)
    else if neg && FV.cmp (.num neg k e) (.num true 104 0) ≠ .gt then (0, fUF ||| fNX)
    else
      let n := (intOf 64 false .rne (f32 (rMul x cL))).1
      let j := (n % 32).toNat
      let m := (n - (n % 32)) / 32
      let nv := fvOfInt n 0 false
      let q := rSub x (rMulV nv cH1)
      let r := rSub q (rMulV nv cH2)
      let q := rAdd cC3 (rMul r cC4)
      let q := rAdd cHalf (rMul r q)
      let q := rAdd cOne (rMul r q)
      let p := rMul r q
      let t := tabT.getD j 0
      let y := scaleE (rAdd t (rMul t p)) m
      (y.1, y.2 ||| fNX)

/-- ln x (R305). -/
def vlog32 (x : Nat) : Nat × Flags :=
  match f32 x with
  | .nan sig => (fmtF32.nan, fIf sig fNV)
  | .inf neg => if neg then (fmtF32.nan, fNV) else (fmtF32.inf false, 0)
  | .num neg k e =>
    if k = 0 then (fmtF32.inf true, fDZ ||| fNX)
    else if neg then (fmtF32.nan, fNV ||| fNX)
    else
      let sp := splitE k e
      let j := mntIndex k 32
      let u := rSub (rMulV sp.2 (tabRC.getD j 0)) cOne
      let q := rAdd cD3 (rMul u 0xBE800000)
      let q := rAdd 0xBF000000 (rMul u q)
      let q := rAdd cOne (rMul u q)
      let q := rMul u q
      let y := rAdd (rMulV (fvOfInt sp.1 0 false) cLN2) (rAdd (tabLT.getD j 0) q)
      (y, fIf (x != cOne) fNX)

/-- One of the two refinements of R306. -/
def rcpStep (mnt : FV) (z : Nat) : Nat :=
  let c := rSub cOne (rMulV mnt z)
  rAdd z (rMul z c)

/-- 1/x (R306). -/
def vrcp32 (x : Nat) : Nat × Flags :=
  match f32 x with
  | .nan sig => (fmtF32.nan, fIf sig fNV)
  | .inf neg => (fmtF32.signBit neg, 0)
  | .num neg k e =>
    if k = 0 then (fmtF32.inf neg, fDZ ||| fNX)
    else
      let sp := splitE k e
      let one := decide (k = 2 ^ Nat.log2 k)
      let z := if one then cOne else rcpStep sp.2 (rcpStep sp.2 (tabRT.getD (mntIndex k 64) 0))
      let y := scaleE (z + fmtF32.signBit neg) (-sp.1)
      let normal := decide (-126 ≤ -sp.1) && decide (-sp.1 ≤ 127)
      (y.1, y.2 ||| fIf (!(one && normal)) fNX)

/-- One of the two refinements of R307. -/
def rsqStep (mnt : FV) (z : Nat) : Nat :=
  let h := rMul (rMulV mnt z) z
  rMul z (rSub 0x3FC00000 (rMul cHalf h))

/-- 1/sqrt x (R307). -/
def vrsq32 (x : Nat) : Nat × Flags :=
  match f32 x with
  | .nan sig => (fmtF32.nan, fIf sig fNV)
  | .inf neg => if neg then (fmtF32.nan, fNV) else (0, 0)
  | .num neg k e =>
    if k = 0 then (fmtF32.inf neg, fDZ ||| fNX)
    else if neg then (fmtF32.nan, fNV ||| fNX)
    else
      let t := Nat.log2 k
      let e0 : Int := (t : Int) + e
      let odd := decide (e0 % 2 = 1)
      let e1 := if odd then e0 - 1 else e0
      let mnt : FV := .num false k (-(t : Int) + (if odd then 1 else 0))
      let num := if odd then 2 * k else k
      let one := decide (num = 2 ^ t)
      let j := (num - 2 ^ t) * 16 / 2 ^ t
      let z := if one then cOne else rsqStep mnt (rsqStep mnt (tabRS.getD j 0))
      let y := scaleE z (-(e1 / 2))
      (y.1, y.2 ||| fIf (!one) fNX)

end Sys2Proof.Machine
end

