-- ==== Sys2Proof/Machine/Vector.lean ====
section
/-! DEFINITION. Vector.lean: the vector unit (R283 to R312). A register is a number whose lanes are its slices of the
element's width. -/

namespace Sys2Proof.Machine

/-! ### Lanes (R283 to R285) -/

/-- Lane `i` of width `w` (R283). -/
def laneOf (x w i : Nat) : Nat := x / 2 ^ (i * w) % 2 ^ w

/-- A register with lane `i` of width `w` replaced. -/
def setLane (x w i v : Nat) : Nat := x - laneOf x w i * 2 ^ (i * w) + v % 2 ^ w * 2 ^ (i * w)

/-- Replace the lanes of a list of places and values. -/
def setLanes (x w : Nat) (vs : List (Nat × Nat)) : Nat := vs.foldl (fun x p => setLane x w p.1 p.2) x

/-- Lane `i` of width `w` is active under a mask (R284). -/
def laneOn (m : W64) (w i : Nat) : Bool := m.getLsbD (i * w / 32)

/-- The number of lanes of width `w` (R283). -/
def laneCount (w : Nat) : Nat := 2048 / w

/-- The register bits of the lanes of width `w` at the places of a list. -/
def laneBits (w : Nat) (is : List Nat) : VReg := BitVec.ofNat 2048 (setLanes 0 w (is.map fun i => (i, 2 ^ w - 1)))

/-- The active lanes of a mask. -/
def activeLanes (m : W64) (w : Nat) : List Nat := (List.range (laneCount w)).filter fun i => laneOn m w i

/-- The value a vector destination takes: active lanes get their results, the others stay or become zero (R285). -/
def putLanes (old : VReg) (zr : Bool) (w n : Nat) (m : W64) (f : Nat → Nat) : VReg :=
  BitVec.ofNat 2048 (setLanes (if zr then 0 else old.toNat) w
    ((List.range n).filterMap fun i => if laneOn m w i then some (i, f i) else none))

/-- Lane `i` of a broadcast operand (R291). -/
def Window.bc (x : Window) (b : Bc) (w i : Nat) : Nat :=
  match b with
  | .v r => laneOf (x.rdV r).toNat w i
  | .s r => (x.rdS r).toNat % 2 ^ w
  | .imm v => (immV v).toNat % 2 ^ w

/-! ### The vector reservation (R288) -/

/-- The core's vector unit holds its reservation (R288). -/
def State.vecHeld (s : State) (c : Nat) : Bool :=
  (s.cluster (clusterOf c)).resv.any fun r => decide (r.pos = posOf c) && r.unit = .vector && !r.ending

/-- The vector unit requests a reservation at the frame's admitted priority (R288, R473). -/
def State.askVector (s : State) (c prio : Nat) (x : Ctx) : State := s.request c .vector .macroOp prio x

/-- A vector instruction other than the mask instructions: it issues under the unit's reservation, or requests one and
waits for the grant (R288). -/
def vecIssue (h : Hdr) (dst : List Dst) (s : State) (body : State → Window → Res) : Out :=
  let o := issue h false dst s fun s w =>
    if s.vecHeld s.cur then body (s.modMe fun k => { k with vidle := s.tick.toNat }) w else .wait .stall false
  if s.vecHeld s.cur then o
  else match o with
    | .next t =>
      match t.top with
      | some w => if w.park = some .stall then .next (t.askVector t.cur w.fr.lvl w.fr.ctx) else .next t
      | none => .next t
    | r => r

/-- The destination of a vector result: the register bits it writes under a mask (R211, R285). -/
def vdst (s : State) (d : VIdx) (msk : MReg) (zr : Bool) : List Dst :=
  match s.top with
  | some w => [.v d (if zr then BitVec.allOnes 2048 else laneBits 32 (activeLanes (w.rdM msk) 32))]
  | none => []

/-- Whole-register destinations. -/
def vdstAll (d : VIdx) : List Dst := [.v d (BitVec.allOnes 2048)]

/-- The union of the flags of the active lanes (R286). -/
def laneFlags (m : W64) (w n : Nat) (f : Nat → Flags) : Flags :=
  (List.range n).foldl (fun acc i => if laneOn m w i then acc ||| f i else acc) 0

/-- A vector result retires with its flags (R286). -/
def retireV (s : State) (w : Window) (d : VIdx) (x : VReg) (fl : Flags) : Res := .ok (s.retire (w.wrV d x).advance fl)

/-- Instructions that compute each lane from the lanes of A, B and D (R292, R293). -/
def lanewise (h : Hdr) (o : V3) (s : State) (f : Nat → Nat → Nat → Nat × Flags) : Out :=
  vecIssue h (vdst s o.d o.msk o.zr) s fun s w =>
    let b := o.ty.width
    let n := laneCount b
    let m := w.rdM o.msk
    let r (i : Nat) : Nat × Flags := f (laneOf (w.rdV o.a).toNat b i) (w.bc o.b b i) (laneOf (w.rdV o.d).toNat b i)
    retireV s w o.d (putLanes (w.rdV o.d) o.zr b n m fun i => (r i).1) (laneFlags m b n fun i => (r i).2)

/-- Instructions that compute each lane from its lane of A. -/
def lanewise1 (h : Hdr) (o : V2) (s : State) (f : Nat → Nat × Flags) : Out :=
  lanewise h ⟨o.msk, o.ty, o.zr, o.d, o.a, .v o.a⟩ s fun a _ _ => f a

/-! ### Lane arithmetic (R292, R293) -/

/-- VADD and VSUB of one lane. -/
def laneAddSub (sub : Bool) (satm : SatM) (ty : Ty) (a b : Nat) : Nat × Flags :=
  match Ty.fmt ty with
  | some f => if sub then f.sub .rne a b else f.add .rne a b
  | none =>
    let w := ty.width
    let sa := sextInt w a
    let sb := sextInt w b
    match satm with
    | .wrap => (lowBits w (if sub then sa - sb else sa + sb), 0)
    | .ss => let c := clampI (if sub then sa - sb else sa + sb) (minS w) (maxS w); (lowBits w c.1, c.2)
    | .us => let c := clampI (if sub then (a : Int) - b else (a : Int) + b) 0 (maxU w); (lowBits w c.1, c.2)

def execVadd (h : Hdr) (satm : SatM) (o : V3) (s : State) : Out :=
  lanewise h o s fun a b _ => laneAddSub false satm o.ty a b

def execVsub (h : Hdr) (satm : SatM) (o : V3) (s : State) : Out :=
  lanewise h o s fun a b _ => laneAddSub true satm o.ty a b

def execVmul (h : Hdr) (o : V3) (s : State) : Out :=
  lanewise h o s fun a b _ =>
    match Ty.fmt o.ty with
    | some f => f.mul .rne a b
    | none => (a * b % 2 ^ o.ty.width, 0)

def execVma (h : Hdr) (o : V3) (s : State) : Out :=
  lanewise h o s fun a b d =>
    match Ty.fmt o.ty with
    | some f => f.fma .rne a b d
    | none => ((d + a * b) % 2 ^ o.ty.width, 0)

/-- The lesser or greater of two lanes (R292, R293). -/
def laneMinMax (isMax uns : Bool) (ty : Ty) (a b : Nat) : Nat × Flags :=
  match Ty.fmt ty with
  | some f => f.minmax isMax a b
  | none =>
    let le := if uns then decide (a ≤ b) else decide (sextInt ty.width a ≤ sextInt ty.width b)
    (if le != isMax then a else b, 0)

def execVmin (h : Hdr) (uns : Bool) (o : V3) (s : State) : Out :=
  lanewise h o s fun a b _ => laneMinMax false uns o.ty a b

def execVmax (h : Hdr) (uns : Bool) (o : V3) (s : State) : Out :=
  lanewise h o s fun a b _ => laneMinMax true uns o.ty a b

/-- VABS and VNEG of one lane: the sign is cleared or inverted; a NaN becomes canonical (R293). -/
def laneSign (negate sat : Bool) (ty : Ty) (a : Nat) : Nat × Flags :=
  match Ty.fmt ty with
  | some f =>
    let v := f.decode a
    if v.isNan then (f.nan, nvOf [v])
    else
      let mag := a % 2 ^ (f.eb + f.fb)
      (if negate && decide (a = mag) then mag + f.signBit true else mag, 0)
  | none =>
    let w := ty.width
    let x : Int := if negate then -(sextInt w a) else (sextInt w a).natAbs
    if sat then let c := clampI x (minS w) (maxS w); (lowBits w c.1, c.2) else (lowBits w x, 0)

def execVabs (h : Hdr) (sat : Bool) (o : V2) (s : State) : Out := lanewise1 h o s (laneSign false sat o.ty)

def execVneg (h : Hdr) (sat : Bool) (o : V2) (s : State) : Out := lanewise1 h o s (laneSign true sat o.ty)

def execVand (h : Hdr) (o : V3) (s : State) : Out := lanewise h o s fun a b _ => (a &&& b, 0)

def execVor (h : Hdr) (o : V3) (s : State) : Out := lanewise h o s fun a b _ => (a ||| b, 0)

def execVxor (h : Hdr) (o : V3) (s : State) : Out := lanewise h o s fun a b _ => (a ^^^ b, 0)

def execVshl (h : Hdr) (o : V3) (s : State) : Out :=
  lanewise h o s fun a b _ => (a * 2 ^ (b % o.ty.width) % 2 ^ o.ty.width, 0)

def execVshr (h : Hdr) (o : V3) (s : State) : Out := lanewise h o s fun a b _ => (a / 2 ^ (b % o.ty.width), 0)

def execVsar (h : Hdr) (o : V3) (s : State) : Out :=
  lanewise h o s fun a b _ => (lowBits o.ty.width (sextInt o.ty.width a / (2 ^ (b % o.ty.width) : Nat)), 0)

/-- The condition of one lane, and its flags (R294). -/
def laneCond (c : VCond) (ty : Ty) (a b : Nat) : Bool × Flags :=
  match c with
  | .int c => (Cond.holds c ⟨ty.width, a, b, sextInt ty.width a, sextInt ty.width b⟩, 0)
  | .flt c => match Ty.fmt ty with
    | some f => f.holds c a b
    | none => (false, 0)

def execVcmp (h : Hdr) (msk : MReg) (ty : Ty) (any : Bool) (c : VCond) (d : MReg) (a : VIdx) (b : Bc) (s : State) : Out :=
  vecIssue h [] s fun s w =>
    let e := ty.width
    let n := laneCount e
    let m := w.rdM msk
    let r (i : Nat) : Bool × Flags := laneCond c ty (laneOf (w.rdV a).toNat e i) (w.bc b e i)
    let on (i : Nat) : Bool := (r i).1
    let group (g : Nat) : List Nat := (List.range (32 / e)).map fun j => g * (32 / e) + j
    let one (g : Nat) : Bool := m.getLsbD g && (if any then (group g).any on else (group g).all on)
    let v : W64 := BitVec.ofNat 64 (packBits ((List.range 64).map one))
    .ok (s.retire (w.wrM d v).advance (laneFlags m e n fun i => (r i).2))

/-- Every lane of D is written (R295). -/
def execVsel (h : Hdr) (msk : MReg) (ty : Ty) (d a : VIdx) (b : Bc) (s : State) : Out :=
  vecIssue h (vdstAll d) s fun s w =>
    let e := ty.width
    let m := w.rdM msk
    retireV s w d (putLanes 0 false e (laneCount e) (BitVec.allOnes 64) fun i =>
      if laneOn m e i then laneOf (w.rdV a).toNat e i else w.bc b e i) 0

/-- Max(Min(a, hi), lo) (R295). -/
def laneClamp (uns : Bool) (ty : Ty) (lo hi a : Nat) : Nat × Flags :=
  let x := laneMinMax false uns ty a hi
  let y := laneMinMax true uns ty x.1 lo
  (y.1, x.2 ||| y.2)

def execVclmp (h : Hdr) (uns : Bool) (o : V2) (b : SReg) (s : State) : Out :=
  lanewise h ⟨o.msk, o.ty, o.zr, o.d, o.a, .s b⟩ s fun a lo _ =>
    let v := match s.top with
      | some w => (w.rdS b).toNat
      | none => 0
    laneClamp uns o.ty lo (v / 2 ^ 32 % 2 ^ o.ty.width) a

/-! ### Conversion (R296, R297) -/

/-- A complex element's two parts converted apart (R296). -/
def convertLane (dst src : Ty) (x : Nat) : Nat × Flags :=
  let cplx (t : Ty) : Option Ty := match t with
    | .ci4 => some .i4
    | .ci8 => some .i8
    | _ => none
  match cplx dst, cplx src with
  | some d, some c =>
    let re := convert d c false .rne (x % 2 ^ c.width)
    let im := convert d c false .rne (x / 2 ^ c.width % 2 ^ c.width)
    (re.1 + im.1 * 2 ^ d.width, re.2 ||| im.2)
  | _, _ => convert dst src false .rne x

/-- The EF chain over active elements: index, residual, results and flags (R189, R297). -/
def efChain (dst : Ty) : List (Nat × Nat) → Nat → Nat → Flags → List (Nat × Nat) × Nat × Nat × Flags
  | [], i, r, fl => ([], i, r, fl)
  | (p, x) :: rest, i, r, fl =>
    let q := efStep dst r x
    let next := if (i + 1) % 32 = 0 then 0 else q.2.2
    let t := efChain dst rest (i + 1) next (fl ||| q.2.1)
    ((p, q.1) :: t.1, t.2.1, (if rest.isEmpty then q.2.2 else t.2.2.1), t.2.2.2)

/-- The lanes of a conversion (R296): element number, source lane and destination lane. -/
structure Cvt where
  n : Nat
  src : Nat → Nat
  dst : Nat → Nat

def cvtOf (ws wd p : Nat) : Cvt :=
  let n := 2048 / Nat.max ws wd
  ⟨n, fun j => if ws < wd then p * n + j else j, fun j => if wd < ws then p * n + j else j⟩

/-- Element `j` of `n` is active (R296). -/
def eltOn (m : W64) (n j : Nat) : Bool := m.getLsbD (j * 64 / n)

def cvtDst (s : State) (d : VIdx) (msk : MReg) (zr : Bool) (wd : Nat) (c : Cvt) : List Dst :=
  match s.top with
  | some w => [.v d (laneBits wd (((List.range c.n).filter fun j => zr || eltOn (w.rdM msk) c.n j).map c.dst))]
  | none => []

def Core.level (k : Core) (l : Nat) : Level := vget Level.zero k.levels l

def execVcvt (h : Hdr) (msk : MReg) (ty sty : Ty) (zr ef cont : Bool) (d a : VIdx) (part : BitVec 18) (s : State) : Out :=
  let ws := sty.width
  let wd := ty.width
  let c := cvtOf ws wd part.toNat
  vecIssue h (cvtDst s d msk zr wd c) s fun s w =>
    let m := w.rdM msk
    let js := (List.range c.n).filter fun j => eltOn m c.n j
    let x (j : Nat) : Nat := laneOf (w.rdV a).toNat ws (c.src j)
    let old := if zr then setLanes (w.rdV d).toNat wd ((List.range c.n).map fun j => (c.dst j, 0)) else (w.rdV d).toNat
    if ef then
      let lv := s.me.level w.fr.lvl
      let i0 := if cont then lv.bpos else 0
      let r0 := if cont && i0 != 0 then lv.carry.toNat else 0
      let t := efChain ty (js.map fun j => (c.dst j, x j)) i0 r0 0
      let r1 := if js.isEmpty then r0 else t.2.2.1
      let s := s.modMe fun k => { k with levels := vmod w.fr.lvl (fun l =>
        { l with bpos := t.2.1 % 32, carry := BitVec.ofNat 32 r1 }) k.levels }
      retireV s w d (BitVec.ofNat 2048 (setLanes old wd t.1)) t.2.2.2
    else
      retireV s w d (BitVec.ofNat 2048 (setLanes old wd (js.map fun j => (c.dst j, (convertLane ty sty (x j)).1))))
        (js.foldl (fun fl j => fl ||| (convertLane ty sty (x j)).2) 0)

/-! ### Reductions and scans (R298 to R300) -/

/-- A lane value of a reduction: an FP32 encoding or an integer. -/
inductive RVal where
  | f (x : Nat)
  | i (x : Int)
  deriving DecidableEq, Repr

/-- Op of R298, with its flags. -/
def redOp (op : RedOp) : RVal → RVal → RVal × Flags
  | .f x, .f y =>
    let r := match op with
      | .add => rneSum (f32 x) (f32 y)
      | .min => fmtF32.minmax false x y
      | .max => fmtF32.minmax true x y
    (.f r.1, r.2)
  | .i x, .i y =>
    (.i (match op with
      | .add => x + y
      | .min => if x ≤ y then x else y
      | .max => if x ≤ y then y else x), 0)
  | x, _ => (x, 0)

/-- Op over values that may be empty. -/
def redOpt (op : RedOp) (x y : Option RVal) : Option RVal × Flags :=
  match x, y with
  | some a, some b => let r := redOp op a b; (some r.1, r.2)
  | some a, none => (some a, 0)
  | none, y => (y, 0)

/-- The value of an active lane (R298). -/
def redLane (ty : Ty) (uns : Bool) (x : Nat) : RVal × Flags :=
  match Ty.fmt ty with
  | some _ => let r := convert .f32 ty false .rne x; (.f r.1, r.2)
  | none => (.i (Ty.intVal ty uns x), 0)

/-- Combine a list of pairs, gathering flags. -/
def combine (op : RedOp) (ps : List (Option RVal × Option RVal)) (fl : Flags) : List (Option RVal) × Flags :=
  ps.foldr (fun p acc => let r := redOpt op p.1 p.2; (r.1 :: acc.1, acc.2 ||| r.2)) ([], fl)

/-- The tree of R298: the upper half folds onto the lower. -/
def redTree (op : RedOp) : Nat → List (Option RVal) → Flags → Option RVal × Flags
  | 0, v, fl => (v.headD none, fl)
  | k + 1, v, fl =>
    let h := 2 ^ k
    let r := combine op ((v.take h).zip (v.drop h)) fl
    redTree op k r.1 r.2

/-- The lanes of a reduction and the flags of their conversion. -/
def redInput (ty : Ty) (uns : Bool) (m : W64) (x : Nat) : List (Option RVal) × Flags :=
  let b := ty.width
  let n := laneCount b
  ((List.range n).map fun i => if laneOn m b i then some (redLane ty uns (laneOf x b i)).1 else none,
   laneFlags m b n fun i => (redLane ty uns (laneOf x b i)).2)

/-- The scalar a reduction writes (R298). -/
def redResult (ty : Ty) (opc : RedOp) (uns : Bool) (r : Option RVal) : W64 :=
  match r with
  | none => 0
  | some (.f x) => BitVec.ofNat 64 x
  | some (.i x) =>
    match opc with
    | .add => BitVec.ofInt 64 x
    | _ => if uns then extZ ty.width x else extS ty.width x

def execVred (h : Hdr) (msk : MReg) (ty : Ty) (opc : RedOp) (uns : Bool) (d : SReg) (a : VIdx) (s : State) : Out :=
  vecIssue h [.s d] s fun s w =>
    let v := redInput ty uns (w.rdM msk) (w.rdV a).toNat
    let r := redTree opc (Nat.log2 (laneCount ty.width)) v.1 v.2
    retireS s w d (redResult ty opc uns r.1) r.2

/-- The pair (hi, lo) after a slab result g is added, the flags of its roundings, and whether it is a count in MXC0
(R181, R182, R194, R299). DESIGN CHOICE (log 26): a signalling NaN in lo sets NV only where the steps of R194 read lo. -/
def pairAdd (hi lo g : Nat) : (Nat × Nat) × Flags × Bool :=
  let h := f32 hi
  let gv := f32 g
  if h.isNan then ((fmtF32.nan, 0), nvOf [h], false)
  else if h.isInf || gv.isInf || gv.isNan then
    let r := fmtF32.add .rne hi g
    ((r.1, 0), r.2, false)
  else
    let t := twoSum hi g
    if (f32 t.1).isInf then ((t.1, 0), t.2.2, true)
    else
      let l := rneSum (f32 lo) t.2.1
      ((t.1, l.1), t.2.2 ||| l.2, false)

def execVdot (h : Hdr) (msk : MReg) (ty : Ty) (acc : Bool) (d : SReg) (a b : VIdx) (s : State) : Out :=
  vecIssue h [.s d, .s (d + 1)] s fun s w =>
    let e := ty.width
    let n := laneCount e
    let m := w.rdM msk
    let f32of (x : Nat) : Nat × Flags := convert .f32 ty false .rne x
    let p (i : Nat) : Nat × Flags :=
      let x := f32of (laneOf (w.rdV a).toNat e i)
      let y := f32of (laneOf (w.rdV b).toNat e i)
      let r := fmtF32.mul .rne x.1 y.1
      (r.1, x.2 ||| y.2 ||| r.2)
    let v := (List.range n).map fun i => if laneOn m e i then some (RVal.f (p i).1) else none
    let r := redTree .add (Nat.log2 n) v (laneFlags m e n fun i => (p i).2)
    let g := match r.1 with
      | some (.f x) => x
      | _ => 0
    let hi := if acc then (w.rdS d).toNat % 2 ^ 32 else 0
    let lo := if acc then (w.rdS (d + 1)).toNat % 2 ^ 32 else 0
    let q := pairAdd hi lo g
    .ok (s.retire ((w.wrS d (BitVec.ofNat 64 q.1.1)).wrS (d + 1) (BitVec.ofNat 64 q.1.2)).advance (r.2 ||| q.2.1))

/-- The scan of R300: at each step every place i ≥ h takes Op(v[i - h], v[i]). -/
def scanSteps (op : RedOp) : Nat → Nat → List (Option RVal) → Flags → List (Option RVal) × Flags
  | 0, _, v, fl => (v, fl)
  | k + 1, h, v, fl =>
    let r := combine op (v.zip (v.drop h)) fl
    scanSteps op k (2 * h) (v.take h ++ r.1) r.2

/-- A prefix as a lane of its type (R300). -/
def scanLane (ty : Ty) (v : Option RVal) : Nat × Flags :=
  match v with
  | some (.f x) => convert ty .f32 false .rne x
  | some (.i x) => (lowBits ty.width x, 0)
  | none => (0, 0)

def execVscan (h : Hdr) (opc : RedOp) (uns : Bool) (o : V2) (s : State) : Out :=
  vecIssue h (vdst s o.d o.msk o.zr) s fun s w =>
    let e := o.ty.width
    let n := laneCount e
    let m := w.rdM o.msk
    let v := redInput o.ty uns m (w.rdV o.a).toNat
    let r := scanSteps opc (Nat.log2 n) 1 v.1 v.2
    let q (i : Nat) : Nat × Flags := scanLane o.ty (r.1.getD i none)
    retireV s w o.d (putLanes (w.rdV o.d) o.zr e n m fun i => (q i).1) (r.2 ||| laneFlags m e n fun i => (q i).2)

/-! ### Moving lanes (R301) -/

/-- Lane moves: lane `i` of D is `f` of A's lanes, w and n. -/
def laneMove (h : Hdr) (o : V2) (s : State) (f : Window → Nat → Nat → Nat → Nat) : Out :=
  vecIssue h (vdst s o.d o.msk o.zr) s fun s w =>
    let e := o.ty.width
    let n := laneCount e
    retireV s w o.d (putLanes (w.rdV o.d) o.zr e n (w.rdM o.msk) fun i => f w e n i) 0

def execVperm (h : Hdr) (o : V2) (b : VIdx) (s : State) : Out :=
  laneMove h o s fun w e n i => laneOf (w.rdV o.a).toNat e (laneOf (w.rdV b).toNat e i % n)

def execVshf (h : Hdr) (k : ShfOp) (o : V2) (b : SI) (s : State) : Out :=
  laneMove h o s fun w e n i =>
    let c := (w.si b).toNat
    let a := (w.rdV o.a).toNat
    match k with
    | .dn => if i + c < n then laneOf a e (i + c) else 0
    | .up => if c ≤ i then laneOf a e (i - c) else 0
    | .rot => laneOf a e ((i + c) % n)

def execVbc (h : Hdr) (msk : MReg) (ty : Ty) (zr : Bool) (d : VIdx) (b : SI) (s : State) : Out :=
  laneMove h ⟨msk, ty, zr, d, d⟩ s fun w e _ _ => (w.si b).toNat % 2 ^ e

def execVext (h : Hdr) (ty : Ty) (uns : Bool) (d : SReg) (a : VIdx) (b : SI) (s : State) : Out :=
  vecIssue h [.s d] s fun s w =>
    let e := ty.width
    retireS s w d (loadedValue ty uns (laneOf (w.rdV a).toNat e ((w.si b).toNat % laneCount e))) 0

/-- The lane VINS writes, for its destination bits. -/
def execVins (h : Hdr) (ty : Ty) (d : VIdx) (a : SReg) (b : SI) (s : State) : Out :=
  let e := ty.width
  let dst := match s.top with
    | some w => [Dst.v d (laneBits e [(w.si b).toNat % laneCount e])]
    | none => []
  vecIssue h dst s fun s w =>
    retireV s w d (BitVec.ofNat 2048 (setLane (w.rdV d).toNat e ((w.si b).toNat % laneCount e) (w.rdS a).toNat)) 0

/-! ### Complex lanes (R302) -/

/-- c + p + q rounded once; `plus` gives +0 for every zero result (VCMUL). -/
def sumRound (f : Fmt) (plus : Bool) (c : Option FV) (p q : FV × Flags) : Nat × Flags :=
  let x := match c with
    | some v => FV.add false v p.1
    | none => (p.1, 0)
  let y := FV.add false x.1 q.1
  let v := if plus && y.1.isZero then FV.num false 0 0 else y.1
  let r := f.ofFV .rne v
  (r.1, p.2 ||| q.2 ||| x.2 ||| y.2 ||| r.2)

def negP (p : FV × Flags) : FV × Flags := (p.1.neg, p.2)

/-- One floating pair: its real and imaginary results with the flags of both. -/
def cplxPair (f : Fmt) (ma cj : Bool) (ar ai br bi cr ci : Nat) : Nat × Nat × Flags :=
  let a := f.decode ar
  let b := if cj then (f.decode ai).neg else f.decode ai
  let x := f.decode br
  let y := f.decode bi
  let re := sumRound f (!ma) (if ma then some (f.decode cr) else none) (FV.mul a x) (negP (FV.mul b y))
  let im := sumRound f (!ma) (if ma then some (f.decode ci) else none) (FV.mul a y) (FV.mul b x)
  (re.1, im.1, re.2 ||| im.2)

/-- One integer complex element of part width `b`. -/
def cplxInt (b sh : Nat) (ma cj : Bool) (a x c : Nat) : Nat × Flags :=
  let part (v i : Nat) : Int := sextInt b (v / 2 ^ (b * i))
  let ai := if cj then -(part a 1) else part a 1
  let re := part a 0 * part x 0 - ai * part x 1
  let im := part a 0 * part x 1 + ai * part x 0
  let fin (i : Nat) (v : Int) : Int × Flags := satInt b false ((if ma then part c i else 0) + v / (2 ^ sh : Nat))
  let r := fin 0 re
  let j := fin 1 im
  (lowBits b r.1 + lowBits b j.1 * 2 ^ b, r.2 ||| j.2)

/-- The destination of VCMUL and VCMA: a pair of FP32 lanes is written where its even lane is active (R211, R302). -/
def cplxDst (s : State) (o : VC) : List Dst :=
  match Ty.fmt o.ty, s.top with
  | some _, some w =>
    let e := o.ty.width
    let js := (List.range (laneCount e / 2)).filter fun j => laneOn (w.rdM o.msk) e (2 * j)
    [.v o.d (if o.zr then BitVec.allOnes 2048 else laneBits e (js.flatMap fun j => [2 * j, 2 * j + 1]))]
  | _, _ => vdst s o.d o.msk o.zr

def complexOp (h : Hdr) (ma : Bool) (o : VC) (s : State) : Out :=
  vecIssue h (cplxDst s o) s fun s w =>
    let e := o.ty.width
    let n := laneCount e
    let m := w.rdM o.msk
    let a (i : Nat) : Nat := laneOf (w.rdV o.a).toNat e i
    let b (i : Nat) : Nat := laneOf (w.rdV o.b).toNat e i
    let c (i : Nat) : Nat := laneOf (w.rdV o.d).toNat e i
    match Ty.fmt o.ty with
    | some f =>
      let pair (j : Nat) : Nat × Nat × Flags :=
        cplxPair f ma o.cj (a (2 * j)) (a (2 * j + 1)) (b (2 * j)) (b (2 * j + 1)) (c (2 * j)) (c (2 * j + 1))
      let js := (List.range (n / 2)).filter fun j => laneOn m e (2 * j)
      let old := if o.zr then 0 else (w.rdV o.d).toNat
      retireV s w o.d (BitVec.ofNat 2048 (setLanes old e (js.flatMap fun j =>
          [(2 * j, (pair j).1), (2 * j + 1, (pair j).2.1)])))
        (js.foldl (fun fl j => fl ||| (pair j).2.2) 0)
    | none =>
      let r (i : Nat) : Nat × Flags := cplxInt (e / 2) o.sh.val ma o.cj (a i) (b i) (c i)
      retireV s w o.d (putLanes (w.rdV o.d) o.zr e n m fun i => (r i).1) (laneFlags m e n fun i => (r i).2)

def execVcmul (h : Hdr) (o : VC) (s : State) : Out := complexOp h false o s

def execVcma (h : Hdr) (o : VC) (s : State) : Out := complexOp h true o s

/-! ### Transcendental functions (R303) -/

/-- A lane converted exactly to FP32, computed, and rounded once to its format. -/
def transLane (ty : Ty) (f : Nat → Nat × Flags) (x : Nat) : Nat × Flags :=
  let a := convert .f32 ty false .rne x
  let y := f a.1
  let r := convert ty .f32 false .rne y.1
  (r.1, a.2 ||| y.2 ||| r.2)

def execVexp (h : Hdr) (o : V2) (s : State) : Out := lanewise1 h o s (transLane o.ty vexp32)

def execVlog (h : Hdr) (o : V2) (s : State) : Out := lanewise1 h o s (transLane o.ty vlog32)

def execVrcp (h : Hdr) (o : V2) (s : State) : Out := lanewise1 h o s (transLane o.ty vrcp32)

def execVrsq (h : Hdr) (o : V2) (s : State) : Out := lanewise1 h o s (transLane o.ty vrsq32)

/-! ### Buffer access (R308, R309) -/

def execVld (h : Hdr) (msk : MReg) (ty : Ty) (zr : Bool) (d : VIdx) (a : BuS) (b : SI) (s : State) : Out :=
  vecIssue h (vdst s d msk zr) s fun s w =>
    Res.check (formBufA s w a (w.siInt b) 256 16 1) fun p =>
      if s.me.held w.fr then .wait .acquire false
      else
        let x := memNat (s.me.buf p.1) p.2 256
        let e := ty.width
        retireV s w d (putLanes (w.rdV d) zr e (laneCount e) (w.rdM msk) fun i => laneOf x e i) 0

/-- The bytes of the active lanes of a register. -/
def activeBytes (m : W64) (e : Nat) (x : VReg) : List (Option Byte) :=
  (List.range 256).map fun i => if laneOn m e (i * 8 / e) then some (BitVec.ofNat 8 (laneOf x.toNat 8 i)) else none

def execVst (h : Hdr) (msk : MReg) (ty : Ty) (d : VIdx) (a : BuS) (b : SI) (s : State) : Out :=
  vecIssue h [] s fun s w =>
    Res.check (formBufA s w a (w.siInt b) 256 16 2) fun p =>
      if s.me.held w.fr then .wait .acquire false
      else
        .ok ((s.modMe fun k => k.bufWrite p.1 p.2 (activeBytes (w.rdM msk) ty.width (w.rdV d))).modTop Window.advance)

/-- The elements of VLDX and VSTX: number and checked place, or the first fault in ascending number (R309). -/
def elements (s : State) (w : Window) (msk : MReg) (a : BuS) (b : VIdx) (n acc : Nat) :
    List Nat → Ex (List (Nat × Nat × Nat))
  | [] => .ok []
  | j :: r =>
    if (w.rdM msk).getLsbD j then
      match formBuf s w a (sextInt 32 (laneOf (w.rdV b).toNat 32 j)) n acc with
      | .error f => .error f
      | .ok p => match elements s w msk a b n acc r with
        | .error f => .error f
        | .ok l => .ok ((j, p.1, p.2) :: l)
    else elements s w msk a b n acc r

/-- The lanes of VLDX: those of its PART. ZR clears the inactive ones among them (R285, R309). -/
def partDst (s : State) (d : VIdx) (msk : MReg) (zr : Bool) (e part : Nat) : List Dst :=
  match s.top with
  | some w => [.v d (laneBits e (((List.range 64).filter fun j => zr || (w.rdM msk).getLsbD j).map fun j => part * 64 + j))]
  | none => []

def execVldx (h : Hdr) (msk : MReg) (ty : Ty) (zr : Bool) (part : Fin 8) (d : VIdx) (a : BuS) (b : VIdx) (s : State) : Out :=
  let e := ty.width
  vecIssue h (partDst s d msk zr e part.val) s fun s w =>
    Res.check (elements s w msk a b (e / 8) 1 (List.range 64)) fun l =>
      if s.me.held w.fr then .wait .acquire false
      else
        let old := (w.rdV d).toNat
        let base := if zr then setLanes old e ((List.range 64).map fun j => (part.val * 64 + j, 0)) else old
        retireV s w d (BitVec.ofNat 2048 (setLanes base e (l.map fun p =>
          (part.val * 64 + p.1, memNat (s.me.buf p.2.1) p.2.2 (e / 8))))) 0

/-- In ascending element number, so the higher one wins (R309). -/
def execVstx (h : Hdr) (msk : MReg) (ty : Ty) (part : Fin 8) (d : VIdx) (a : BuS) (b : VIdx) (s : State) : Out :=
  let e := ty.width
  vecIssue h [] s fun s w =>
    Res.check (elements s w msk a b (e / 8) 2 (List.range 64)) fun l =>
      if s.me.held w.fr then .wait .acquire false
      else
        .ok ((s.modMe fun k => l.foldl (fun k p => k.bufWrite p.2.1 p.2.2
          ((natBytes (e / 8) (laneOf (w.rdV d).toNat e (part.val * 64 + p.1))).map some)) k).modTop Window.advance)

/-! ### Global access (R310, R311) -/

/-- The lines of 256 bytes that hold a byte of an active lane (R310). -/
def activePieces (m : W64) (e off : Nat) (ps : List (Nat × Nat)) : List (Nat × Nat) :=
  ps.filter fun p => (List.range p.2).any fun i => laneOn m e ((p.1 + i - off) * 8 / e)

/-- The register bits of the active lanes. -/
def maskBits (m : W64) : VReg := laneBits 32 (activeLanes m 32)

def vldgPlain (h : Hdr) (msk : MReg) (ty : Ty) (zr : Bool) (d : VIdx) (a : SK) (b : SI) (s : State) : Out :=
  vecIssue h (vdst s d msk zr) s fun s w =>
    Res.check (formAddr s w a (w.siInt b) 256 pREAD 1) fun x =>
      if s.me.held w.fr then .wait .acquire false
      else
        let m := w.rdM msk
        let ps := if x.region.toNat ≤ 3 then splitLines 8 x.off 256 else [(x.off, 256)]
        .ok ((startAccess s w (.vec d zr (maskBits m)) x (.plain h.nt) false 0
          (activePieces m ty.width x.off ps)).modTop Window.advance)

/-- The checks of R257 over every byte of a chunk, in ascending address order (R311). -/
def chunkCheck (s : State) (w : Window) (a : SK) : List Nat → Ex Unit
  | [] => .ok ()
  | o :: r =>
    match formAddr s w a o 1 pREAD 1 with
    | .error f => .error f
    | .ok _ => chunkCheck s w a r

/-- Insert into an ascending list without repeats. -/
def insertUp (x : Nat) : List Nat → List Nat
  | [] => [x]
  | y :: r => if x < y then x :: y :: r else if x = y then y :: r else y :: insertUp x r

def sortUp (l : List Nat) : List Nat := l.foldr insertUp []

/-- The offsets from the base of the bytes of chunk `c` of a rank; `none` past its end (R311). -/
def chunkBytes (t : Shape) (rank fansz c : Nat) : Option (List (Option Nat)) :=
  let per := t.tileBytes / 256
  match t.rankTile rank fansz (c / per) with
  | none => none
  | some i => some ((List.range 256).map fun j => t.tileAddr i (c % per * 256 + j))

def vldgShape (h : Hdr) (msk : MReg) (ty : Ty) (zr : Bool) (d : VIdx) (a : SK) (buf : Fin 4) (off : BitVec 16)
    (s : State) : Out :=
  vecIssue h (vdst s d msk zr) s fun s w =>
    let o := off.toNat * 16
    let m := w.rdM msk
    let bad : Res := .fault ⟨cBUFFER, 1, 0, o⟩
    if buf.val ≠ 3 ∨ o % 64 ≠ 0 ∨ !s.me.bufOk w.fr.ctx 3 o 64 then bad
    else
      let t := Shape.ofNat (memNat s.me.bufS o 64)
      if s.me.ownWaits w.fr then .wait .acquire false
      else if !t.valid || t.tileBytes % 256 ≠ 0 then bad
      else
        match chunkBytes t w.fr.rank.toNat w.fr.fansz.toNat t.vcur with
        | none =>
          if s.me.held w.fr then .wait .acquire false
          else
            let e := ty.width
            retireV s w d (putLanes (w.rdV d) zr e (laneCount e) m fun _ => 0) 0
        | some bs =>
          Res.check (chunkCheck s w a (sortUp (bs.filterMap id))) fun _ =>
            if s.me.held w.fr then .wait .acquire false
            else
              let x := w.base a
              let first := (x.2.1 + (sortUp (bs.filterMap id)).headD 0) % 2 ^ 64
              let acc : Acc :=
                { region := x.1, off := first, n := 256, dev := accDev s w.fr.ctx x.1 first (x.2.2.map Key.peer)
                  viaKey := x.2.2.isSome, peer := x.2.2.map Key.peer }
              let map := bs.map fun q => q.map fun v => (x.2.1 + v) % 2 ^ 64
              let want := (List.range 256).filterMap fun i =>
                if laneOn m ty.width (i * 8 / ty.width) then map.getD i none else none
              let pieces := if acc.region.toNat ≤ 3 then
                  (sortUp (want.map fun v => v / 128 * 128)).map fun l => (l, 128)
                else (sortUp (want.map fun v => v / 8 * 8)).map fun v => (v, 8)
              let s := s.modMe fun k => k.bufWrite 3 (o + 52) ((natBytes 4 (t.vcur + 1)).map some)
              .ok ((startGather s w (.vec d zr (maskBits m)) acc (.plain h.nt) false 0 map pieces).modTop Window.advance)

def execVldg (h : Hdr) (msk : MReg) (ty : Ty) (zr : Bool) (d : VIdx) (x : VldgArg) (s : State) : Out :=
  match x with
  | .plain a b => vldgPlain h msk ty zr d a b s
  | .shp a buf off => vldgShape h msk ty zr d a buf off s

def execVstg (h : Hdr) (msk : MReg) (ty : Ty) (d : VIdx) (a : SK) (b : SI) (s : State) : Out :=
  vecIssue h [] s fun s w =>
    Res.check (formAddr s w a (w.siInt b) 256 pWRITE 2) fun x =>
      if s.me.held w.fr then .wait .acquire false
      else putStore s w x .plain (activeBytes (w.rdM msk) ty.width (w.rdV d))

/-! ### Masks (R312) -/

def execMkand (h : Hdr) (d a b : MReg) (s : State) : Out := issueW h [] s fun _ w => .ok (w.wrM d (w.rdM a &&& w.rdM b))

def execMkor (h : Hdr) (d a b : MReg) (s : State) : Out := issueW h [] s fun _ w => .ok (w.wrM d (w.rdM a ||| w.rdM b))

def execMkxor (h : Hdr) (d a b : MReg) (s : State) : Out := issueW h [] s fun _ w => .ok (w.wrM d (w.rdM a ^^^ w.rdM b))

def execMknot (h : Hdr) (d a : MReg) (s : State) : Out := issueW h [] s fun _ w => .ok (w.wrM d (~~~(w.rdM a)))

def execMkpop (h : Hdr) (d : SReg) (a : MReg) (s : State) : Out :=
  issueW h [.s d] s fun _ w => .ok (w.wrS d (BitVec.ofNat 64 (popCount 64 (w.rdM a).toNat)))

def execMkset (h : Hdr) (first : Bool) (d : MReg) (b : SI) (s : State) : Out :=
  issueW h [] s fun _ w =>
    let v := w.si b
    .ok (w.wrM d (if first then BitVec.ofNat 64 (2 ^ Nat.min v.toNat 64 - 1) else v))

end Sys2Proof.Machine
end

