-- ==== Sys2Proof/Machine/Matrix.lean ====
section
/-! DEFINITION. Matrix.lean: the matrix engine: descriptors and checks at issue, renaming, the schedule of its jobs, and
the arithmetic of slabs and rows (R176, R190 to R198, R313 to R347). -/

namespace Sys2Proof.Machine

/-! ### Operand B in the W buffer (R193, R326, R327) -/

/-- Planes of a format, of each part for a complex one (R193). -/
def Ty.planes : Ty → Nat
  | .bf16 => 8
  | .f16 => 11
  | .mk8 => 5
  | .i8 => 8
  | .i4 => 4
  | .ci8 => 8
  | .ci4 => 4
  | _ => 0

def Ty.isFloat8or16 : Ty → Bool
  | .bf16 | .f16 | .mk8 => true
  | _ => false

def Ty.isCplx : Ty → Bool
  | .ci4 | .ci8 => true
  | _ => false

/-- Bytes of the side block of a slab (R326). -/
def Ty.sideBytes (t : Ty) : Nat := if Ty.isFloat8or16 t then 1024 else 0

/-- Bytes of a slab (R326). -/
def Ty.slabBytes (t : Ty) : Nat := Ty.sideBytes t + 64 * (if Ty.isCplx t then 2 * Ty.planes t else Ty.planes t)

/-- An element as the matrix array sees it: a floating value, or an integer with its imaginary part. -/
inductive MElt where
  | f (v : FV)
  | i (re im : Int)
  deriving DecidableEq, Repr

/-- The first `p` of `b` planes of an integer part, from bits most significant first (R327). -/
def planeInt (b p : Nat) (bits : List Bool) : Int :=
  (List.range (Nat.min p b)).foldl (fun (v : Int) j =>
    if bits.getD j false then (if j = 0 then v - (2 ^ (b - 1) : Nat) else v + (2 ^ (b - 1 - j) : Nat)) else v) 0

/-- The first `p` planes of a floating element as a multiple of 2^(1-p). -/
def planeMag (p : Nat) (bits : List Bool) : Nat := (List.range p).foldl (fun v j => 2 * v + bit (bits.getD j false)) 0

/-- Element B[t][n] of a slab under `p` planes (R326, R327). -/
def slabElt (ty : Ty) (p : Nat) (slab : List Byte) (t n : Nat) : MElt :=
  let side := Ty.sideBytes ty
  let b := Ty.planes ty
  let pl (i : Nat) : List Bool := (List.range b).map fun j => (slab.getD (side + 64 * (i + j) + n) 0).getLsbD t
  if Ty.isFloat8or16 ty then
    let sw := leNat (sliceBytes slab (2 * (8 * n + t)) 2)
    let neg := decide (sw / 2 ^ 15 = 1)
    match bitsOf sw 14 13 with
    | 0 => .f (.num neg 0 0)
    | 1 => .f (.num neg (planeMag p (pl 0)) (sextInt 9 (bitsOf sw 8 0) - (p - 1 : Nat)))
    | 2 => .f (.inf neg)
    | _ => .f (.nan false)
  else if Ty.isCplx ty then .i (planeInt b p (pl 0)) (planeInt b p (pl b))
  else .i (planeInt b p (pl 0)) 0

/-- Element `i` of a packed run of bytes, as operand A (R178, R328, R330). -/
def runElt (ty : Ty) (bytes : List Byte) (i : Nat) : MElt :=
  let x := leNat bytes / 2 ^ (i * ty.width) % 2 ^ ty.width
  if Ty.isFloat8or16 ty then .f (Ty.fv ty false x)
  else if Ty.isCplx ty then
    let h := ty.width / 2
    .i (sextInt h (x % 2 ^ h)) (sextInt h (x / 2 ^ h))
  else .i (sextInt ty.width x) 0

/-! ### Slabs (R194, R195) -/

/-- What a slab or row adds to the counters, and its flags (R191). -/
structure Cnt where
  c0 : Nat
  c1 : Nat
  c2 : Nat
  c3 : Nat
  fl : Flags
  deriving DecidableEq, Repr

def Cnt.none : Cnt := ⟨0, 0, 0, 0, 0⟩

def Cnt.add (a b : Cnt) : Cnt := ⟨a.c0 + b.c0, a.c1 + b.c1, a.c2 + b.c2, a.c3 + b.c3, a.fl ||| b.fl⟩

def Cnt.sum (cs : List Cnt) : Cnt := cs.foldl Cnt.add Cnt.none

/-- The eight products of a floating slab. -/
inductive SlabF where
  | special
  /-- g, the products truncated, whether g overflowed, and the flags of its rounding (R182) -/
  | sum (g trunc : Nat) (big : Bool) (fl : Flags)
  deriving DecidableEq, Repr

/-- A finite non-zero product, its power of two, and the binade of its magnitude. -/
def prodTerms (ps : List (MElt × MElt)) : List (Bool × Nat × Int) :=
  ps.filterMap fun p => match p with
    | (.f (.num x m e), .f (.num y n f)) => if m * n = 0 then none else some (x != y, m * n, e + f)
    | _ => none

def MElt.special : MElt → Bool
  | .f (.nan _) => true
  | .f (.inf _) => true
  | _ => false

/-- A signalling NaN (R181). -/
def MElt.signals : MElt → Bool
  | .f (.nan sig) => sig
  | _ => false

/-- The products of one cell in one slab, aligned 60 binades below the largest and summed (R194). -/
def slabF (ps : List (MElt × MElt)) : SlabF :=
  if ps.any fun p => p.1.special || p.2.special then .special
  else
    let ts := prodTerms ps
    let tops := ts.map fun t => (Nat.log2 t.2.1 : Int) + t.2.2
    match tops.foldl (fun (b : Option Int) x => match b with
        | some y => if y < x then some x else some y
        | none => some x) none with
    | none => .sum 0 0 false 0
    | some emax =>
      let floor := emax - 60
      let cut (t : Bool × Nat × Int) : Nat := if floor ≤ t.2.2 then t.2.1 * 2 ^ (t.2.2 - floor).toNat else t.2.1 / 2 ^ (floor - t.2.2).toNat
      let lost := ts.countP fun t => decide (t.2.2 < floor) && decide (t.2.1 % 2 ^ (floor - t.2.2).toNat ≠ 0)
      let sum := ts.foldl (fun (v : Int) t => if t.1 then v - cut t else v + cut t) 0
      let g := rne32 (fvOfInt sum floor false)
      .sum g.1 lost (f32 g.1).isInf g.2

/-- Add g to a pair: the new cell, the flags, and whether MXC0 counts (R194). `big`: g overflowed from finite products. -/
def addCell (cell g : Nat) (big : Bool) : Nat × Cnt :=
  let hi := cell % 2 ^ 32
  let r := pairAdd hi (cell / 2 ^ 32) g
  let sat := !(f32 hi).isNan && (big || r.2.2)
  (r.1.1 + r.1.2 * 2 ^ 32, ⟨bit sat, 0, 0, 0, r.2.1 ||| fIf sat fOF⟩)

/-- Saturate symmetrically to ±(2^(w-1) - 1) (R192). -/
def satSym (w : Nat) (x : Int) : Int × Bool :=
  let m : Int := (2 ^ (w - 1) : Nat) - 1
  if m < x then (m, true) else if x < -m then (-m, true) else (x, false)

def MElt.re : MElt → Int
  | .i r _ => r
  | _ => 0

def MElt.im : MElt → Int
  | .i _ j => j
  | _ => 0

/-- One slab added to one cell (R194, R195). -/
def slabCell (cplx cj float : Bool) (ps : List (MElt × MElt)) (cell : Nat) : Nat × Cnt :=
  if float then
    match slabF ps with
    | .special => (fmtF32.nan, ⟨0, 1, 0, 0, fSPC ||| fIf (ps.any fun p => p.1.signals || p.2.signals) fNV⟩)
    | .sum g lost big fl =>
      let r := addCell cell g big
      let dead := (f32 (cell % 2 ^ 32)).isNan
      let lost := if dead then 0 else lost
      (r.1, r.2.add ⟨0, 0, 0, lost, fIf (decide (lost ≠ 0)) fNX ||| (if dead then 0 else fl)⟩)
  else if cplx then
    let re := ps.foldl (fun (v : Int) p =>
      v + p.1.re * p.2.re + (if cj then p.1.im * p.2.im else -(p.1.im * p.2.im))) 0
    let im := ps.foldl (fun (v : Int) p =>
      v + p.1.re * p.2.im + (if cj then -(p.1.im * p.2.re) else p.1.im * p.2.re)) 0
    let a := satSym 32 (sextInt 32 (cell % 2 ^ 32) + re)
    let b := satSym 32 (sextInt 32 (cell / 2 ^ 32) + im)
    (lowBits 32 a.1 + lowBits 32 b.1 * 2 ^ 32, ⟨bit a.2 + bit b.2, 0, 0, 0, fIf (a.2 || b.2) fSAT⟩)
  else
    let q := satSym 64 (sextInt 64 cell + ps.foldl (fun (v : Int) p => v + p.1.re * p.2.re) 0)
    (lowBits 64 q.1, ⟨bit q.2, 0, 0, 0, fIf q.2 fSAT⟩)

/-! ### The C buffer -/

/-- The cell (m, n) of a physical tile. -/
def Core.cell (k : Core) (tile m n : Nat) : Nat := (tabGet (0 : W64) (tile * 4096 + m * 64 + n) k.bufC).toNat

/-- The cells of a tile; a zero is not listed. -/
def Core.tileCells (k : Core) (tile : Nat) : List (Nat × W64) :=
  k.bufC.filter fun c => decide (c.1 / 4096 = tile)

/-- Replace a whole tile. -/
def Core.setTile (k : Core) (tile : Nat) (vs : List Nat) : Core :=
  let new := (List.range vs.length).filterMap fun i =>
    let v := vs.getD i 0
    if v = 0 then none else some (tile * 4096 + i, BitVec.ofNat 64 v)
  { k with bufC := (k.bufC.filter fun c => decide (c.1 / 4096 < tile)) ++ new
      ++ k.bufC.filter fun c => decide (tile < c.1 / 4096) }

/-- The 4,096 cells of a tile in order. -/
def Core.tileVals (k : Core) (tile : Nat) : List Nat :=
  let cs := k.tileCells tile
  (List.range 4096).map fun i => (tabGet (0 : W64) (tile * 4096 + i) cs).toNat

/-! ### Rows: MSCALE (R197) and MDRAIN (R198, R336) -/

/-- RNE32 of a pair, taken exactly. -/
def pairValue (cell : Nat) : Nat × Flags := rneSum (f32 (cell % 2 ^ 32)) (f32 (cell / 2 ^ 32))

/-- One cell of MSCALE (R197). -/
def scaleCell (srcI64 : Bool) (sc tc rs cs : Nat) : Nat × Cnt :=
  let pf := if srcI64 then convert .f32 .i64 false .rne sc else pairValue sc
  let p := fmtF32.mul .rne pf.1 rs
  let t := fmtF32.mul .rne p.1 cs
  let ins := [f32 pf.1, f32 rs, f32 cs]
  let dead := (f32 (tc % 2 ^ 32)).isNan
  let special := ins.any fun v => v.isNan || v.isInf
  let under := bit (decide (p.2 &&& fUF ≠ 0)) + bit (decide (t.2 &&& fUF ≠ 0))
  let c : Cnt := ⟨0, bit (special && !dead), under, 0, pf.2 ||| p.2 ||| t.2 ||| fIf (special && !dead) fSPC⟩
  if dead || ins.any FV.isNan then (fmtF32.nan, c)
  else
    let r := addCell tc t.1 (!special && (f32 t.1).isInf)
    (r.1, c.add r.2)

/-- Counts of one drained element: saturations and inexact results in the subnormal range (R198). -/
def drainCnt (fl : Flags) : Cnt := ⟨bit (decide (fl &&& fSAT ≠ 0)), 0, bit (decide (fl &&& fUF ≠ 0)), 0, fl⟩

/-- One element of a row in mode RNE (R198). -/
def drainElt (ty : Ty) (mode : CellMode) (cell : Nat) : Nat × Cnt :=
  if ty = .i64 then (cell, Cnt.none)
  else match mode with
    | .f2 =>
      let x := pairValue cell
      let q := convert ty .f32 false .rne x.1
      (q.1, drainCnt (x.2 ||| q.2))
    | .i64 =>
      if Ty.isInt ty then
        let q := convert ty .i64 false .rne cell
        (q.1, drainCnt q.2)
      else
        let x := convert .f32 .i64 false .rne cell
        let q := convert ty .f32 false .rne x.1
        (q.1, drainCnt (x.2 ||| q.2))
    | .ci32 =>
      let part : Ty := if ty = .ci8 then .i8 else .i4
      let a := convert part .i32 false .rne (cell % 2 ^ 32)
      let b := convert part .i32 false .rne (cell / 2 ^ 32)
      (a.1 + b.1 * 2 ^ part.width, (drainCnt a.2).add (drainCnt b.2))

/-- A row in mode EF: blocks of 32 columns, carry 0 at each (R189, R336). -/
def drainEf (ty : Ty) : List Nat → Nat → Nat → List (Nat × Cnt)
  | [], _, _ => []
  | cell :: rest, i, r =>
    let r := if i % 32 = 0 then 0 else r
    let x := pairValue cell
    let q := efStep ty r x.1
    (q.1, drainCnt (x.2 ||| q.2.1)) :: drainEf ty rest (i + 1) q.2.2

/-- A drained row: its bytes and counts (R178, R336). -/
def drainRow (ty : Ty) (mode : CellMode) (ef : Bool) (cells : List Nat) : List Byte × Cnt :=
  let r := if ef then drainEf ty cells 0 0 else cells.map (drainElt ty mode)
  let v := r.foldr (fun e acc => e.1 % 2 ^ ty.width + acc * 2 ^ ty.width) 0
  (natBytes (64 * ty.width / 8) v, Cnt.sum (r.map Prod.snd))

/-- Counts of a slab or row commit: MXCn stop at 2^64 - 1, flags go to CFLG and FLG (R191, R467). -/
def Core.commitCnt (k : Core) (f : Frame) (c : Cnt) : Core :=
  let up (v : W64) (n : Nat) : W64 := BitVec.ofNat 64 (Nat.min (2 ^ 64 - 1) (v.toNat + n))
  let n (i : Nat) : Nat := if i = 0 then c.c0 else if i = 1 then c.c1 else if i = 2 then c.c2 else c.c3
  let k := k.modCx f.ctx fun x => { x with mxc := x.mxc.mapIdx fun i v => up v (n i) }
  k.commit f c.fl

/-! ### MPACK (R340 to R342) and MTRN (R343) -/

/-- Side word and planes of an element, most significant plane first (R342). -/
def packElt (ty : Ty) (x : Nat) : Nat × List Bool :=
  let msb (n v : Nat) : List Bool := (List.range n).map fun j => decide (v / 2 ^ (n - 1 - j) % 2 = 1)
  let off (n : Nat) : List Bool := List.replicate n false
  match Ty.fmt ty with
  | some f =>
    let neg := x / 2 ^ (f.eb + f.fb) % 2
    let ex := x / 2 ^ f.fb % 2 ^ f.eb
    let fr := x % 2 ^ f.fb
    if ex = 2 ^ f.eb - 1 then ((if fr = 0 then 2 * 2 ^ 13 + neg * 2 ^ 15 else 3 * 2 ^ 13), off (f.fb + 1))
    else if ex = 0 ∧ fr = 0 then (neg * 2 ^ 15, off (f.fb + 1))
    else
      let e : Int := if ex = 0 then f.emin else (ex : Int) - f.bias
      (lowBits 9 e + 2 ^ 13 + neg * 2 ^ 15, msb (f.fb + 1) (if ex = 0 then fr else 2 ^ f.fb + fr))
  | none =>
    if ty = .mk8 then
      let p := x % 128
      if x % 256 = 0 then (0, off 5)
      else if p = 0 then (3 * 2 ^ 13, off 5)
      else
        let g := mk8Mag p
        let top := Nat.log2 g
        (lowBits 9 ((top : Int) - 11) + 2 ^ 13 + x / 128 % 2 * 2 ^ 15, msb 5 (g * 16 / 2 ^ top))
    else if Ty.isCplx ty then
      let h := ty.width / 2
      (0, msb h (x % 2 ^ h) ++ msb h (x / 2 ^ h))
    else (0, msb ty.width x)

/-- Slab `s` of the packed matrix; `elt k n` is the element B[k][n] (R326, R342). -/
def packSlab (ty : Ty) (s : Nat) (elt : Nat → Nat → Nat) : List Byte :=
  let e := (List.range 64).map fun n => (List.range 8).map fun t => packElt ty (elt (8 * s + t) n)
  let at' (n t : Nat) : Nat × List Bool := (e.getD n []).getD t (0, [])
  let side := if Ty.isFloat8or16 ty then
      (List.range 64).flatMap fun n => (List.range 8).flatMap fun t => natBytes 2 (at' n t).1
    else []
  side ++ (List.range ((Ty.slabBytes ty - Ty.sideBytes ty) / 64)).flatMap fun j =>
    (List.range 64).map fun n => BitVec.ofNat 8 (packBits ((List.range 8).map fun t => (at' n t).2.getD j false))

/-- Element (row, column) of a matrix in a buffer of row stride `str` (R178, R340). -/
def bufElt (m : Mem) (base str w row col : Nat) : Nat :=
  memNat m (base + row * str + col * w / 8) (Nat.max 1 (w / 8)) / 2 ^ (col * w % 8) % 2 ^ w

/-- Transpose H rows of W elements of `e` bytes (R343). -/
def transpose (bytes : List Byte) (e rows cols : Nat) : List Byte :=
  (List.range cols).flatMap fun j => (List.range rows).flatMap fun i => sliceBytes bytes ((i * cols + j) * e) e

/-! ### Descriptors, tiles and renaming (R176, R315 to R318) -/

/-- A descriptor whose bits above `width` are zero (R315). -/
def Window.desc (w : Window) (b : SI) (width : Nat) : Ex Nat :=
  let v := (w.si b).toNat % 2 ^ 18
  if v / 2 ^ width = 0 then .ok v else .error (FaultInfo.plain cILLEGAL 0)

/-- A logical tile below L, else BUFFER (R318). -/
def tileCheck (c : CtxCore) (t : Nat) : Ex Unit := if t < c.tileL then .ok () else .error (FaultInfo.plain cBUFFER 0)

def CtxCore.phys (c : CtxCore) (t : Nat) : Nat := c.tileMap.getD t 0

def CtxCore.mode (c : CtxCore) (t : Nat) : CellMode := c.lmode.getD t .f2

def CtxCore.setMode (c : CtxCore) (t : Nat) (m : CellMode) : CtxCore := { c with lmode := c.lmode.set t m }

/-- The physical tiles of a context's CMASK, lowest first (R157). -/
def Core.tilesOf (k : Core) (x : Ctx) : List Nat :=
  match k.bal x with
  | some b => (List.range 8).filter fun i => b.cmask.getLsbD i
  | none => []

/-- An MDRAIN that reads a physical tile is in the trestle (R176). -/
def Core.drains (k : Core) (p : Nat) : Bool :=
  k.mjobs.any fun j => decide (j.tile = p) && (match j.op with
    | .drain _ _ _ _ _ _ _ _ _ _ => true
    | _ => false)

/-- The lowest spare of a context: in CMASK, not mapped, named by no job of the trestle (R176 rules 1, 2, 4). -/
def Core.spare (k : Core) (x : Ctx) : Option Nat :=
  let c := k.cx x
  (k.tilesOf x).find? fun p => !((c.tileMap.take c.tileL).contains p)
    && !(k.trestle.any fun t => (t.reads ++ t.writes).contains (tileGran p))

/-- The physical tile a writer of logical tile `t` takes, and the old one where it is renamed (R176 rules 2 and 5). -/
def Core.rename (k : Core) (x : Ctx) (t : Nat) : Nat × Option Nat :=
  let p := (k.cx x).phys t
  if k.drains p then
    match k.spare x with
    | some q => (q, some p)
    | none => (p, none)
  else (p, none)

/-- A buffer operand in one of some buffers, of `n` bytes and aligned to `al`, within the context's allocation
(R313, R329, R335, R337). -/
def matBuf (s : State) (w : Window) (a : BuS) (bufs : List Nat) (n al : Nat) : Ex (Nat × Nat) :=
  match w.buS a with
  | none => .error (FaultInfo.plain cBUFFER 0)
  | some (b, o) =>
    if bufs.contains b && decide (o % al = 0) && s.me.bufOk w.fr.ctx b o n then .ok (b, o)
    else .error ⟨cBUFFER, 0, 0, o⟩

/-! ### Issue (R173, R318, R324, R325) -/

/-- A matrix job with its footprint, ready to enter the trestle; `ctx` is the context's tile record after it. -/
structure Plan where
  op : MOp
  tile : Nat
  old : Option Nat
  reads : List Gran
  writes : List Gran
  cx : CtxCore → CtxCore

/-- The word of an instruction, as a job keeps it for its save (R464). -/
def wordOf (i : Instr) : BitVec 96 := BitVec.ofNat 96 ((encode i).getD 0)

/-- Slabs of a pass, rows of MSCALE or MDRAIN: the commits before the job's completion. -/
def MOp.steps : MOp → Nat
  | .pass _ _ _ _ k _ _ _ _ => k / 8
  | .passr _ _ k _ _ _ _ => k / 8
  | .scale _ _ _ _ _ _ => 64
  | .drain _ _ _ _ _ _ rows _ _ _ => rows
  | _ => 0

/-- Bytes of a row of operand A (R328). -/
def rowBytes (ty : Ty) (k : Nat) : Nat := k * ty.width / 8

/-- The bytes of operand A of MPASSR in line `n`: the first, as an offset of its region, and how many (R331). -/
def MOp.lineOf (o : MOp) (n : Nat) : Nat × Nat :=
  match o with
  | .passr ty _ k _ m _ key =>
    let lo := Nat.max (128 * n) key.off
    (lo, Nat.min (128 * n + 128) (key.off + m * rowBytes ty k) - lo)
  | _ => (0, 0)

/-- Byte `a` of operand A, an offset of its region, once its line has arrived. -/
def MJob.aByte (j : MJob) (a : Nat) : Byte :=
  ((tabGet [] (a / 128) j.adata)[a - (j.op.lineOf (a / 128)).1]?).getD 0

/-- The lines that hold the bytes of slab `s` of operand A: eight elements of each row, row by row (R328, R331). -/
def MOp.slabLines (o : MOp) (s : Nat) : List Nat :=
  match o with
  | .passr ty _ k _ m _ key => (List.range m).flatMap fun r =>
    let a := key.off + r * rowBytes ty k + s * ty.width
    [a / 128, (a + ty.width - 1) / 128]
  | _ => []

def MJob.hasLine (j : MJob) (n : Nat) : Bool := j.adata.any fun p => decide (p.1 = n)

/-- The pass waits for the slab at its cursor (R331, R332). -/
def MJob.waits (j : MJob) : Bool :=
  match j.op with
  | .passr _ _ _ _ _ _ _ => decide (j.cur < j.op.steps) && !(j.op.slabLines j.cur).all j.hasLine
  | _ => false

/-- HELD follows the wait of a pass at a slab boundary (R319, R331, R332). -/
def MJob.settle (j : MJob) : MJob := { j with held := j.waits }

/-- A job enters the trestle and the engine's list; SEQM counts it, and it captures NXT, BYT and HNDE (R324, R325). -/
def State.enterMatrix (s : State) (w : Window) (i : Instr) (p : Plan) : State :=
  let k := if w.nxt = 0 ∧ w.byt.toNat % 2 = 0 then s.me else s.me.closeTicket w.fr
  let j : MJob :=
    { tid := s.nextId
      word := wordOf i
      ctx := w.fr.ctx
      fr := w.fr
      stamp := k.stamp
      op := p.op
      tile := p.tile
      old := p.old
      hnde := w.hnde
      nxt := w.nxt
      byt := w.byt
      act := false
      held := false
      cur := 0
      cancel := false
      adata := []
      rows := []
      counted := 0 }
  let k := (k.enterTr s.nextId p.reads p.writes none w.fr).modCx w.fr.ctx fun x =>
    { p.cx x with seqmIssued := x.seqmIssued + 1 }
  { s.setCore s.cur { k with mjobs := k.mjobs ++ [j.settle], stamp := k.stamp + 1 } with nextId := s.nextId + 1 }

/-- Every instruction that issues a matrix job: its own checks, those of NXT and BYT, and the trestle's room
(R175, R324, R350). -/
def matIssue (h : Hdr) (i : Instr) (s : State) (plan : State → Window → Ex Plan) : Out :=
  issue h false [] s fun s w =>
    afterOwn s w <| Res.check (plan s w) fun p =>
      Res.check (captureCheck s w true) fun _ =>
        if s.me.trestleRoom 1 then .ok ((s.enterMatrix w i p).modTop Window.advance) else .wait .stall false

/-- The tile record after a renaming (R176, R318). -/
def CtxCore.remap (c : CtxCore) (t : Nat) (p : Nat) : CtxCore := { c with tileMap := c.tileMap.set t p }

/-- The mode of MZERO's suffix (R314). -/
def zeroMode (k : Core) (f : Frame) (cm : Option CellMode) : CellMode := cm.getD (k.level f.lvl).dmode

def execMzero (h : Hdr) (cm : Option CellMode) (d : SI) (s : State) : Out :=
  matIssue h (.mzero h cm d) s fun s w => do
    let t ← w.desc d 3
    tileCheck (s.me.cx w.fr.ctx) t
    let r := s.me.rename w.fr.ctx t
    return ⟨.zero, r.1, r.2, [], [tileGran r.1], fun c => (c.remap t r.1).setMode t (zeroMode s.me w.fr cm)⟩

/-- A pass descriptor: tile, K, planes, M (R315). -/
def passDesc (w : Window) (d : SI) (bty : Ty) : Ex (Nat × Nat × Nat × Nat) := do
  let v ← w.desc d 18
  let pl := bitsOf v 15 12
  let msz := bitsOf v 17 16
  if msz = 3 ∨ Ty.planes bty < pl then .error (FaultInfo.plain cILLEGAL 0)
  else .ok (bitsOf v 2 0, (bitsOf v 11 3 + 1) * 8, if pl = 0 then Ty.planes bty else pl, 64 / 2 ^ msz)

/-- The mode a pass requires (R328). -/
def passMode (ty : Ty) : CellMode := if Ty.isCplx ty then .ci32 else if Ty.isFloat8or16 ty then .f2 else .i64

/-- MPASS and MPASSC (R329). -/
def passPlan (cj : Bool) (o : MP) (s : State) (w : Window) : Ex Plan := do
  let d ← passDesc w o.d o.bty
  let t := d.1
  let c := s.me.cx w.fr.ctx
  tileCheck c t
  if c.mode t ≠ passMode o.ty then .error (FaultInfo.plain cBUFFER 0)
  let k := d.2.1
  let m := d.2.2.2
  let a ← matBuf s w o.a [1] (m * rowBytes o.ty k) 1
  let b ← matBuf s w o.b [0] (k / 8 * Ty.slabBytes o.bty) 64
  let r := s.me.rename w.fr.ctx t
  return {
    op := .pass o.ty o.bty (Ty.isCplx o.ty) cj k d.2.2.1 m a.2 b.2
    tile := r.1
    old := r.2
    reads := granOf 1 a.2 (m * rowBytes o.ty k) ++ granOf 0 b.2 (k / 8 * Ty.slabBytes o.bty) ++ [tileGran (r.2.getD r.1)]
    writes := [tileGran r.1]
    cx := fun c => c.remap t r.1 }

def execMpass (h : Hdr) (o : MP) (s : State) : Out := matIssue h (.mpass h o) s (passPlan false o)

def execMpassc (h : Hdr) (cj : Bool) (o : MP) (s : State) : Out := matIssue h (.mpassc h cj o) s (passPlan cj o)

/-- Step 5 of R329: the key of MPASSR, over `n` bytes at its ADDR. -/
def operandKey (s : State) (w : Window) (k : Key) (n : Nat) : Ex Unit :=
  let f : FaultInfo := ⟨cADDR, 5, k.region.toNat, k.off⟩
  match k.check pMOPER k.off n 5 w.sys with
  | .error e => .error e
  | .ok _ =>
    if !s.reachable (accDev s w.fr.ctx k.region k.off (some k.peer)) then .error f
    else if k.region.toNat ≤ 3 then (if 2 ^ 48 < k.off + n then .error f else .ok ())
    else if k.region = 0xFE then windowEnd s w k.off n true
    else .ok ()

def execMpassr (h : Hdr) (ty bty : Ty) (d : SI) (a : KReg) (b : BuS) (s : State) : Out :=
  matIssue h (.mpassr h ty bty d a b) s fun s w => do
    let d ← passDesc w d bty
    let t := d.1
    let c := s.me.cx w.fr.ctx
    tileCheck c t
    if c.mode t ≠ passMode ty then .error (FaultInfo.plain cBUFFER 0)
    let k := d.2.1
    let m := d.2.2.2
    operandKey s w (w.rdK a) (m * rowBytes ty k)
    let b ← matBuf s w b [0] (k / 8 * Ty.slabBytes bty) 64
    let r := s.me.rename w.fr.ctx t
    return {
      op := .passr ty bty k d.2.2.1 m b.2 (w.rdK a)
      tile := r.1
      old := r.2
      reads := granOf 0 b.2 (k / 8 * Ty.slabBytes bty) ++ [tileGran (r.2.getD r.1)]
      writes := [tileGran r.1]
      cx := fun c => c.remap t r.1 }

/-- MSCALE (R335). -/
def execMscale (h : Hdr) (d : SI) (a b : BuS) (s : State) : Out :=
  matIssue h (.mscale h d a b) s fun s w => do
    let v ← w.desc d 6
    let tgt := bitsOf v 2 0
    let src := bitsOf v 5 3
    let c := s.me.cx w.fr.ctx
    tileCheck c tgt
    tileCheck c src
    if c.mode src = .ci32 ∨ c.mode tgt ≠ .f2 then .error (FaultInfo.plain cBUFFER 0)
    let a ← matBuf s w a [1, 3] 256 1
    let b ← matBuf s w b [1, 3] 256 1
    return {
      op := .scale (c.phys src) (decide (c.mode src = .i64)) a.1 a.2 b.1 b.2
      tile := c.phys tgt
      old := none
      reads := granOf a.1 a.2 256 ++ granOf b.1 b.2 256 ++ [tileGran (c.phys src), tileGran (c.phys tgt)]
      writes := [tileGran (c.phys tgt)]
      cx := id }

/-- The target suits the tile's mode, and EF suits the target (R336). -/
def drainSuits (mode : CellMode) (ty : Ty) (ef : Bool) : Bool :=
  let narrow : Bool := match ty with
    | .i4 | .i8 | .i16 | .i32 | .bf16 | .f16 | .f32 | .mk8 => true
    | _ => false
  match mode with
  | .f2 => narrow && (!ef || match ty with
    | .bf16 | .f16 | .mk8 | .i8 | .i4 => true
    | _ => false)
  | .i64 => (narrow || ty = .i64) && !ef
  | .ci32 => (Ty.isCplx ty || ty = .i64) && !ef

/-- MDRAIN (R337). -/
def execMdrain (h : Hdr) (ty : Ty) (ef hd : Bool) (hpri : Fin 8) (d : BuS) (a : SI) (s : State) : Out :=
  matIssue h (.mdrain h ty ef hd hpri d a) s fun s w => do
    let v ← w.desc a 15
    let t := bitsOf v 2 0
    let row0 := bitsOf v 8 3
    let rows := bitsOf v 14 9 + 1
    if 64 < row0 + rows then .error (FaultInfo.plain cILLEGAL 0)
    let c := s.me.cx w.fr.ctx
    tileCheck c t
    if !drainSuits (c.mode t) ty ef then .error (FaultInfo.plain cBUFFER 0)
    let n := rows * (64 * ty.width / 8)
    let d ← matBuf s w d [1, 3] n 16
    if hd ∧ w.fr.pri < hpri.val then .error (FaultInfo.plain cBUFFER 0)
    return {
      op := .drain ty (c.mode t) ef hd hpri.val row0 rows d.1 d.2 t
      tile := c.phys t
      old := none
      reads := [tileGran (c.phys t)]
      writes := granOf d.1 d.2 n
      cx := id }

/-- MPACK (R340, R341). -/
def execMpack (h : Hdr) (ty : Ty) (d a b : BuS) (s : State) : Out :=
  matIssue h (.mpack h ty d a b) s fun s w => do
    let r ← matBuf s w b [3] 64 64
    let rec' := memNat s.me.bufS r.2 64
    let k := bitsOf rec' 463 448
    let str := bitsOf rec' 479 464
    let row := 64 * ty.width / 8
    if k % 8 ≠ 0 ∨ k < 8 ∨ 4096 < k ∨ str < row ∨ bitsOf rec' 511 496 ≠ 0 then .error ⟨cBUFFER, 0, 0, r.2⟩
    let a ← match w.buS a with
      | some (b, o) => if b = 1 then .ok (b, o) else .error (⟨cBUFFER, 0, 0, o⟩ : FaultInfo)
      | none => .error (FaultInfo.plain cBUFFER 0)
    let base := a.2 + w.fr.rank.toNat * 16 * bitsOf rec' 495 480
    let n := (k - 1) * str + row
    if !s.me.bufOk w.fr.ctx 1 base n then .error ⟨cBUFFER, 0, 0, base⟩
    let d ← matBuf s w d [0] (k / 8 * Ty.slabBytes ty) 64
    return {
      op := .pack ty k str base d.2
      tile := 0
      old := none
      reads := granOf 1 base n ++ granOf 3 r.2 64
      writes := granOf 0 d.2 (k / 8 * Ty.slabBytes ty)
      cx := id }

/-- MTRN (R343). -/
def execMtrn (h : Hdr) (ty : Ty) (d a : BuS) (b : SI) (s : State) : Out :=
  matIssue h (.mtrn h ty d a b) s fun s w => do
    let v ← w.desc b 6
    let rows := (bitsOf v 2 0 + 1) * 8
    let cols := (bitsOf v 5 3 + 1) * 8
    let e := ty.width / 8
    let n := rows * cols * e
    let a ← matBuf s w a [1] n 1
    let d ← matBuf s w d [1] n 1
    if a.2 < d.2 + n ∧ d.2 < a.2 + n then .error ⟨cBUFFER, 0, 0, d.2⟩
    return {
      op := .trn e rows cols a.2 d.2
      tile := 0
      old := none
      reads := granOf 1 a.2 n
      writes := granOf 1 d.2 n
      cx := id }

/-- MCOPY (R334). -/
def execMcopy (h : Hdr) (d a : SI) (s : State) : Out :=
  matIssue h (.mcopy h d a) s fun s w => do
    let t ← w.desc d 3
    let u ← w.desc a 3
    let c := s.me.cx w.fr.ctx
    tileCheck c t
    tileCheck c u
    return {
      op := .copy (c.phys u)
      tile := c.phys t
      old := none
      reads := [tileGran (c.phys u)]
      writes := [tileGran (c.phys t)]
      cx := fun c => c.setMode t (c.mode u) }

/-! ### The schedule (R320 to R323, R508) -/

/-- The reservation class of a job (R323). -/
def MOp.cls : MOp → RClass
  | .pass ty bty _ _ _ _ _ _ _ => if [ty, bty].any fun t => t = .bf16 || t = .f16 then .pass16 else .pass8
  | .passr ty bty _ _ _ _ _ => if [ty, bty].any fun t => t = .bf16 || t = .f16 then .pass16 else .pass8
  | _ => .macroOp

/-- The job past its last decision point: its last slab or row has committed, or it runs without one (R321). -/
def MJob.bound (j : MJob) : Bool := j.act && decide (j.op.steps ≤ j.cur)

def Core.modMjob (k : Core) (tid : Nat) (f : MJob → MJob) : Core :=
  { k with mjobs := k.mjobs.map fun j => if j.tid = tid then f j else j }

/-- The oldest uncompleted matrix job of its level (R320). -/
def Core.oldest (k : Core) (j : MJob) : Bool := !(k.mjobs.any fun o => decide (o.fr.lvl = j.fr.lvl) && decide (o.tid < j.tid))

/-- A job is startable (R320); jobs of a frozen context stand still (R462). -/
def State.mStartable (s : State) (core : Nat) (j : MJob) : Bool :=
  let k := s.core core
  k.unblocked j.tid && k.oldest j && !j.held && !s.stopped core j.ctx

/-- The startable job of the highest level (R321). -/
def State.mBest (s : State) (core : Nat) : Option MJob :=
  ((s.core core).mjobs.filter (s.mStartable core)).foldl (fun b j => match b with
    | some o => if o.fr.lvl < j.fr.lvl then some j else some o
    | none => some j) none

/-- The matrix engine's reservation, if it holds one. -/
def State.mResv (s : State) (core : Nat) : Option Resv :=
  (s.cluster (clusterOf core)).resv.find? fun r => decide (r.pos = posOf core) && decide (r.unit = .matrix)

/-- The request of the engine is withdrawn (R508). -/
def State.mWithdraw (s : State) (core : Nat) : State :=
  s.modCluster (clusterOf core) fun c => { c with reqs := c.reqs.filter fun r => !(decide (r.pos = posOf core) && decide (r.unit = .matrix)) }

/-- A cancelled job leaves; it counts in DONE, its edges resolve, and it releases nothing (R324, R346). -/
def Core.dropMjob (k : Core) (j : MJob) : Core :=
  ({ k with mjobs := k.mjobs.filter fun o => o.tid != j.tid }.leaveTr j.tid).modCx j.ctx fun x =>
    { x with seqmDone := x.seqmDone + 1 }

/-- The engine stops its job at a decision point, or ends it there if it is being cancelled (R321, R346). -/
def State.mStop (s : State) (core : Nat) (j : MJob) : State :=
  (if j.cancel then (s.modCore core fun k => k.dropMjob j).satisfyAll core else s).mEnd core

/-- Staging rows in use (R338). -/
def Core.stagedRows (k : Core) : Nat :=
  k.waiting.countP fun w => match w.kind with
    | .row _ _ => true
    | _ => false

/-- A drain stands between two rows and waits for a staging row (R321, R338). -/
def MJob.stages (j : MJob) (k : Core) : Bool :=
  match j.op with
  | .drain _ _ _ true _ _ rows _ _ _ => decide (0 < j.cur) && decide (j.cur < rows) && decide (4 ≤ k.stagedRows)
  | _ => false

/-- An idle engine requests a reservation, or starts the job it would run under a reservation of that job's class
(R321, R323, R508). A running job keeps the engine up to its next decision point. -/
def execMatrixJobStart (core : Nat) (s : State) : Out :=
  let k := s.core core
  let best := s.mBest core
  match k.mrun.bind k.mjob with
  | some r =>
    if r.stages k && (r.cancel || best.map MJob.tid ≠ some r.tid) then .next (s.mStop core r) else .next s
  | none =>
    match best with
    | none => .next ((s.mWithdraw core).mEnd core)
    | some j =>
      match s.mResv core with
      | none => .next (s.request core .matrix j.op.cls j.fr.lvl j.ctx)
      | some v =>
        if v.ending || v.down.isSome then .next (s.request core .matrix j.op.cls j.fr.lvl j.ctx)
        else if v.cls = j.op.cls then
          .next ((s.mWithdraw core).modCore core fun k =>
            { k.modMjob j.tid fun j => { j with act := true } with mrun := some j.tid })
        else .next ((s.mEnd core).request core .matrix j.op.cls j.fr.lvl j.ctx)

/-! ### Slabs and rows commit (R196, R321, R330, R335, R336) -/

/-- After a slab or row: the cursor rises. Before the last, this is a decision point: a job being cancelled ends, one that another
startable job outranks stops, and so does a pass whose next slab has not arrived (R321, R331, R346). -/
def State.mAdvance (s : State) (core : Nat) (j : MJob) : State :=
  let s := s.modCore core fun k => k.modMjob j.tid fun j => { j with cur := j.cur + 1 }.settle
  match (s.core core).mjob j.tid with
  | some j =>
    if j.op.steps ≤ j.cur then s
    else if j.cancel || (s.mBest core).map MJob.tid ≠ some j.tid then s.mStop core j
    else s
  | none => s

/-- The running job. -/
def Core.running? (k : Core) : Option MJob := k.mrun.bind k.mjob

/-- Rows 0 to M - 1 of operand A in slab `j`, eight elements each (R328, R330). -/
def MJob.rowsA (j : MJob) (k : Core) : List (List MElt) :=
  let elts (ty : Ty) (bs : List Byte) : List MElt := (List.range 8).map (runElt ty bs)
  match j.op with
  | .pass ty _ _ _ kk _ m aoff _ =>
    (List.range m).map fun r => elts ty (memRead k.bufA (aoff + r * rowBytes ty kk + j.cur * ty.width) ty.width)
  | .passr ty _ kk _ m _ key =>
    (List.range m).map fun r =>
      elts ty ((List.range ty.width).map fun i => j.aByte (key.off + r * rowBytes ty kk + j.cur * ty.width + i))
  | _ => []

/-- Columns 0 to 63 of operand B in slab `j`. -/
def MJob.colsB (j : MJob) (k : Core) : List (List MElt) :=
  let cols (bty : Ty) (p boff : Nat) : List (List MElt) :=
    let slab := memRead k.bufW (boff + j.cur * Ty.slabBytes bty) (Ty.slabBytes bty)
    (List.range 64).map fun n => (List.range 8).map fun t => slabElt bty p slab t n
  match j.op with
  | .pass _ bty _ _ _ p _ _ boff => cols bty p boff
  | .passr _ bty _ p _ boff _ => cols bty p boff
  | _ => []

/-- The cells of the tile after a slab, and its counts (R194 to R196, R330). -/
def MJob.slab (j : MJob) (k : Core) : List Nat × Cnt :=
  let cp := match j.op with
    | .pass _ _ c cj _ _ _ _ _ => (c, cj)
    | _ => (false, false)
  let float := match j.op with
    | .pass ty _ _ _ _ _ _ _ _ => Ty.isFloat8or16 ty
    | .passr ty _ _ _ _ _ _ => Ty.isFloat8or16 ty
    | _ => false
  let from' := if j.cur = 0 then j.old.getD j.tile else j.tile
  let cells := k.tileVals from'
  let rows := j.rowsA k
  let cols := j.colsB k
  let top := (rows.zip (List.range 64)).flatMap fun r =>
    (cols.zip ((cells.drop (64 * r.2)).take 64)).map fun c => slabCell cp.1 cp.2 float (r.1.zip c.1) c.2
  (top.map Prod.fst ++ cells.drop (64 * rows.length), Cnt.sum (top.map Prod.snd))

/-- An event of a job that reaches the core's buffers. Where the allocation, as it now stands, leaves out a part of the job's
footprint, the context meets BUFFER (R158): the instruction that issued the job is long past, so the fault is the context's. -/
def State.jobGuard (s : State) (core : Nat) (j : MJob) (go : Out) : Out :=
  match (s.core core).trBad j.tid j.ctx with
  | some o => .next (s.fatalAt j.ctx cBUFFER 5 0 o core)
  | none => go

/-- A k-slab of the running pass commits: cells, counts and flags together (R196, R330). -/
def execMatrixSlabCommit (core : Nat) (s : State) : Out :=
  let k := s.core core
  match k.running? with
  | none => .next s
  | some j =>
    let isPass := match j.op with
      | .pass _ _ _ _ _ _ _ _ _ => true
      | .passr _ _ _ _ _ _ _ => true
      | _ => false
    if !isPass || j.op.steps ≤ j.cur || j.waits then .next s
    else s.jobGuard core j <|
      let r := j.slab k
      .next ((s.modCore core fun k => (k.setTile j.tile r.1).commitCnt j.fr r.2).mAdvance core j)

/-- The bytes and counts of row `cur` of a drain. -/
def MJob.drained (j : MJob) (k : Core) : List Byte × Cnt :=
  match j.op with
  | .drain ty mode ef _ _ row0 _ _ _ _ => drainRow ty mode ef (((k.tileVals j.tile).drop (64 * (row0 + j.cur))).take 64)
  | _ => ([], Cnt.none)

/-- A row of the running MSCALE, or of an MDRAIN without handlers, commits (R335 to R337). -/
def execMatrixRowCommit (core : Nat) (s : State) : Out :=
  let k := s.core core
  match k.running? with
  | none => .next s
  | some j =>
    if j.op.steps ≤ j.cur then .next s
    else s.jobGuard core j <| match j.op with
      | .scale src srcI64 abuf aoff bbuf boff =>
        let rs := memNat (k.buf abuf) (aoff + 4 * j.cur) 4
        let tgt := k.tileVals j.tile
        let sc := ((k.tileVals src).drop (64 * j.cur)).take 64
        let tc := (tgt.drop (64 * j.cur)).take 64
        let r := (sc.zip (tc.zip (List.range 64))).map fun p =>
          scaleCell srcI64 p.1 p.2.1 rs (memNat (k.buf bbuf) (boff + 4 * p.2.2) 4)
        .next ((s.modCore core fun k =>
          (k.setTile j.tile (tgt.take (64 * j.cur) ++ r.map Prod.fst ++ tgt.drop (64 * (j.cur + 1)))).commitCnt j.fr
            (Cnt.sum (r.map Prod.snd))).mAdvance core j)
      | .drain _ _ _ false _ _ _ buf off _ =>
        let r := j.drained k
        let n := r.1.length
        let s := s.modCore core fun k => (k.bufWrite buf (off + j.cur * n) (r.1.map some)).commitCnt j.fr r.2
        let s := s.countByt core j.byt n ⟨core, j.fr, j.stamp⟩
        .next (s.mAdvance core j)
      | _ => .next s

/-- A row of a drain with handlers is converted into a staging row, and its handler ticket is issued (R338). -/
def execRowStage (core tid : Nat) (s : State) : Out :=
  let k := s.core core
  match k.running? with
  | none => .next s
  | some j =>
    match j.op with
    | .drain _ _ _ true hpri row0 rows buf off t =>
      if j.tid ≠ tid ∨ rows ≤ j.cur ∨ 4 ≤ k.stagedRows then .next s
      else
        let r := j.drained k
        let n := r.1.length
        let w : Waiting :=
          { kind := .row tid (row0 + j.cur)
            prio := if hpri = 0 then j.fr.pri else hpri
            entry := j.hnde
            ctx := j.ctx
            args := [BitVec.ofNat 64 (buf * 2 ^ 20 + off + j.cur * n), BitVec.ofNat 64 (row0 + j.cur), BitVec.ofNat 64 n,
              BitVec.ofNat 64 t]
            payload := r.1
            vw := 1
            origin := j.fr.origin }
        let s := s.modCore core fun k => { k.commitCnt j.fr r.2 with waiting := k.waiting ++ [w] }
        .next (s.mAdvance core j)
    | _ => .next s

/-- Rows that have become part of the performed prefix are counted into the bytebar (R152, R338). -/
def State.countRows (s : State) (core tid n : Nat) : Nat → State
  | 0 => s
  | fuel + 1 =>
    match (s.core core).mjob tid with
    | none => s
    | some j =>
      if j.rows.contains j.counted then
        let s := s.modCore core fun k => k.modMjob tid fun j => { j with counted := j.counted + 1 }
        State.countRows (s.countByt core j.byt n ⟨core, j.fr, j.stamp⟩) core tid n fuel
      else s

/-- A row handler has stored row `m` of a drain (R338, R339). -/
def State.rowDone (s : State) (core tid m n : Nat) : State :=
  match (s.core core).mjob tid with
  | some j =>
    match j.op with
    | .drain _ _ _ _ _ row0 rows _ _ _ =>
      (s.modCore core fun k => k.modMjob tid fun j => { j with rows := j.rows ++ [m - row0] }).countRows core tid n (rows + 1)
    | _ => s
  | none => s

/-! ### Completion (R322, R324) -/

/-- What a job without slabs or rows does, and the bytes it then counts. -/
def MJob.whole (j : MJob) (k : Core) : Core × Nat :=
  match j.op with
  | .zero => (k.setTile j.tile [], 0)
  | .copy src => (k.setTile j.tile (k.tileVals src), 0)
  | .pack ty kk stride base dst =>
    let bs := (List.range (kk / 8)).flatMap fun i => packSlab ty i (bufElt k.bufA base stride ty.width)
    (k.bufWrite 0 dst (bs.map some), bs.length)
  | .trn e rows cols src dst =>
    let bs := transpose (memRead k.bufA src (rows * cols * e)) e rows cols
    (k.bufWrite 1 dst (bs.map some), bs.length)
  | _ => (k, 0)

/-- Every row of a drain with handlers has been performed. -/
def MJob.rowsDone (j : MJob) : Bool :=
  match j.op with
  | .drain _ _ _ true _ _ rows _ _ _ => decide (rows ≤ j.counted)
  | _ => true

/-- The running job completes (R324). -/
def execMatrixJobComplete (core : Nat) (s : State) : Out :=
  let k := s.core core
  match k.running? with
  | none => .next s
  | some j =>
    if j.cur < j.op.steps ∨ !j.rowsDone then .next s
    else (if j.op.steps = 0 then s.jobGuard core j else id) <|
      let r := j.whole k
      let s := s.setCore core (r.1.modCx j.ctx fun x => { x with seqmDone := x.seqmDone + 1 })
      let s := if r.2 = 0 then s else s.countByt core j.byt r.2 ⟨core, j.fr, j.stamp⟩
      let s := s.releaseAfter core j.fr j.stamp j.nxt
      let s := (s.modCore core fun k => { k with mjobs := k.mjobs.filter fun o => o.tid != j.tid }).leaveTr core j.tid
      .next (s.mEnd core)

/-! ### The operand fetcher of MPASSR (R331, R332) -/

/-- The next line of operand A that the fetcher reads: the first that has not arrived, up to 8 slabs ahead of the slab executing
(R331). -/
def MJob.nextLine (j : MJob) : Option Nat :=
  (((List.range 9).map fun i => j.cur + i).filter fun s => decide (s < j.op.steps)).flatMap (fun s => j.op.slabLines s)
    |>.find? fun n => !j.hasLine n

/-- The fetcher's access to its next line (R331). -/
def MJob.fetch (j : MJob) (core : Nat) : Option EngAcc :=
  match j.op, j.nextLine with
  | .passr _ _ _ _ _ _ key, some n =>
    some ⟨core, .operand core j.tid, j.fr, key.region, (j.op.lineOf n).1, (j.op.lineOf n).2, some key.peer⟩
  | _, _ => none

/-- Line `line` of operand A, the next of its job, arrives; up to 8 slabs ahead of the slab executing are fetched (R331). -/
def execMpassrFetchArrival (core tid line : Nat) (s : State) : Out :=
  let k := s.core core
  match k.mjob tid with
  | none => .next s
  | some j =>
    match j.fetch core with
    | none => .next s
    | some a =>
      if j.nextLine ≠ some line ∨ !k.unblocked tid ∨ !k.oldest j ∨ s.stopped core j.ctx ∨ s.blocked (.operand core tid) then .next s
      else match s.placeGet a with
        | .ok s bs => .next (s.modCore core fun k => k.modMjob tid fun j => { j with adata := j.adata ++ [(line, bs)] }.settle)
        | .wait s => .next s
        | .bad pa => .fault (.noSuchAddress pa)

/-! ### Counters, configuration and cancellation (R344 to R346) -/

/-- The matrix jobs MSTAT waits for: those of the ticket, but for drains with handlers (R345). -/
def Core.mstatReady (k : Core) (f : Frame) : Bool :=
  !(k.mjobs.any fun j => j.fr.same f && (match j.op with
    | .drain _ _ _ hd _ _ _ _ _ _ => !hd
    | _ => true))

def Core.mxcOf (k : Core) (x : Ctx) (n : Nat) : W64 := vget 0 (k.cx x).mxc n

def execMstat (h : Hdr) (d : SReg) (n : BitVec 18) (s : State) : Out :=
  issue h false [.s d] s fun s w =>
    if 3 < n.toNat then .fault (FaultInfo.plain cILLEGAL 0)
    else if s.me.mstatReady w.fr then retireS s w d (s.me.mxcOf w.fr.ctx n.toNat) 0
    else .ok (s.parkTop (.mstat d n.toNat))

def execMstatDone (core : Nat) (s : State) : Out :=
  match s.topOf core with
  | some w =>
    match w.park with
    | some (.mstat d n) =>
      if (s.core core).mstatReady w.fr then
        .next (s.modTopOf core fun w => (w.wrS d ((s.core core).mxcOf w.fr.ctx n)).wake)
      else .next s
    | _ => .next s
  | none => .next s

def execMclr (h : Hdr) (b : SI) (s : State) : Out :=
  issue h false [] s fun s w =>
    Res.check (w.desc b 4) fun mask =>
      .ok ((s.modMe fun k => k.modCx w.fr.ctx fun x =>
        { x with mxc := x.mxc.mapIdx fun i v => if mask / 2 ^ i % 2 = 1 then 0 else v }).modTop Window.advance)

def execMcfg (h : Hdr) (b : SI) (s : State) : Out :=
  issue h false [] s fun s w =>
    Res.check (w.desc b 6) fun v =>
      let l := bitsOf v 3 0
      let mode : CellMode := if bitsOf v 5 4 = 0 then .f2 else if bitsOf v 5 4 = 1 then .i64 else .ci32
      let x := w.fr.ctx
      if l = 0 ∨ 8 < l ∨ bitsOf v 5 4 = 3 then .fault (FaultInfo.plain cILLEGAL 0)
      else if (s.me.mjobs.any fun j => j.ctx = x) ∨ (s.me.tilesOf x).length < l then .fault (FaultInfo.plain cBUFFER 0)
      else .ok ((s.modMe fun k =>
        { k.modCx x fun c => { c with tileL := l, tileMap := (k.tilesOf x).take l, lmode := List.replicate l mode } with
          levels := vmod w.fr.lvl (fun v => { v with dmode := mode }) k.levels }).modTop Window.advance)

/-- The jobs MCANCEL cancels (R346). -/
def MJob.ofLevel (j : MJob) (f : Frame) : Bool := decide (j.ctx = f.ctx) && decide (j.fr.lvl = f.lvl)

/-- Jobs that are not running leave at once; the running one leaves after its slab or row, or completes (R346). -/
def Core.mcancel (k : Core) (f : Frame) : Core :=
  let gone := k.mjobs.filter fun j => j.ofLevel f && !j.bound && decide (k.mrun ≠ some j.tid)
  let k := gone.foldl (fun k j => k.dropMjob j) k
  { k with mjobs := k.mjobs.map fun j => if j.ofLevel f && !j.bound then { j with cancel := true } else j }

/-- The outstanding fetches of cancelled jobs, and their part in pending faults, are dropped (R346). -/
def State.dropOperands (s : State) (core : Nat) (tids : List Nat) : State :=
  let mine (w : Waiter) : Bool := match w with
    | .operand c t => decide (c = core) && tids.contains t
    | _ => false
  s.engForget core mine

def execMcancel (h : Hdr) (s : State) : Out :=
  issue h false [] s fun s w =>
    let before := (s.me.mjobs.filter fun j => j.ofLevel w.fr).map MJob.tid
    let s := (s.modMe fun k => k.mcancel w.fr).satisfyAll s.cur
    let left := (s.me.mjobs.filter fun j => j.ofLevel w.fr).map MJob.tid
    let s := s.dropOperands s.cur (before.filter fun t => !left.contains t)
    if left.isEmpty then .ok (s.modTop Window.advance) else .ok (s.parkTop .mcancel)

def execMcancelDone (core : Nat) (s : State) : Out :=
  match s.topOf core with
  | some w =>
    match w.park with
    | some .mcancel =>
      if (s.core core).mjobs.any fun j => j.ofLevel w.fr then .next s else .next (s.modTopOf core Window.wake)
    | _ => .next s
  | none => .next s

end Sys2Proof.Machine
end

