-- ==== Sys2Proof/Machine/Tickets.lean ====
section
/-! DEFINITION. Tickets.lean: ticket images and footprint records (R402, R426, R427), the image checks (R355, R403), the
decrements and ready queues of the Exchange (R405, R431, R433, R434), and the end of a task's instance (R431, R493). -/

namespace Sys2Proof.Machine

/-! ### The ticket image (R402) -/

def imgEntry (i : Nat) : W64 := BitVec.ofNat 64 i
def imgPrio (i : Nat) : Nat := bitsOf i 66 64
def imgSys (i : Nat) : Bool := decide (bitsOf i 67 67 = 1)
def imgVwin (i : Nat) : Nat := bitsOf i 69 68
def imgClass (i : Nat) : Nat := bitsOf i 72 70
def imgPin (i : Nat) : Bool := decide (bitsOf i 73 73 = 1)
def imgRadius (i : Nat) : Nat := bitsOf i 76 74
/-- The hint as a module core number (R3, R402). -/
def imgHint (i : Nat) : Nat := bitsOf i 78 77 * 192 + bitsOf i 82 79 * 16 + bitsOf i 86 83
def imgHintv (i : Nat) : Bool := decide (bitsOf i 87 87 = 1)
def imgAwn (i : Nat) : Nat := bitsOf i 95 88
def imgCtx (i : Nat) : Ctx := BitVec.ofNat 16 (bitsOf i 111 96)
def imgFan (i : Nat) : Nat := bitsOf i 114 112
def imgDeps (i : Nat) : Nat := bitsOf i 143 128
def imgFoot (i : Nat) : Nat := bitsOf i 255 192
def imgArg (i n : Nat) : W64 := BitVec.ofNat 64 (bitsOf i (256 + 64 * n + 63) (256 + 64 * n))

/-- FOOT names a record that can be read: 16-byte aligned, inside the region (R427). -/
def footReadable (f : Nat) : Bool := decide (f ≠ 0) && decide (f % 16 = 0) && decide (f + 128 ≤ 2 ^ 48)

/-- One entry of a footprint record: none where it is unused, an error where it fails its checks (R426, R427). -/
def footEntry (v : Nat) (wr : Bool) : Except Unit (Option Range) :=
  let ngr := bitsOf v 95 72
  let region := bitsOf v 71 64
  let off := bitsOf v 63 0
  if ngr = 0 then .ok none
  else if v / 2 ^ 96 ≠ 0 ∨ off % 4096 ≠ 0 ∨ ¬(region = 0 ∨ region = 1 ∨ region = 3) ∨ 2 ^ 48 < off + ngr * 4096 then .error ()
  else .ok (some ⟨BitVec.ofNat 8 region, off, ngr, wr⟩)

/-- The used ranges of a footprint record (R426, R427). -/
def footRanges (bs : List Byte) : Except Unit (List Range) :=
  (List.range 8).foldr (fun i acc => match footEntry (leNat (sliceBytes bs (16 * i) 16)) (decide (4 ≤ i)), acc with
    | .ok none, .ok l => .ok l
    | .ok (some r), .ok l => .ok (r :: l)
    | _, _ => .error ()) (.ok [])

/-- The home core, record number and record of an awning (R169, R410). -/
def State.awnHome (s : State) (x : Ctx) (id : Nat) : Option (Nat × Nat × Awn) :=
  s.cores.findSome? fun (p : Nat × Core) =>
    (findAt (fun (a : Awn) => a.v && decide (a.id = id) && decide (a.ctx = x)) p.2.awns.toList).map fun q => (p.1, q.1, q.2)

/-- The ceiling of an awning on the device that a launch targets (R355). -/
def State.awnCeil (s : State) (dev : Nat) (x : Ctx) (id : Nat) : Option Nat :=
  if dev = s.dev then (s.awnHome x id).map fun q => q.2.2.ceil else Config.peerCeil dev x id

/-- FABCFG.EN (R79). -/
def State.fabricOn (s : State) : Bool := decide (bitsOf s.fabcfg.toNat 14 14 = 1)

/-- Steps 2 to 5 of R355: the code of the first failure, or the footprint's ranges. `foot` holds the record's bytes where
FOOT could be read. -/
def State.imageCheck (s : State) (dev : Nat) (i : Nat) (sys : Bool) (x : Ctx) (foot : List Byte) : Except Nat (List Range) :=
  if imgVwin i = 3 ∨ 5 < imgFan i ∨ bitsOf i 127 115 ≠ 0 ∨ bitsOf i 191 144 ≠ 0 ∨ 11 < bitsOf i 82 79 then .error cBUFFER
  else if imgAwn i ≠ 0 ∧ imgFan i ≠ 0 then .error cBUFFER
  else if 4 ≤ imgFan i ∧ s.fabricOn = false then .error cBUFFER
  else if (imgSys i ∨ imgPrio i = 7) ∧ sys = false then .error cPRIV
  else if imgCtx i ≠ x ∧ sys = false then .error cPERM
  else if imgAwn i ≠ 0 ∧ (s.awnCeil dev (imgCtx i) (imgAwn i)).elim true (fun c => decide (c < imgPrio i)) = true then
    .error cBUFFER
  else if imgFoot i = 0 then .ok []
  else if !footReadable (imgFoot i) then .error cBUFFER
  else match footRanges foot with
    | .ok l => .ok l
    | .error _ => .error cBUFFER

/-! ### Ready queues (R424, R433, R434) -/

def Exchange.queue (e : Exchange) (q : Nat) : List Nat := vget [] e.queues q

def Exchange.inst (e : Exchange) (id : Nat) : Option Inst := e.insts.find? fun i => i.id = id

def Exchange.modInst (e : Exchange) (id : Nat) (f : Inst → Inst) : Exchange :=
  { e with insts := e.insts.map fun i => if i.id = id then f i else i }

/-- Instances of a queue whose contexts are not frozen (R433). -/
def State.liveQueue (s : State) (die q : Nat) : List Nat :=
  let e := s.exch die
  (e.queue q).filter fun id => match e.inst id with
    | some i => !s.frozen i.ctx
    | none => false

/-- A queue that held no instance it could dispatch holds one from this tick on: AGE counts from here (R434). -/
def Exchange.startAge (e : Exchange) (t q : Nat) : Exchange :=
  { e with
    age := vmod q (fun a => Nat.max a t) e.age
    hi := vmod q (fun _ => match e.lastQ with
      | some (l, u) => decide (q < l) && decide (u + 1 = t)
      | none => false) e.hi }

/-- A ready instance enters the tail of the ready queue of its effective priority; while the queue is full it waits with count zero
(R433). `at'` is the tick from which on the queue holds it. -/
def State.intoQueue (s : State) (die at' id : Nat) : State :=
  match (s.exch die).inst id with
  | none => s
  | some i =>
    let empty := (s.liveQueue die i.prio).isEmpty
    s.modExch die fun e =>
      if 1024 ≤ (e.queue i.prio).length then
        { e.modInst id fun i => { i with st := .parked, since := at' } with zeroQ := e.zeroQ ++ [id] }
      else
        let e := e.modInst id fun i => { i with st := .ready }
        let e := if empty && !s.frozen i.ctx then e.startAge at' i.prio else e
        { e with queues := vmod i.prio (fun q => q ++ [id]) e.queues }

/-- The count of an instance has reached zero: it waits for step 4 of a later tick (R424, R433). -/
def State.enqueue (s : State) (die id : Nat) : State :=
  s.modExch die fun e =>
    { e.modInst id fun i => { i with st := .parked, since := s.tick.toNat } with zeroQ := e.zeroQ ++ [id] }

/-! ### The steps of a tick (R423, R424) -/

/-- Step `no` of R424 may be taken in tick `t`, at most `limit` times: no later step of the tick has been taken. -/
def Exchange.mayStep (e : Exchange) (t no limit : Nat) : Bool :=
  match e.stepAt with
  | some (u, n, c) => decide (u ≠ t) || decide (n < no) || (decide (n = no) && decide (c < limit))
  | none => true

/-- Step `no` of R424 is taken in tick `t`. -/
def Exchange.stepped (e : Exchange) (t no : Nat) : Exchange :=
  { e with stepAt := some (match e.stepAt with
      | some (u, n, c) => if u = t ∧ n = no then (t, no, c + 1) else (t, no, 1)
      | none => (t, no, 1)) }

/-- An Exchange takes step `no` of R424. -/
def State.takeStep (s : State) (die no : Nat) : State := s.modExch die fun e => e.stepped s.tick.toNat no

/-- Step 4 of R424: the instances whose counts reached zero in an earlier tick enter their queues, in that order (R433). One that finds
its queue full stays before those whose counts have reached zero in this tick. -/
def State.moveReady (s : State) (die : Nat) : State :=
  let t := s.tick.toNat
  let since (id : Nat) : Nat := (((s.exch die).inst id).map Inst.since).getD 0
  let z := (s.exch die).zeroQ
  let s := (z.filter fun id => decide (since id < t)).foldl (fun s id => s.intoQueue die (since id + 1) id)
    (s.modExch die fun e => { e with zeroQ := [] })
  s.modExch die fun e => { e with zeroQ := e.zeroQ ++ z.filter fun id => decide (t ≤ since id) }

/-- Step 4 of R424 comes before the bell and the dispatch of a tick. -/
def State.step4 (s : State) (die : Nat) : State :=
  if (s.exch die).mayStep s.tick.toNat 4 1 then (s.takeStep die 4).moveReady die else s

/-- Up to four decrements are applied in a tick, before its creation (R423, R424). -/
def State.mayDecr (s : State) (die : Nat) : Bool := (s.exch die).mayStep s.tick.toNat 2 4

/-- One creation is accepted in a tick (R423, R424). -/
def State.mayCreate (s : State) (die : Nat) : Bool := (s.exch die).mayStep s.tick.toNat 3 1

/-! ### Predecessor counts (R404, R405, R431) -/

def Exchange.launchRec (e : Exchange) (id : Nat) : Option LaunchRec := e.launches.find? fun l => l.id = id

def Exchange.modLaunch (e : Exchange) (id : Nat) (f : LaunchRec → LaunchRec) : Exchange :=
  { e with launches := e.launches.map fun l => if l.id = id then f l else l }

/-- Every instance of a launch becomes ready (R356, R405). -/
def State.readyAll (s : State) (die launch : Nat) : State :=
  (((s.exch die).insts.filter fun i => i.launch = launch).map Inst.id).foldl (fun s id => s.enqueue die id) s

/-- A decrement of a parked launch; at zero its instances become ready (R405). -/
def State.decrement (s : State) (die launch : Nat) : State :=
  match (s.exch die).launchRec launch with
  | none => s
  | some l =>
    if l.count = 0 then s
    else
      let s := s.modExch die fun e => e.modLaunch launch fun l => { l with count := l.count - 1 }
      if l.count = 1 then s.readyAll die launch else s

/-- The oldest parked launch of a context and ticket address (R405). -/
def Exchange.parkedAt (e : Exchange) (x : Ctx) (tkt : Nat) : Option LaunchRec :=
  e.launches.find? fun l => decide (l.ctx = x) && decide (l.tkt = tkt) && decide (0 < l.count)

/-- The last instance of a launch is gone: its ranges leave, and each launch holding an edge from it is to receive one
DEP-DECR (R431). -/
def Exchange.freeLaunch (e : Exchange) (launch : Nat) : Exchange :=
  let holds (l : LaunchRec) : Bool := l.edges.contains launch
  { e with
    decrs := e.decrs ++ (e.launches.filter holds).map fun l => (l.ctx, l.tkt)
    launches := (e.launches.filter fun l => l.id != launch).map fun l =>
      { l with edges := l.edges.filter fun i => i != launch } }

/-- An instance of a launch has ended: the last one frees the launch, and completes the host ticket that it is (R431, R493). -/
def State.launchEnd (s : State) (die launch : Nat) : State :=
  match (s.exch die).launchRec launch with
  | none => s
  | some l =>
    if 1 < l.left then s.modExch die fun e => e.modLaunch l.id fun l => { l with left := l.left - 1 }
    else
      let s := s.modExch die fun e => e.freeLaunch l.id
      match l.host with
      | some (q, h) => s.postDone q (Event.mk0 1 h 0)
      | none => s

/-- The news of an END for the device of the instance's launch (R431). DESIGN CHOICE (log 16): the spec names no message for it. -/
def Inst.endNews (i : Inst) (dev launch : Nat) : Launch :=
  { src := dev, ctx := i.ctx, tkt := i.tkt, image := i.image, foot := none, rank := i.rank, fansz := i.fansz, core := 0, ready := false
    prio := i.prio, shape := none, launch := launch, ended := true }

/-- The instance of a frame whose END takes effect is gone (R431). -/
def State.instEnd (s : State) (f : Frame) : State :=
  match (s.exch f.xdie).inst f.inst with
  | none => s
  | some i =>
    let s := s.modExch f.xdie fun e => { e with insts := e.insts.filter fun j => j.id != i.id }
    match i.home with
    | some (d, n) => { s with out := s.out ++ [.launch d (i.endNews s.dev n)] }
    | none => s.launchEnd f.xdie i.launch

end Sys2Proof.Machine
end

