-- ==== Sys2Proof/Machine/Tasks.lean ====
section
/-! DEFINITION. Tasks.lean: the task words: chits, ceilings, barriers, timelines, the crier, successors, launches and the
end of a task (R248, R338, R339, R350 to R370, R385). -/

namespace Sys2Proof.Machine

/-! ### Object addresses (R354, R355, R362 to R364) -/

/-- An address whose region is confined: the region or the key's checks first, then R25, then the alignment (R354, R355). The object
of an atomic word in region 0xFF raises PRIV outside a SYS ticket, by R23 (R257, R362 to R364). -/
def objAddr (s : State) (w : Window) (a : SK) (b : Int) (n need acc al : Nat) (regs : List Nat) : Ex Acc :=
  let (region, base, key) := w.base a
  let o : Int := base + b
  let d := (o % (2 ^ 64 : Nat)).toNat
  let f (code : Nat) : FaultInfo := ⟨code, acc, region.toNat, d⟩
  let peer := key.map Key.peer
  let here := regs.contains region.toNat
  let chk : Ex Unit := match key with
    | some k =>
      match k.check need o n acc w.sys with
      | .error e => .error e
      | .ok _ =>
        if !here then .error (f cADDR)
        else if s.reachable (accDev s w.fr.ctx region d peer) then .ok () else .error (f cADDR)
    | none =>
      if o < 0 ∨ (2 ^ 64 : Nat) ≤ o then .error (f cADDR)
      else if need = pATOM && region = 0xFF && !w.sys then .error (FaultInfo.plain cPRIV acc)
      else if !here then .error (f cADDR)
      else .ok ()
  match chk with
  | .error e => .error e
  | .ok _ =>
    if region.toNat ≤ 3 ∧ 2 ^ 48 < d + n then .error (f cADDR)
    else if d % al ≠ 0 then .error (f cALIGN)
    else .ok ⟨region, d, n, accDev s w.fr.ctx region d peer, key.isSome, peer⟩

/-- A chit for an object at a slice or Exchange (R352). -/
def State.chitTo (s : State) (kind : ChitKind) (lane : Nat) (x : Ctx) (a : Acc) (arg : W64) : Chit :=
  let home := s.home x a.region a.off
  { kind := kind
    lane := Fin.ofNat 8 lane
    ctx := x
    tdev := a.dev
    tdie := if kind = .release then s.ticketDie x a.off else if kind = .byteArrive then winCore a.off / 192 else home / 48
    tcore := if kind = .release then 0 else if kind = .byteArrive then winCore a.off % 192 else home % 48
    region := a.region
    off := a.off
    arg := arg
    colour := false }

/-- Defer a send; one that waits closes the ticket's open entries (R105, R264). -/
def State.sendLater (s : State) (f : Frame) (wait : Bool) (what : Send) : State :=
  (if wait then s.modMe fun k => k.closeTicket f else s).deferSend f wait what

/-- An object in region 0x01 makes the owner-cache entry it uses the most recent (R52). -/
def State.touchAcc (s : State) (x : Ctx) (a : Acc) : State := if a.region = 1 then s.touchOwner x a.off else s

/-! ### CHIT (R354) -/

/-- The regions that a chit's address may name: those of its KIND; through a key any, for there R46 and R82 take the place of the
region check (R354). -/
def chitRegions (a : SK) (own : List Nat) : List Nat :=
  match a with
  | .s _ => own
  | .k _ => [0, 1, 2, 3, 0xFE, 0xFF]

/-- The object of a chit: region or key, alignment and bytes bounded, and for a bytebar R27 and its buffer (R354). -/
def chitAddr (s : State) (w : Window) (kind : ChitSel) (a : SK) (b : SI) : Ex Acc :=
  match kind with
  | .rel => objAddr s w a (w.siInt b) 64 pSPAWN 6 64 (chitRegions a [0])
  | .bar => objAddr s w a (w.siInt b) 32 pSPAWN 6 32 (chitRegions a [0, 1])
  | .byte =>
    match objAddr s w a (w.siInt b) 16 pSPAWN 6 16 (chitRegions a [0xFE]) with
    | .error e => .error e
    | .ok x =>
      match windowCheck s w x.off 16 6 x.viaKey with
      | .error e => .error e
      | .ok _ => if winBuf x.off = 3 then .ok x else .error ⟨cBUFFER, 6, 0xFE, winOff x.off⟩

def chitKindOf : ChitSel → ChitKind
  | .rel => .release
  | .bar => .barArrive
  | .byte => .byteArrive

/-- DESIGN CHOICE (log 46): a `.rel` or `.bar` through a key of region 0xFE or 0xFF, where no ticket and no barrier record stands, passes
its checks and sends nothing. -/
def execChit (h : Hdr) (kind : ChitSel) (cp : Fin 8) (cpv : Bool) (d : SI) (a : SK) (b : SI) (s : State) : Out :=
  issue h false [] s fun s w =>
    Res.check (chitAddr s w kind a b) fun x =>
      if cpv && cp.val = 7 && !w.sys then .fault (FaultInfo.plain cPRIV 6)
      else if cpv && decide (w.fr.pri < cp.val) then .fault (FaultInfo.plain cPERM 6)
      else
        let c := s.chitTo (chitKindOf kind) (if cpv then cp.val else w.fr.pri) w.fr.ctx x (w.si d)
        if kind ≠ .byte ∧ 3 < x.region.toNat then .ok (s.modTop Window.advance)
        else .ok (((s.touchAcc w.fr.ctx x).sendLater w.fr true (.chit c)).modTop Window.advance)

/-! ### CLAIM and UNCLAIM (R359, R360) -/

/-- The number of the awning record of a context and id on a core (R169). -/
def Core.awnIdx (k : Core) (x : Ctx) (id : Nat) : Option Nat :=
  (findAt (fun (a : Awn) => a.v && decide (a.id = id) && decide (a.ctx = x)) k.awns.toList).map Prod.fst

/-- The claim itself: the entry is pushed, THR rises to the ceiling, and the record is held (R359). -/
def Core.claimAwn (k : Core) (i wid : Nat) : Core :=
  { k with
    claims := ⟨i, k.thr, wid⟩ :: k.claims
    thr := Nat.max k.thr (k.awn i).ceil
    awns := vmod i (fun a => { a with held := true }) k.awns }

def execClaim (h : Hdr) (b : SI) (s : State) : Out :=
  issue h false [] s fun s w =>
    let id := (w.si b).toNat
    let bad : Res := .fault ⟨cCLAIM, 0, 0, id⟩
    if id = 0 ∨ 255 < id then .fault (FaultInfo.plain cILLEGAL 0)
    else match s.me.awnIdx w.fr.ctx id with
      | none => bad
      | some i =>
        if (s.me.awn i).held ∨ 32 ≤ s.me.claims.length then bad
        else if (s.me.awn i).ceil = 7 ∧ w.sys = false then .fault (FaultInfo.plain cPRIV 0)
        else .ok ((s.modMe fun k => k.claimAwn i w.wid).modTop Window.advance)

def execUnclaim (h : Hdr) (b : SI) (s : State) : Out :=
  issue h false [] s fun s w =>
    let id := (w.si b).toNat
    let bad : Res := .fault ⟨cCLAIM, 0, 0, id⟩
    if id = 0 ∨ 255 < id then .fault (FaultInfo.plain cILLEGAL 0)
    else match s.me.claims with
      | [] => bad
      | c :: r =>
        if s.me.awnIdx w.fr.ctx id = some c.rcd ∧ c.wid = w.wid then
          .ok ((s.modMe fun k =>
            { k with
              claims := r
              thr := c.thr
              awns := vmod c.rcd (fun a => { a with held := false }) k.awns }).modTop Window.advance)
        else bad

/-! ### Barriers and timelines (R361 to R365) -/

/-- Send a message to the home slice of a barrier record or timeline. -/
def objSend (s : State) (w : Window) (kind : ChitKind) (wait : Bool) (x : Acc) (arg : W64) : Res :=
  .ok (((s.touchAcc w.fr.ctx x).sendLater w.fr wait (.chit (s.chitTo kind w.fr.pri w.fr.ctx x arg))).modTop Window.advance)

def execBari (h : Hdr) (a : SK) (b : SI) (s : State) : Out :=
  memIssue h [] s (fun s w =>
      let n := (w.si b).toNat
      if n = 0 ∨ 1024 < n then .error (FaultInfo.plain cILLEGAL 0)
      else objAddr s w a 0 (32 + 8 * n) pATOM 3 32 [0, 1]) fun s w x => objSend s w .barInit false x (w.si b)

def execBara (h : Hdr) (sc : Scope) (a : SK) (b : SI) (s : State) : Out :=
  memIssue h [] s (fun s w => objAddr s w a (w.siInt b) 32 pATOM 3 32 [0, 1]) fun s w x =>
    Res.check (captureCheck s w false) fun _ => objSend s w .barArrive (Scope.wide sc) x w.nxt

def tlAddr (a : SK) (b : SI) (s : State) (w : Window) : Ex Acc := objAddr s w a (w.siInt b) 8 pATOM 3 8 [0, 1]

def execTlset (h : Hdr) (sc : Scope) (d : SI) (a : SK) (b : SI) (s : State) : Out :=
  memIssue h [] s (tlAddr a b) fun s w x => objSend s w .tlSet (Scope.wide sc) x (w.si d)

def execTladd (h : Hdr) (sc : Scope) (d : SI) (a : SK) (b : SI) (s : State) : Out :=
  memIssue h [] s (tlAddr a b) fun s w x => objSend s w .tlAdd (Scope.wide sc) x (w.si d)

/-- The watch leaves once the ticket's earlier entries are done, which its firing then covers (R397). -/
def execTlwatch (h : Hdr) (d : SI) (a : SK) (b : SI) (s : State) : Out :=
  memIssue h [] s (tlAddr a b) fun s w x =>
    Res.check (captureCheck s w false) fun _ =>
      .ok (((s.touchAcc w.fr.ctx x).sendLater w.fr true (.watch x.dev x.region x.off (w.si d) w.nxt)).modTop Window.advance)

/-! ### The crier (R367, R368, R370) -/

/-- A channel number (R348). -/
def channel (w : Window) (b : SI) : Ex Nat :=
  let n := (w.si b).toNat
  if n < 16 then .ok n else .error (FaultInfo.plain cILLEGAL 0)

/-- The extents, start and order of a channel descriptor (R367). -/
def chX (d i : Nat) : Nat := bitsOf d (20 * i + 19) (20 * i)
def chS (d i : Nat) : Nat := bitsOf d (64 + 20 * i + 19) (64 + 20 * i)
def chOrd (d : Nat) : Nat := bitsOf d 61 60

/-- The checks of R368 on a descriptor: its reserved fields and its start. -/
def descOk (d : Nat) : Bool :=
  decide (bitsOf d 63 62 = 0) && decide (d / 2 ^ 124 = 0) && ((List.range 3).all fun i => decide (chS d i ≤ chX d i))

def execCrinit (h : Hdr) (dev : Bool) (a : BuS) (b : SI) (s : State) : Out :=
  issue h false [] s fun s w =>
    Res.check (channel w b) fun ch =>
      match w.buS a with
      | none => .fault (FaultInfo.plain cBUFFER 0)
      | some (buf, o) =>
        let d := memNat s.me.bufS o 32
        afterOwn s w <| if buf ≠ 3 ∨ o % 32 ≠ 0 ∨ !s.me.bufOk w.fr.ctx 3 o 32 ∨ !descOk d then .fault ⟨cBUFFER, 0, 0, o⟩
        else .ok (s.setTop { w with park := some (.crinit dev ch (BitVec.ofNat 256 d) 0) })

/-- An ASK goes to its crier at once; the entries its reply's release covers are those issued before it (R397). -/
def execAsk (h : Hdr) (dev : Bool) (d : BuS) (b : SI) (s : State) : Out :=
  issue h false [] s fun s w =>
    Res.check (channel w b) fun ch =>
      Res.check (match formBufA s w d 0 8 8 2 with
          | .ok p => if p.1 = 3 then .ok p.2 else .error ⟨cBUFFER, 2, 0, p.2⟩
          | .error e => .error e) fun o =>
        Res.check (captureCheck s w false) fun _ =>
          let die := if dev then 0 else dieOf s.cur
          let m : AskMsg := ⟨die, ch, s.cur, w.fr.ctx, o, w.nxt, s.me.stamp, w.fr⟩
          let s := if w.nxt = 0 then s else s.modMe fun k => k.closeTicket w.fr
          .ok (({ (s.modMe fun k => { k with stamp := k.stamp + 1 }).countSent s.cur w.fr.ctx with
            asks := s.asks ++ [m] }).modTop Window.advance)

/-! ### SUCC (R351) -/

def execSucc (h : Hdr) (x : SuccArg) (s : State) : Out :=
  issueW h [] s fun _ w => .ok (match x with
    | .nxt b => { w with nxt := w.sl b }
    | .byt b => { w with byt := w.sl b }
    | .both b => { w with nxt := w.sl b, byt := BitVec.ofNat 64 ((w.sl b).toNat % 2 ^ 18 / 2 * 2 + 1) }
    | .clr => { w with nxt := 0, byt := 0 })

/-! ### The end of a task (R248, R385, R339) -/

/-- The windows of the task on top: down to its admission window (R248). -/
def taskWins : List Window → List Window
  | [] => []
  | w :: r => if w.adm then [w] else w :: taskWins r

/-- A claim entry of a window of the running task (R170, R248). -/
def Core.taskClaim (k : Core) : Option Claim :=
  let ids := (taskWins (k.wins ++ k.spilled)).map Window.wid
  k.claims.find? fun c => ids.contains c.wid

/-- Step 3 of R248: every entry of the ticket is acknowledged or refused, and no refusal is still to be delivered. -/
def Core.drained (k : Core) (f : Frame) : Bool :=
  !(k.jrn.any fun e => e.live && e.ofTicket f) && !(k.traps.any fun t => t.fr.same f)

/-- Step 4 of R248, with what the end of the instance brings (R431, R493). -/
def State.endTask (s : State) (core : Nat) (f : Frame) : State :=
  (s.modCore core fun k => k.popTask (k.depth + 1)).instEnd f

/-- END after its wait for results (R248). -/
def endRes (s : State) (w : Window) : Res :=
  match s.me.taskClaim with
  | some c => .fault (claimFault s.me c)
  | none =>
    if s.me.drained w.fr then .ok (s.endTask s.cur w.fr)
    else .ok (s.setTop { w with park := some .endWait })

def execEndT (h : Hdr) (s : State) : Out := issue h true [] s endRes

/-- The task's entries are acknowledged: END takes effect (R248). -/
def execEndDrainDone (core : Nat) (s : State) : Out :=
  match s.topOf core with
  | some w =>
    if w.park = some .endWait && (s.core core).drained w.fr then .next (s.endTask core w.fr) else .next s
  | none => .next s

/-- LPUT gives its packet the bytes of v0, and ends the handler (R385). A LPUT that is issued again gives nothing twice. -/
def execLput (h : Hdr) (s : State) : Out :=
  issue h true [] s fun s w =>
    match w.fr.kind with
    | .landing job k =>
      let n := (w.fr.args.getD 2 0).toNat
      let bs := sliceBytes (natBytes 256 (w.rdV 0).toNat) 0 n
      match s.me.taskClaim with
      | some c => .fault (claimFault s.me c)
      | none =>
        endRes (s.modMe fun c => c.modJob job fun j =>
          { j with packets := j.packets.map fun p =>
              if p.k = k ∧ p.st = .handler then { p with st := .put, data := bs } else p }) w
    | _ => .fault (FaultInfo.plain cILLEGAL 0)

/-- MROWDONE stores the handler's row, and ends the handler (R338, R339). -/
def execMrowdone (h : Hdr) (s : State) : Out :=
  issue h true [] s fun s w =>
    match w.fr.kind with
    | .row job m =>
      let n := (w.fr.args.getD 2 0).toNat
      let at' := (w.fr.args.getD 0 0).toNat
      let bs := sliceBytes (natBytes 256 (w.rdV 0).toNat ++ natBytes 256 (w.rdV 1).toNat) 0 n
      -- the drain may have been cancelled since: its row is stored all the same (R346)
      let first := match s.me.mjob job with
        | some j => match j.op with
          | .drain _ _ _ _ _ row0 _ _ _ _ => !j.rows.contains (m - row0)
          | _ => false
        | none => true
      match s.me.taskClaim with
      | some c => .fault (claimFault s.me c)
      | none =>
        -- the row lies in the allocation as it now stands (R158)
        if first && !s.me.bufOk w.fr.ctx (at' / 2 ^ 20) (at' % 2 ^ 20) n then .fault ⟨cBUFFER, 2, 0, at' % 2 ^ 20⟩
        else endRes (if first then
            (s.modMe fun k => k.bufWrite (at' / 2 ^ 20) (at' % 2 ^ 20) (bs.map some)).rowDone s.cur job m n
          else s) w
    | _ => .fault (FaultInfo.plain cILLEGAL 0)

/-! ### SPAWN (R355 to R358) -/

/-- SPAWN checks its address and starts the read of the ticket (R355). -/
def execSpawn (h : Hdr) (d : Option BuS) (a : SK) (b : SI) (s : State) : Out :=
  memIssue h [] s (fun s w => objAddr s w a (w.siInt b) 64 pSPAWN 6 64 [0]) fun s w x =>
    .ok ((startLoad s w .spawn x (.plain false)).modTop fun w => { w with park := some (.spawn d a b) })

/-- The shape record that a launch copies: its S offset and bytes (R355, R357). -/
def shapeOf (s : State) (w : Window) (d : Option BuS) : Ex (Option (Nat × List Byte)) :=
  match d with
  | none => .ok none
  | some x =>
    match w.buS x with
    | none => .error (FaultInfo.plain cBUFFER 6)
    | some (buf, o) =>
      if buf ≠ 3 ∨ o % 64 ≠ 0 ∨ !s.me.bufOk w.fr.ctx 3 o 64 then .error ⟨cBUFFER, 6, 0, o⟩
      else .ok (some (o, memRead s.me.bufS o 64))

/-- Where a failed step of R355 points. -/
def launchFault (code off : Nat) : FaultInfo := ⟨code, 6, 0, if code = cPERM then off else 0⟩

/-- Steps 2 to 6 of R355 and the launch, on the core `s.cur`, with the bytes read (R355, R356, R358). -/
def State.launch (s : State) (w : Window) (d : Option BuS) (t : Pend) (foot : List Byte) (dev : Nat) : State :=
  let img := t.value
  let stop (f : FaultInfo) : State := (s.setTop { w with park := none }).takeFault f
  match s.imageCheck dev img w.sys w.fr.ctx foot with
  | .error code => stop (launchFault code t.off)
  | .ok ranges =>
    match shapeOf s w d with
    | .error f => stop f
    | .ok shape =>
      let x := imgCtx img
      let bits : BitVec 512 := BitVec.ofNat 512 img
      let what : Send :=
        if dev = s.dev then
          .launch ⟨x, t.off, .image bits ranges (imgDeps img) s.cur shape, dieOf s.cur, w.sys, w.fr.origin, false⟩
        else
          .away dev ⟨s.dev, x, t.off, bits, if foot.isEmpty then none else some (BitVec.ofNat 1024 (leNat foot)), 0, 0,
            s.cur, false, imgPrio img, shape, 0, false⟩
      (s.sendLater w.fr true what).modTop fun w => { w with park := none }.advance

/-- The reads of SPAWN are no longer outstanding; the lines they fetched stay (R99, R259). -/
def State.spawnReads (s : State) (core : Nat) (ps : List Pend) : State :=
  let s := ps.foldl (fun s p => fillAll s core p.fills) s
  s.modCore core fun k => { k with pend := k.pend.filter fun p => !(ps.any fun q => q.id = p.id) }

/-- The ticket has been read: its footprint record is read, or, when both are there, the checks and the launch follow
(R355). -/
def execSpawnReadDone (core : Nat) (s : State) : Out :=
  match s.topOf core with
  | none => .next s
  | some w =>
    match w.park with
    | some (.spawn d a _) =>
      let ps := (s.core core).pend.filter fun p => p.kind = .spawn && p.wid = w.wid
      if !(ps.all fun p => p.parts.all fun q => q.st = .done) then .next s
      else
        let s0 := { s with cur := core }
        let back (t : State) : State := { t with cur := s.cur }
        let peer := (w.base a).2.2.map Key.peer
        let dev := accDev s w.fr.ctx 0 0 peer
        match ps with
        | [t] =>
          let f := imgFoot t.value
          if footReadable f then
            .next (back (startLoad s0 w .spawn ⟨0, f, 128, dev, peer.isSome, peer⟩ (.plain false)))
          else .next (back ((s0.spawnReads core ps).launch w d t [] dev))
        | [t, u] => .next (back ((s0.spawnReads core ps).launch w d t (natBytes 128 u.value) dev))
        | _ => .next s
    | _ => .next s

end Sys2Proof.Machine
end

