-- ==== Sys2Proof/Machine/Arrivals.lean ====
section
/-! DEFINITION. Arrivals.lean: chits and other messages where they arrive: releases and decrements at an Exchange, barrier
arrivals, timelines and watches at a slice, bytes and coordinates at a core, and the crier (R353, R354, R361 to R370,
R405, R431, R463, R482). -/

namespace Sys2Proof.Machine

/-! ### Releases and decrements (R405, R424) -/

/-- A release of the address was awaited by a parked instance that QRESET discarded (R494). -/
def Exchange.lost (e : Exchange) (x : Ctx) (tkt : Nat) : Bool :=
  e.gone.any fun g => decide (g.1 = x) && decide (g.2.1 = tkt)

/-- One release fewer is awaited at the address. -/
def Exchange.loseOne (e : Exchange) (x : Ctx) (tkt : Nat) : Exchange :=
  { e with gone := (e.gone.map fun g => if g.1 = x ∧ g.2.1 = tkt then (g.1, g.2.1, g.2.2 - 1) else g).filter fun g => decide (0 < g.2.2) }

/-- A release decrements a parked launch, or is one for an instance that QRESET discarded: it is no creation (R405, R494). -/
def Exchange.decrements (e : Exchange) (x : Ctx) (tkt : Nat) : Bool := (e.parkedAt x tkt).isSome || e.lost x tkt

/-- A release: the oldest parked launch of its address is decremented, or a creation waits at the input (R405). A release behind an
earlier one of its address that still waits to create takes its place behind it (R424). DESIGN CHOICE (log 49): one for an address
whose parked instance QRESET discarded is itself discarded, while no other is parked there (R494). -/
def State.releaseAt (s : State) (die : Nat) (x : Ctx) (tkt issuerDie : Nat) (sys : Bool) (origin : Option (Nat × Nat)) :
    State :=
  match (s.exch die).parkedAt x tkt with
  | some l => s.decrement die l.id
  | none =>
    if (s.exch die).lost x tkt then s.modExch die fun e => e.loseOne x tkt
    else s.modExch die fun e => { e with input := e.input ++ [⟨x, tkt, .release, issuerDie, sys, origin, false⟩] }

/-- The die of R437 for a chit's sender. -/
def flyDie (f : Flying) : Nat := if f.dev.isSome then 0 else f.c.die.getD (srcDie f.src)

/-- A release of a higher lane than one taken in this tick is of the next tick (R424). -/
def Exchange.laneLate (e : Exchange) (t lane : Nat) : Bool :=
  match e.laneAt with
  | some (u, l) => decide (u = t) && decide (l < lane)
  | none => false

/-- A RELEASE or DEP-DECR chit reaches the Exchange of its ticket's home die, which takes it in the order of the lanes: as one of the
tick's four decrements, or as a creation (R405, R424). -/
def execReleaseChit (x : ChitRef) (s0 : State) : Out :=
  match s0.takeChit x fun k => k = .release || k = .depDecr with
  | none => .next s0
  | some (f, s) =>
    if !s.holds? f.c.ctx then .next s
    else
      let die := s.ticketDie f.c.ctx f.c.off
      let decr := (s.exch die).decrements f.c.ctx f.c.off
      if (s.exch die).laneLate s.tick.toNat f.c.lane.val || (decr && !s.mayDecr die) then .next s0
      else
        let s := s.modExch die fun e => { e with laneAt := some (s.tick.toNat, f.c.lane.val) }
        let s := if decr then s.takeStep die 2 else s
        .next ((s.countRecv (2000 + die) f.c.ctx f.c.colour).releaseAt die f.c.ctx f.c.off (flyDie f) f.fr.sys f.fr.origin)

/-- One DEP-DECR that an ended launch owes is applied at the ticket address it is for (R405, R424, R431). -/
def execDepDecr (die k : Nat) (s : State) : Out :=
  match (s.exch die).decrs[k]? with
  | none => .next s
  | some (x, tkt) =>
    let decr := (s.exch die).decrements x tkt
    if decr && !s.mayDecr die then .next s
    else
      let s := if decr then s.takeStep die 2 else s
      .next ((s.modExch die fun e => { e with decrs := e.decrs.eraseIdx k }).releaseAt die x tkt die false none)

/-! ### Objects at a slice (R37, R361 to R366) -/

/-- The atomic access to an object, with its requesting device and core (R37, R39, R94). -/
def Flying.ask (f : Flying) (s : State) (off n : Nat) : Ask :=
  { engAsk .atomic f.c.ctx f.c.region true f.fr.sys f.src off n (f.dev.getD s.dev) with fab := f.dev.isSome }

/-- Who waits at the slice for a chit's object. -/
def Flying.waiter (f : Flying) : Waiter := .chit f.c.ctx f.c.region f.c.off f.dev.isSome

/-- Translate every line of an object. A stub names the owner by `inr`, and an object in host memory the bridge device behind which
it lies (R38, log 63). While a line waits, those before it have not arrived. -/
def State.objPass (s : State) (f : Flying) : List (Nat × Nat) → Sum (EngRes (List (Ask × Nat × Nat))) (State × Nat)
  | [] => .inl (.ok s [])
  | (off, n) :: r =>
    let a := f.ask s off n
    match s.slicePass f.waiter a with
    | .wait s => .inl (.wait s)
    | .notHeld => .inl (.wait s)
    | .denied s => .inl (.wait s)
    | .drop => .inl (.wait s)
    | .missed s sl => .inl (.wait (s.miss sl a.x a.region off a.sys a.by' f.waiter))
    | .stub s i => .inr (s.leaveSlice f.waiter a, (s.stub i).owner)
    | .ok s sl e =>
      if pteKind e = 1 && s.bridgeUp a.dev && decide (s.bridgeOf a.dev ≠ s.dev) then .inr (s.leaveSlice f.waiter a, s.bridgeOf a.dev)
      else match State.objPass s f r with
        | .inl (.ok s l) => .inl (.ok s ((a, sl, e) :: l))
        | .inl (.wait s) => .inl (.wait (s.leaveSlice f.waiter a))
        | o => o

/-- The answer to a message of another device for a context that this device does not hold (R358, R513). -/
def State.refuseMsg (s : State) (dev : Option Nat) (core : Nat) (x : Ctx) : State :=
  match dev with
  | some d => { s with out := s.out ++ [.reply d core 0 [] false 1 x true] }
  | none => s

/-- The chit is taken out of flight. -/
def State.dropChit (s : State) (x : ChitRef) : State :=
  match x with
  | .sent k => { s with chits := s.chits.eraseIdx k }
  | .ext _ _ _ => s

/-- What a chit at a slice does, once its lines are translated: read, then write and go on (R114). A device that does not hold the
context refuses it (R513); within the device such a chit is dropped (R353). -/
def State.atObject (s : State) (x : ChitRef) (f : Flying) (lines : List (Nat × Nat))
    (go : State → List (Ask × Nat × Nat) → EngRes State) : Out :=
  let recv (s : State) : State :=
    (s.dropChit x).countRecv (1000 + s.home f.c.ctx f.c.region f.c.off) f.c.ctx f.c.colour
  if !s.holds? f.c.ctx then .next ((s.dropChit x).refuseMsg f.dev f.src f.c.ctx)
  else match s.objPass f lines with
    | .inr (s, owner) => .next { recv s with out := s.out ++ [.chit { f.c with tdev := owner }] }
    | .inl (.wait s) => .next s
    | .inl (.bad pa) => .fault (.noSuchAddress pa)
    | .inl (.ok s l) =>
      match go (recv s) l with
      | .ok s _ => .next s
      | .wait s => .next s
      | .bad pa => .fault (.noSuchAddress pa)

/-- A slot of a barrier record (R361). -/
def slotOff (off i : Nat) : Nat := off + 32 + 8 * i

/-- The releases of a round, in slot order (R363). -/
def State.roundReleases (s : State) (sl : Nat) (f : Flying) (slots : List Byte) : Nat → Nat → State
  | _, 0 => s
  | i, n + 1 => State.roundReleases (s.release (1000 + sl) f.fr f.c.ctx (BitVec.ofNat 64 (leNat (sliceBytes slots (8 * i) 8)))) sl
      f slots (i + 1) n

/-- The lines of a whole barrier record of `n` slots, from its header. -/
def recordLines (off n : Nat) : List (Nat × Nat) := (off, 32) :: splitLines (8 * n / 128 + 2) (off + 32) (8 * n)

/-- An arrival at a barrier record with header `h` (R363). -/
def barArrival (f : Flying) (sl h : Nat) (s : State) (l : List (Ask × Nat × Nat)) : EngRes State :=
  let off := f.c.off
  let cnt := bitsOf h 31 0
  let arr := bitsOf h 63 32
  let gen := bitsOf h 95 64
  let lost := bitsOf h 127 96
  let head (arr gen lost : Nat) : List (Option Byte) :=
    (natBytes 16 (cnt + arr * 2 ^ 32 + gen % 2 ^ 32 * 2 ^ 64 + lost * 2 ^ 96)).map some
  let hl := l.take 1
  let writeHead (s : State) (bs : List (Option Byte)) : EngRes State :=
    match s.engWriteList f.waiter (hl.map fun p => ({ p.1 with n := 16 }, p.2)) bs with
    | .ok s _ => .ok s s
    | .wait s => .wait s
    | .bad p => .bad p
  if cnt = 0 ∨ cnt ≤ arr then writeHead s (head arr gen (Nat.min (lost + 1) (2 ^ 32 - 1)))
  else
    let at' := slotOff off arr
    let line := (l.drop 1).filter fun p => decide (p.1.off / 128 = at' / 128)
    match s.engWriteList f.waiter (line.map fun p => ({ p.1 with off := at', n := 8 }, p.2)) ((natBytes 8 f.c.arg.toNat).map some) with
    | .wait s => .wait s
    | .bad p => .bad p
    | .ok s _ =>
      if arr + 1 = cnt then
        match s.engReadList f.waiter (l.drop 1) with
        | .wait s => .wait s
        | .bad p => .bad p
        | .ok s bs =>
          match writeHead s (head 0 (gen + 1) lost) with
          | .ok s _ =>
            let s := s.roundReleases sl f bs 0 cnt
            .ok s s
          | r => r
      else writeHead s (head (arr + 1) gen lost)

/-- A BAR-ARRIVE, or what a BARI sends, performs at its record (R362, R363). -/
def execBarArrive (x : ChitRef) (s : State) : Out :=
  match s.takeChit x fun k => k = .barArrive || k = .barInit with
  | none => .next s
  | some (f, _) =>
    let off := f.c.off
    let sl := s.home f.c.ctx f.c.region off
    if f.c.kind = .barInit then
      s.atObject x f [(off, 16)] fun s l =>
        match s.engWriteList f.waiter l ((natBytes 16 f.c.arg.toNat).map some) with
        | .ok s _ => .ok s s
        | .wait s => .wait s
        | .bad p => .bad p
    else
      match s.entryFor f.c.ctx f.c.region off with
      | none => s.atObject x f [(off, 32)] fun s _ => .ok s s
      | some _ =>
        let h := s.peekNat f.c.ctx f.c.region off 16
        let cnt := bitsOf h 31 0
        let arr := bitsOf h 63 32
        if cnt = 0 ∨ cnt ≤ arr then s.atObject x f [(off, 32)] (barArrival f sl h)
        else s.atObject x f (recordLines off (Nat.min cnt 1024)) (barArrival f sl h)

/-- A TL-UPDATE sets or adds to its timeline (R364). -/
def execTlUpdate (x : ChitRef) (s : State) : Out :=
  match s.takeChit x fun k => k = .tlSet || k = .tlAdd with
  | none => .next s
  | some (f, _) =>
    s.atObject x f [(f.c.off, 8)] fun s l =>
      match s.engReadList f.waiter l with
      | .wait s => .wait s
      | .bad p => .bad p
      | .ok s bs =>
        let v := if f.c.kind = .tlSet then f.c.arg.toNat else leNat bs + f.c.arg.toNat
        match s.engWriteList f.waiter l ((natBytes 8 v).map some) with
        | .ok s _ => .ok s s
        | .wait s => .wait s
        | .bad p => .bad p

/-- The watch an arrival event names, as a flying message for its translation. -/
def State.watchOf (s : State) (x : WatchRef) : Option Watch :=
  match x with
  | .sent k => s.watchMsgs[k]?
  | .ext dev core ctx region off th nxt =>
    some ⟨dev, core, ctx, region, off, th, nxt, { probeFrame with ctx := ctx, sys := false, pri := 0, lvl := 0 }⟩

def State.dropWatch (s : State) (x : WatchRef) : State :=
  match x with
  | .sent k => { s with watchMsgs := s.watchMsgs.eraseIdx k }
  | .ext _ _ _ _ _ _ _ => s

/-- The translation of a watch's timeline is that of a chit to it. -/
def Watch.fly (w : Watch) (s : State) : Flying :=
  ⟨⟨.tlSet, 0, w.ctx, 0, 0, 0, w.region, w.off, 0, false, none⟩, w.core, w.fr, if w.dev = s.dev then none else some w.dev⟩

/-- A watch arrives at the atomic port: it fires at once, or waits at its slice, or, beyond 256 watches, with the die's
service core (R365, R366). A device that does not hold the context refuses it (R513). -/
def execWatchArrival (x : WatchRef) (s : State) : Out :=
  match s.watchOf x with
  | none => .next s
  | some w =>
    let fly := w.fly s
    if !s.holds? w.ctx then .next ((s.dropWatch x).refuseMsg fly.dev w.core w.ctx)
    else match s.objPass fly [(w.off, 8)] with
      | .inr (s, owner) =>
        .next { s.dropWatch x with out := s.out ++ [OutMsg.watch owner w.ctx w.region w.off w.threshold w.nxt (Fin.ofNat 8 w.fr.pri)] }
      | .inl (.wait s) => .next s
      | .inl (.bad pa) => .fault (.noSuchAddress pa)
      | .inl (.ok s l) =>
        match s.engReadList fly.waiter l with
        | .wait s => .next s
        | .bad pa => .fault (.noSuchAddress pa)
        | .ok s bs =>
          let sl := s.home w.ctx w.region w.off
          let s := s.dropWatch x
          if watchMet (BitVec.ofNat 64 (leNat bs)) w.threshold then .next (s.releaseOn w.dev (1000 + sl) w.fr w.ctx w.nxt)
          else .next (s.modSlice sl fun t =>
            if t.watches.length < 256 then { t with watches := t.watches ++ [w] }
            else { t with extraWatches := t.extraWatches ++ [w] })

/-! ### Arrivals at a core (R354, R370, R463, R482) -/

/-- The flit of a chit (R352). -/
def chitFlit (c : Chit) : BitVec 256 :=
  let kind : Nat := match c.kind with
    | .release => 0 | .depDecr => 1 | .barArrive => 2 | .byteArrive => 3 | .tlSet => 4 | .tlAdd => 4 | .askReply => 5
    | .faultReply => 6 | .barInit => 2
  BitVec.ofNat 256 (kind + c.lane.val * 2 ^ 4 + bit (decide (c.kind = .release ∨ c.kind = .depDecr)) * 2 ^ 7
    + c.ctx.toNat * 2 ^ 8 + c.tdev % 2048 * 2 ^ 24 + c.tdie % 4 * 2 ^ 35 + c.tcore % 256 * 2 ^ 37
    + (c.region.toNat * 2 ^ 64 + c.off % 2 ^ 64) * 2 ^ 64 + c.arg.toNat * 2 ^ 136)

/-- What happens to every message that reaches a core: a retained cluster begins its exit and the message waits; a core
that has flipped keeps it for the save area; else it is delivered (R463, R482). -/
def State.reachCore (s : State) (core : Nat) (x : Ctx) (m : Msg) (h : HeldMsg) (take deliver : State → State) : State :=
  if s.retained (clusterOf core) then s.holdAt (clusterOf core) h
  else
    let s := s.wakeCluster (clusterOf core)
    if s.flipped core x then (take s).capture core x m else deliver (take s)

/-- A BYTE-ARRIVE at its core; `drop` takes it out of flight (R158, R354). -/
def State.byteAtCore (s : State) (f : Flying) (drop : State → State) : State :=
  let core := winCore f.c.off
  let o := winOff f.c.off
  s.reachCore core f.c.ctx ⟨0, chitFlit f.c, []⟩ (.chit f) (fun s => (drop s).countRecv core f.c.ctx f.c.colour) fun s =>
    if (s.core core).winOk f.c.ctx f.fr.sys 3 o 16 then s.countBytes core o (f.c.arg.toNat % 2 ^ 40) ⟨core, f.fr, 0⟩
    else s.fatalAt f.c.ctx cBUFFER 6 0 o core

/-- A BYTE-ARRIVE reaches its bytebar (R354, R158). -/
def execByteArrive (x : ChitRef) (s : State) : Out :=
  match s.takeChit x fun k => k = .byteArrive with
  | none => .next s
  | some (f, t) =>
    if !s.holds? f.c.ctx || 768 ≤ winCore f.c.off then .next t
    else .next (s.byteAtCore f fun s => s.dropChit x)

/-- The reply is the first of its crier to its core on its lane (R353). -/
def backFirst (l : List AskBack) (k : Nat) : Bool :=
  match l[k]? with
  | none => false
  | some b => !((l.take k).any fun o => decide (o.die = b.die) && decide (o.core = b.core) && decide (o.fr.pri = b.fr.pri))

/-- An ASK-REPLY writes its coordinate and releases its successor, from its crier's die (R370, R397, R437). -/
def State.deliverAsk (s : State) (b : AskBack) : State :=
  (s.modCore b.core fun k => k.bufWrite 3 b.dst ((natBytes 8 b.coord.toNat).map some)).releaseBy (some b.die) b.core b.fr b.stamp b.nxt

def askChit (s : State) (b : AskBack) : Chit :=
  ⟨.askReply, Fin.ofNat 8 b.fr.pri, b.ctx, s.dev, dieOf b.core, b.core % 192, 0xFE, 3 * 2 ^ 41 + b.dst, b.coord, false, some b.die⟩

/-- An ASK-REPLY at its core (R370, R463). -/
def State.backAtCore (s : State) (b : AskBack) (k : Nat) : State :=
  s.reachCore b.core b.ctx ⟨0, chitFlit (askChit s b), natBytes 8 b.nxt.toNat⟩ (.back b)
    (fun s => { s with askBacks := s.askBacks.eraseIdx k }.countRecv b.core b.ctx false) fun s => s.deliverAsk b

def execAskReply (k : Nat) (s : State) : Out :=
  match s.askBacks[k]? with
  | none => .next s
  | some b =>
    if !backFirst s.askBacks k then .next s
    else if !s.holds? b.ctx then .next { s with askBacks := s.askBacks.eraseIdx k }
    else .next (s.backAtCore b k)

/-! ### The crier (R367 to R370) -/

/-- The Morton code of a coordinate: bit b of c0, c1, c2 at bits 3b, 3b + 1, 3b + 2 (R369). -/
def morton : Nat → Nat → Nat → Nat → Nat
  | 0, _, _, _ => 0
  | n + 1, a, b, c => a % 2 + 2 * (b % 2) + 4 * (c % 2) + 8 * morton n (a / 2) (b / 2) (c / 2)

def unmorton : Nat → Nat → Nat × Nat × Nat
  | 0, _ => (0, 0, 0)
  | n + 1, m =>
    let r := unmorton n (m / 8)
    (m % 2 + 2 * r.1, m / 2 % 2 + 2 * r.2.1, m / 4 % 2 + 2 * r.2.2)

/-- A coordinate lies within the extents of a descriptor. -/
def inExtents (d : Nat) (p : Nat × Nat × Nat) : Bool :=
  decide (p.1 ≤ chX d 0) && decide (p.2.1 ≤ chX d 1) && decide (p.2.2 ≤ chX d 2)

/-- The least Morton code above `m` that shares its bits above place `p`, sets bit `p` and clears the rest. -/
def raiseAt (m p : Nat) : Nat := (m / 2 ^ p + 1) * 2 ^ p

/-- The coordinate after one, in the order of the descriptor; none after the last (R369). -/
def nextCoord (d : Nat) (p : Nat × Nat × Nat) : Option (Nat × Nat × Nat) :=
  let (a, b, c) := p
  match chOrd d with
  | 0 =>
    if a < chX d 0 then some (a + 1, b, c)
    else if b < chX d 1 then some (0, b + 1, c)
    else if c < chX d 2 then some (0, 0, c + 1)
    else none
  | 1 =>
    if b < chX d 1 then some (a, b + 1, c)
    else if a < chX d 0 then some (a + 1, 0, c)
    else if c < chX d 2 then some (0, 0, c + 1)
    else none
  | _ =>
    let m := morton 20 a b c
    ((List.range 60).find? fun i => decide (m / 2 ^ i % 2 = 0) && inExtents d (unmorton 20 (raiseAt m i))).map fun i =>
      unmorton 20 (raiseAt m i)

def coordWord (p : Nat × Nat × Nat) : W64 := BitVec.ofNat 64 (p.1 + p.2.1 * 2 ^ 20 + p.2.2 * 2 ^ 40)

def Crier.chan (c : Crier) (n : Nat) : Option Channel := tabGet none n (c.chans.map fun p => (p.1, some p.2))

/-- The crier's answer to an ASK, and its channel after it (R370). -/
def Crier.answer (c : Crier) (x : Ctx) (n : Nat) : W64 × Crier :=
  match c.chan n with
  | some h =>
    if h.ctx = x then
      match h.pos with
      | some p => (coordWord p, { c with chans := tabPut n { h with pos := nextCoord h.desc.toNat p } c.chans })
      | none => (BitVec.allOnes 64, c)
    else (BitVec.allOnes 64, c)
  | none => (BitVec.allOnes 64, c)

/-- The ASK is the first of its core to its crier on its lane (R353). -/
def askFirst (l : List AskMsg) (k : Nat) : Bool :=
  match l[k]? with
  | none => false
  | some b => !((l.take k).any fun o => decide (o.die = b.die) && decide (o.core = b.core) && decide (o.fr.pri = b.fr.pri))

/-- An ASK reaches its crier and is served (R370). -/
def execAskArrival (k : Nat) (s : State) : Out :=
  match s.asks[k]? with
  | none => .next s
  | some m =>
    if !askFirst s.asks k then .next s
    else
      let s := { s with asks := s.asks.eraseIdx k }
      if !s.holds? m.ctx then .next s
      else
        let s := s.countRecv (2000 + m.die) m.ctx false
        let r := (vget Crier.zero s.criers m.die).answer m.ctx m.ch
        let s := (s.modCrier m.die fun c => (c.answer m.ctx m.ch).2).countSent (2000 + m.die) m.ctx
        .next { s with askBacks := s.askBacks ++ [⟨m.die, m.core, m.ctx, m.dst, m.nxt, r.1, m.stamp, m.fr⟩] }

/-- The crier takes a descriptor: PERM for a channel of another context; else the channel is set, or freed (R368). -/
def Crier.take (c : Crier) (x : Ctx) (n : Nat) (desc : BitVec 256) : Option Crier :=
  let d := desc.toNat
  match c.chan n with
  | some h =>
    if h.ctx ≠ x then none
    else if chOrd d = 3 then some { c with chans := c.chans.filter fun p => p.1 != n }
    else some { c with chans := tabPut n ⟨x, desc, some (chS d 0, chS d 1, chS d 2)⟩ c.chans }
  | none =>
    if chOrd d = 3 then some c else some { c with chans := tabPut n ⟨x, desc, some (chS d 0, chS d 1, chS d 2)⟩ c.chans }

/-- A window parked at a CRINIT whose descriptor has not reached the crier: the oldest. -/
def Core.crinitWin (k : Core) : Option Window :=
  k.windows.reverse.find? fun w => match w.park with
    | some (.crinit _ _ _ 0) => true
    | _ => false

/-- The descriptor of a parked CRINIT reaches the crier; its verdict goes back: 1 accepted, 2 PERM (R368). -/
def execCrinitArrival (core : Nat) (s : State) : Out :=
  match (s.core core).crinitWin with
  | none => .next s
  | some w =>
    match w.park with
    | some (.crinit dev n desc _) =>
      let die := if dev then 0 else dieOf core
      let back (v : Nat) (s : State) : State := s.modCore core fun k => k.modWin w.wid fun w =>
        { w with park := some (.crinit dev n desc v) }
      match (vget Crier.zero s.criers die).take w.fr.ctx n desc with
      | some c => .next (back 1 (s.modCrier die fun _ => c))
      | none => .next (back 2 s)
    | _ => .next s

/-- The crier's answer reaches the parked frame: it goes on, or takes PERM at the CRINIT (R368). -/
def execCrierAnswer (core : Nat) (s : State) : Out :=
  match s.topOf core with
  | none => .next s
  | some w =>
    match w.park with
    | some (.crinit _ _ _ 1) => .next (s.modTopOf core Window.wake)
    | some (.crinit _ _ _ 2) =>
      let s0 := (s.modTopOf core fun w => { w with park := none })
      .next { { s0 with cur := core }.takeFault (FaultInfo.plain cPERM 0) with cur := s.cur }
    | _ => .next s

end Sys2Proof.Machine
end

