-- ==== Sys2Proof/Machine/Exchange.lean ====
section
/-! DEFINITION. Exchange.lean: creation, dispatch, the bell, placement, walks and bounces (R356, R358, R403, R405, R410,
R411, R414, R423 to R444). -/

namespace Sys2Proof.Machine

/-! ### Creation (R356, R403, R425, R429, R430) -/

/-- FANSZ of a fan level (R356). -/
def State.fanSize (s : State) (lvl : Nat) : Nat :=
  match lvl with
  | 0 => 1
  | 1 => 4
  | 2 => 192
  | 3 => 768
  | 4 => s.q * 768
  | _ => 2 * s.q * s.q * 768

/-- Device and module core at which the instance of rank `r` is hinted, for an anchor core of this device (R356). -/
def State.fanHint (s : State) (lvl anchor r : Nat) : Nat × Nat :=
  match lvl with
  | 1 => (s.dev, dieOf anchor * 192 + (rowOf anchor / 4 * 4 + r) * 16 + colOf anchor)
  | 2 => (s.dev, dieOf anchor * 192 + r)
  | 3 => (s.dev, r)
  | 4 => (s.dev / s.q * s.q + r / 768, r % 768)
  | _ => (r / 768, r % 768)

/-- Two ranges share a granule; region 0x01 does not name a device (R429). -/
def Range.meets (a b : Range) : Bool :=
  decide (a.region = b.region) && decide (a.base < b.base + b.ngr * 4096) && decide (b.base < a.base + a.ngr * 4096)

/-- One of two footprints writes what the other touches (R429). -/
def footsMeet (a b : List Range) : Bool := a.any fun x => b.any fun y => (x.wr || y.wr) && x.meets y

/-- The launches in flight that a new footprint of a context must wait for (R429). -/
def Exchange.edgesOf (e : Exchange) (x : Ctx) (foot : List Range) : List Nat :=
  (e.launches.filter fun l => decide (l.ctx = x) && footsMeet l.foot foot).map LaunchRec.id

/-- Tickets parked or ready; a parked fan counts as one (R356, R423). -/
def Exchange.parked (e : Exchange) : Nat :=
  e.launches.countP (fun l => decide (0 < l.count)) + e.insts.countP (fun i => decide (i.st = .ready)) + e.zeroQ.length

def Exchange.camUsed (e : Exchange) : Nat := (e.launches.map fun l => l.foot.length).foldr (· + ·) 0

def Exchange.edgesUsed (e : Exchange) : Nat := (e.launches.map fun l => l.edges.length).foldr (· + ·) 0

/-- A creation fits (R423, R425). -/
def Exchange.fits (e : Exchange) (x : Ctx) (foot : List Range) : Bool :=
  decide (e.parked < 8192) && (foot.isEmpty
    || (decide (e.camUsed + foot.length ≤ 2048) && decide (e.edgesUsed + (e.edgesOf x foot).length ≤ 16384)))

/-- A new instance of an image (R356, R402, R437). -/
def newInst (id launch : Nat) (c : Creation) (img : Nat) (rank fansz : Nat) (hint : Option (Nat × Nat)) (foot : List Range)
    (shape : Option (Nat × List Byte)) (t dev : Nat) : Inst :=
  { id := id
    ctx := c.ctx
    tkt := c.tkt
    image := BitVec.ofNat 512 img
    rank := rank
    fansz := fansz
    launch := launch
    st := .parked
    since := t
    prio := imgPrio img
    hint := hint.map Prod.snd
    hdev := (hint.map Prod.fst).getD dev
    pin := imgPin img
    radius := imgRadius img
    bounces := 0
    issuerDie := c.issuerDie
    foot := foot
    shape := shape
    origin := c.origin
    host := c.host
    home := none }

/-- Create the instances of a launch (R356, R429, R430); at count zero they become ready. -/
def State.create (s : State) (die : Nat) (c : Creation) (img : Nat) (foot : List Range) (count anchor : Nat)
    (shape : Option (Nat × List Byte)) : State :=
  let lvl := imgFan img
  let n := s.fanSize lvl
  let id := s.nextId
  let edges := (s.exch die).edgesOf c.ctx foot
  let hint (r : Nat) : Option (Nat × Nat) :=
    if lvl = 0 then (if imgHintv img then some (s.dev, imgHint img) else none) else some (s.fanHint lvl anchor r)
  let insts := (List.range n).map fun r => newInst (id + 1 + r) id c img r n (hint r) foot shape s.tick.toNat s.dev
  let rec' : LaunchRec := ⟨id, c.ctx, c.tkt, count + edges.length, foot, edges, n, if c.host then c.origin else none⟩
  let s1 := { s.modExch die fun e => { e with
      launches := e.launches ++ [rec'], insts := e.insts ++ insts
      gone := e.gone.filter fun g => !(decide (g.1 = c.ctx) && decide (g.2.1 = c.tkt)) } with
    nextId := id + 1 + n }
  if count + edges.length = 0 then s1.readyAll die id else s1

/-- The first release at the input that finds a parked launch of its address by now: its place, and the launch (R405, R425). -/
def Exchange.lateRelease (e : Exchange) : Option (Nat × LaunchRec) :=
  (List.range e.input.length).findSome? fun k => match e.input[k]? with
    | some c => if c.kind = .release then (e.parkedAt c.ctx c.tkt).map fun l => (k, l) else none
    | none => none

/-- The first creation at the input leaves it. -/
def State.popInput (s : State) (die : Nat) : State := s.modExch die fun e => { e with input := e.input.tail }

/-- The Exchange accepts the creation at the head of its input, one in a tick, once its bytes are read and it fits (R423 to R425). -/
def State.acceptHead (s : State) (die : Nat) : State :=
  match (s.exch die).input.head? with
  | none => s
  | some c =>
    if !s.holds? c.ctx then s.popInput die
    else match c.kind with
      | .image img foot count anchor shape =>
        if !s.mayCreate die then s
        else
          let s := s.takeStep die 3
          if (s.exch die).fits c.ctx foot then (s.popInput die).create die c img.toNat foot count anchor shape else s
      | _ => s

/-- A creation waits at the input: the head does not fit, or its bytes are still read (R403, R425). -/
def State.inputWaits (s : State) (e : Exchange) : Bool :=
  match e.input.head? with
  | none => false
  | some c => s.holds? c.ctx && match c.kind with
    | .image _ foot _ _ _ => !e.fits c.ctx foot
    | .release => (e.parkedAt c.ctx c.tkt).isNone
    | .ticket _ => true

/-- Ticks pass; those in which a creation waited at an Exchange count in its STALL (R436). -/
def State.passTicks (s : State) (n : Nat) : State :=
  { s with
    tick := s.tick + BitVec.ofNat 64 n
    exchanges := s.exchanges.map fun e => if s.inputWaits e then { e with stall := Nat.min (e.stall + n) (2 ^ 23 - 1) } else e }

/-- The Exchange works on its input: a release that waits there and finds a parked launch by now is a decrement of the tick,
which no creation holds back; else the head is accepted (R405, R424, R425). -/
def execCreation (die : Nat) (s : State) : Out :=
  match (s.exch die).lateRelease with
  | some (k, l) =>
    if s.mayDecr die then
      .next (((s.takeStep die 2).modExch die fun e => { e with input := e.input.eraseIdx k }).decrement die l.id)
    else .next (s.acceptHead die)
  | none => .next (s.acceptHead die)

/-- The first creation at the input changes its kind. -/
def State.setInput (s : State) (die : Nat) (c : Creation) : State :=
  s.modExch die fun e => { e with input := c :: e.input.tail }

/-- The fault record of a host ticket that is rejected (R447, R488). -/
def State.rejectRecord (s : State) (x : Ctx) (code detail tkt : Nat) : BitVec 512 :=
  faultRecord ⟨code, 6, 0, detail⟩ x s.dev ⟨0, 0, tkt, 0⟩ false false s.tick.toNat 0

/-- A host ticket is rejected (R488, R491). -/
def State.rejectTicket (s : State) (q h : Nat) (x : Ctx) (code detail tkt : Nat) : State :=
  s.postDone q { Event.mk0 2 h 0 with frec := s.rejectRecord x code detail tkt }

/-- A ticket whose bytes are all read is checked (R403). -/
def State.checkTicket (s : State) (die : Nat) (c : Creation) (img : Nat) (foot : List Byte) : State :=
  match s.imageCheck s.dev img (c.sys || c.host) c.ctx foot with
  | .error code =>
    match c.host, c.origin with
    | true, some (q, h) => (s.popInput die).rejectTicket q h c.ctx code (launchFault code c.tkt).detail c.tkt
    | _, _ => (s.popInput die).contextFatal c.ctx (launchFault code c.tkt) { FaultAt.none with core := c.issuerDie * 192 }
  | .ok ranges =>
    let count := if c.host then imgDeps img else imgDeps img - 1
    s.setInput die { c with ctx := imgCtx img, kind := .image (BitVec.ofNat 512 img) ranges count (c.issuerDie * 192) none }

/-- The Exchange reads the ticket of a release that found none parked, and footprint records, which are accesses of the instance's
context (R403). -/
def execTicketReadDone (die : Nat) (s : State) : Out :=
  match (s.exch die).input.head? with
  | none => .next s
  | some c =>
    if !s.holds? c.ctx then .next (s.popInput die)
    else match c.kind with
      | .image _ _ _ _ _ => .next s
      | .release =>
        if ((s.exch die).parkedAt c.ctx c.tkt).isSome then .next s
        else match s.exchRead die c.ctx c.tkt 64 with
          | .wait s => .next s
          | .bad pa => .fault (.noSuchAddress pa)
          | .ok s bs => .next (s.setInput die { c with kind := .ticket (BitVec.ofNat 512 (leNat bs)) })
      | .ticket img =>
        let f := imgFoot img.toNat
        let x := imgCtx img.toNat
        -- an image that names a context which its issuer may not name fails its check whatever its footprint
        if !footReadable f || (decide (x ≠ c.ctx) && !c.sys && !c.host) then .next (s.checkTicket die c img.toNat [])
        else if !s.holds? x then .next (s.popInput die)
        else match s.exchRead die x f 128 with
          | .wait s => .next s
          | .bad pa => .fault (.noSuchAddress pa)
          | .ok s bs => .next (s.checkTicket die c img.toNat bs)

/-- The footprint ranges of a launch that arrives from another device. -/
def launchRanges (l : Launch) : List Range :=
  match l.foot with
  | none => []
  | some f => match footRanges (natBytes 128 f.toNat) with
    | .ok r => r
    | .error _ => []

/-- A launch arrives from another device: a ready instance enters its ready queue in the next tick, a launch through a key waits at
the input; a device that does not hold the context answers REFUSED (R356, R358). Or an instance that this device sent has ended
(R431). -/
def execLaunchArrival (l : Launch) (s : State) : Out :=
  if l.ended then .next (s.launchEnd (s.ticketDie l.ctx l.tkt) l.launch)
  else if !s.holds? l.ctx then .next { s with out := s.out ++ [OutMsg.reply l.src l.core 0 [] false 1 l.ctx true] }
  else
    let die := s.ticketDie l.ctx l.tkt
    let c : Creation :=
      ⟨l.ctx, l.tkt, .image l.image (launchRanges l) (imgDeps l.image.toNat) l.core l.shape, dieOf l.core, false, none, false⟩
    if l.ready then
      let i := newInst s.nextId 0 c l.image.toNat l.rank l.fansz (some (s.dev, l.core)) (launchRanges l) l.shape s.tick.toNat s.dev
      .next (({ s.modExch die fun e => { e with insts := e.insts ++ [{ i with prio := l.prio, home := some (l.src, l.launch) }] } with
        nextId := s.nextId + 1 }).enqueue die i.id)
    else .next (s.modExch die fun e => { e with input := e.input ++ [c] })

/-! ### Placement (R410, R411, R414, R437 to R439) -/

/-- An instance that keeps to one core (R410, R414). -/
def Inst.fixed (i : Inst) : Bool := (i.pin && i.hint.isSome) || decide (imgAwn i.image.toNat ≠ 0)

/-- The radius of an instance's walk (R437, R439). -/
def Inst.walkRadius (i : Inst) : Nat := if i.fixed then 0 else if i.hint.isSome then i.radius else Nat.max i.radius 3

/-- A core's class is allowed for the instance (R410, R414, R440). -/
def Inst.allows (i : Inst) (core : Nat) : Bool :=
  i.fixed || decide (imgClass i.image.toNat = 0) || decide (bitsOf (imgClass i.image.toNat) (classOf core) (classOf core) = 1)

/-- The 2 MiB blocks of region and range (R438). -/
def rangeBlocks (r : Range) : List Nat :=
  let lo := r.base / 2 ^ 21
  (List.range ((r.base + r.ngr * 4096 - 1) / 2 ^ 21 - lo + 1)).map fun i => vaOf r.region ((lo + i) * 2 ^ 21)

/-- The die with the most blocks of a footprint, the lowest on a tie (R438). -/
def dieByMap (tr : Nat) (foot : List Range) : Nat :=
  let blocks := ((foot.filter fun r => r.region ≠ 3).flatMap rangeBlocks).eraseDups
  let n (d : Nat) : Nat := blocks.countP fun b => decide (homeDie tr b = d)
  (List.range 4).foldl (fun b d => if n b < n d then d else b) 0

/-- A core of a cluster of a die, by its position (R5). -/
def clusterCore (die cl pos : Nat) : Nat := die * 192 + (cl / 16 * 4 + pos) * 16 + cl % 16

/-- The least-loaded cluster of a die with a core of an allowed class, the lowest on a tie (R439). -/
def State.leastCluster (s : State) (die : Nat) (i : Inst) : Nat :=
  let e := s.exch die
  let ok := (List.range 48).filter fun cl => i.allows (clusterCore die cl 0)
  let occ (cl : Nat) : Nat := tabGet 0 cl e.occ
  ok.foldl (fun b cl => if occ cl < occ b then cl else b) (ok.headD 0)

/-- The walk of a dispatched instance toward a core (R437, R440). -/
def State.sendWalk (s : State) (die : Nat) (i : Inst) (core : Nat) : State :=
  let w : MeshWalk := ⟨i.id, die, dieOf core, 0, 0, rowOf core, colOf core, i.walkRadius, false, s.tick.toNat⟩
  { s.modExch die fun e => e.modInst i.id fun i => { i with st := .walking } with walks := s.walks ++ [w] }

/-- A ready instance leaves for another device on the chit lane (R358). -/
def Inst.message (i : Inst) (dev : Nat) : Launch :=
  let foot : Option (BitVec 1024) := if i.foot.isEmpty then none else
    some (BitVec.ofNat 1024 (leNat (
      let enc (r : Range) : List Byte := natBytes 16 (r.base + r.region.toNat * 2 ^ 64 + r.ngr * 2 ^ 72)
      let rd := (i.foot.filter fun r => !r.wr).flatMap enc
      rd ++ List.replicate (64 - rd.length) 0 ++ (i.foot.filter Range.wr).flatMap enc)))
  ⟨dev, i.ctx, i.tkt, i.image, foot, i.rank, i.fansz, i.hint.getD 0, true, i.prio, i.shape, i.launch, false⟩

/-- Place a dispatched instance (R437). -/
def State.place (s : State) (die : Nat) (i : Inst) : State :=
  let img := i.image.toNat
  if imgAwn img ≠ 0 then
    match s.awnHome i.ctx (imgAwn img) with
    | none => s.contextFatal i.ctx ⟨cCLAIM, 6, 0, imgAwn img⟩ { FaultAt.none with core := die * 192 }
    | some q => s.sendWalk die i q.1
  else match i.hint with
    | some core =>
      if i.hdev = s.dev then s.sendWalk die i core
      else
        { s.modExch die fun e => { e with insts := e.insts.filter fun j => j.id != i.id } with
          out := s.out ++ [.launch i.hdev (i.message s.dev)] }
    | none =>
      let tr := s.trans i.ctx
      let d := if bitsOf tr 53 53 = 1 ∧ i.foot ≠ [] then dieByMap tr i.foot else i.issuerDie
      s.sendWalk die i (clusterCore d (s.leastCluster d i) 3)

/-! ### Dispatch and the bell (R424, R433 to R435) -/

/-- The instance that a queue would dispatch: the oldest whose context is not frozen (R433). -/
def State.headOf (s : State) (die q : Nat) : Option Inst := (s.liveQueue die q).head?.bind (s.exch die).inst

/-- The queue and instance to dispatch: the highest queue that holds one (R433). -/
def State.nextReady (s : State) (die : Nat) : Option (Nat × Inst) :=
  [7, 6, 5, 4, 3, 2, 1, 0].findSome? fun q => (s.headOf die q).map fun i => (q, i)

/-- One dispatch: the instance leaves its queue, the ages follow, and it is placed (R424, R433, R434, R437). -/
def execDispatch (die : Nat) (s0 : State) : Out :=
  let t := s0.tick.toNat
  let s := s0.step4 die
  if !(s.exch die).mayStep t 6 1 then .next s0
  else match s.nextReady die with
    | none => .next s
    | some (q, i) =>
      let lower := (List.range q).filter fun p => !(s.liveQueue die p).isEmpty
      let s := s.modExch die fun e =>
        { e with
          queues := vmod q (fun l => l.filter fun id => id != i.id) e.queues
          age := vmod q (fun _ => t + 2) e.age
          hi := lower.foldl (fun h p => vmod p (fun _ => true) h) (vmod q (fun _ => false) e.hi)
          lastQ := some (q, t) }
      .next ((s.takeStep die 6).place die i)

/-- BELL (R434, R435). -/
def Exchange.bell (e : Exchange) : Nat := 2 ^ Nat.min 20 (Nat.max 10 e.bellx)

/-- An instance may rise (R434). -/
def State.mayRise (s : State) (i : Inst) : Bool :=
  let a := imgAwn i.image.toNat
  !s.frozen i.ctx && (decide (a = 0) || (s.awnHome i.ctx a).any fun q => decide (i.prio < q.2.2.ceil))

/-- Step 5 of R424 for one queue (R434). -/
def State.ageQueue (s : State) (die q : Nat) : State :=
  let t := s.tick.toNat
  let e := s.exch die
  let reset (s : State) : State := s.modExch die fun e =>
    { e with age := vmod q (fun _ => t + 1) e.age, hi := vmod q (fun _ => false) e.hi }
  if (s.liveQueue die q).isEmpty then reset s
  else if vget false e.hi q && decide (e.bell ≤ t + 1 - vget 0 e.age q) then
    match ((e.queue q).filterMap e.inst).find? s.mayRise with
    | none => reset s
    | some i =>
      if 1024 ≤ (e.queue (q + 1)).length then s
      else
        let s := reset (s.modExch die fun e =>
          { e with queues := vmod q (fun l => l.filter fun id => id != i.id) e.queues })
        let s := s.modExch die fun e => e.modInst i.id fun i => { i with prio := i.prio + 1 }
        s.intoQueue die (t + 1) i.id
  else s

/-- The bell: step 5 of R424, once in a tick and before its dispatch (R434). -/
def execBell (die : Nat) (s0 : State) : Out :=
  let s := s0.step4 die
  if !(s.exch die).mayStep s.tick.toNat 5 1 then .next s0
  else .next ([5, 4, 3, 2, 1, 0].foldl (fun s q => State.ageQueue s die q) (s.takeStep die 5))

/-- Frames admitted from tickets, and barrow entries, of a cluster (R439). -/
def State.occupancy (s : State) (die cl : Nat) : Nat :=
  ((List.range 4).map fun p =>
    let k := s.core (clusterCore die cl p)
    (k.wins ++ k.spilled).countP (fun w => w.adm && decide (w.fr.kind = .plain)) + k.barrow.length).foldr (· + ·) 0

/-- The occupancy counts are refreshed every 16 ticks (R439). -/
def execOccupancyRefresh (die : Nat) (s : State) : Out :=
  if s.tick.toNat % 16 = 0 then
    .next (s.modExch die fun e => { e with occ := (List.range 48).map fun cl => (cl, s.occupancy die cl) })
  else .next s

/-- The Exchange status register (R436). -/
def Exchange.status (e : Exchange) : W64 :=
  BitVec.ofNat 64 (Nat.min e.parked 8192 + Nat.min e.camUsed 2048 * 2 ^ 14 + Nat.min e.edgesUsed 16384 * 2 ^ 26 + e.stall * 2 ^ 41)

/-- A read of the Exchange status register answers its value and clears STALL (R18, R436). -/
def execExchangeStatusRead (die : Nat) (s : State) : Out :=
  .next { s.modExch die fun e => { e with stall := 0 } with fwRead := [(s.exch die).status] }

/-! ### Walks (R440 to R444) -/

/-- Vector registers of VWIN (R402). -/
def vwinCount (v : Nat) : Nat := if v = 0 then 0 else if v = 1 then 8 else 16

/-- The conditions of R406 besides THR and the boundary. -/
def Core.canTake (k : Core) (i : Inst) : Bool :=
  k.canPush (vwinCount (imgVwin i.image.toNat)) && (k.bal i.ctx).isSome
    && (decide (imgAwn i.image.toNat = 0) || decide (k.claims.length < 32))

/-- Entries by effective priority, highest first, then by arrival (R168). -/
def barrowPut (b : BarrowEntry) : List BarrowEntry → List BarrowEntry
  | [] => [b]
  | c :: r => if b.prio ≤ c.prio then c :: barrowPut b r else b :: c :: r

/-- The barrow has room for a walk in tick `t`: an entry that freed in this tick serves those of the next (R168, R444). -/
def Core.barrowRoom (k : Core) (t : Nat) : Bool :=
  decide (k.barrow.length + (if k.freed.1 = t + 1 then k.freed.2 else 0) < 16)

/-- Entries leave the barrow in tick `t` (R444). -/
def Core.freeBarrow (k : Core) (t : Nat) (l : List BarrowEntry) : Core :=
  { k with
    barrow := l
    freed := (t + 1, (if k.freed.1 = t + 1 then k.freed.2 else 0) + (k.barrow.length - l.length)) }

/-- The instance enters a barrow (R168, R440). -/
def State.intoBarrow (s : State) (core die : Nat) (i : Inst) : State :=
  (s.modCore core fun k => { k with barrow := barrowPut ⟨i.id, die, i.prio, s.tick.toNat⟩ k.barrow }).modExch die fun e =>
    e.modInst i.id fun i => { i with st := .waiting }

/-- A bounce from a core: its count rises, its radius doubles at every third, and the walk turns back (R442). -/
def State.bounce (s : State) (w : MeshWalk) (i : Inst) : State :=
  let n := i.bounces + 1
  let s := s.modExch w.xdie fun e => e.modInst i.id fun i =>
    { i with
      st := .walking
      bounces := n
      radius := if n % 3 = 0 ∧ !i.fixed then Nat.min 7 (Nat.max 1 (2 * w.radius)) else i.radius }
  { s with walks := s.walks ++ [{ w with back := true, start := s.tick.toNat }] }

/-- The tick in which an outward walk visits the core it stands at (R440). -/
def MeshWalk.due (w : MeshWalk) : Nat := w.start + 2 + w.row + w.col

def MeshWalk.core (w : MeshWalk) : Nat := w.die * 192 + w.row * 16 + w.col

/-- Another walk is tested at the same core before this one (R444). -/
def State.walkBefore (s : State) (k : Nat) (w : MeshWalk) : Bool :=
  let prio (v : MeshWalk) : Nat := (((s.exch v.xdie).inst v.inst).map Inst.prio).getD 0
  (List.range s.walks.length).any fun j =>
    match s.walks[j]? with
    | some v => !v.back && decide (j ≠ k) && decide (v.core = w.core)
        && (decide (v.due < w.due) || (decide (v.due = w.due) && (decide (prio w < prio v) || (decide (prio v = prio w) && decide (j < k)))))
    | none => false

/-- The distance of a walk from its target (R440). -/
def MeshWalk.dist (w : MeshWalk) : Nat := (w.trow - w.row) + (w.row - w.trow) + (w.tcol - w.col) + (w.col - w.tcol)

/-- The next core of the path (R440). -/
def MeshWalk.hop (w : MeshWalk) : MeshWalk :=
  if w.row = 0 ∧ w.col < w.tcol then { w with col := w.col + 1 } else { w with row := w.row + 1 }

/-- A walk visits a core: it is taken, enters the barrow at its target, bounces there, or moves on (R440, R441, R462,
R482). -/
def execWalkHop (k : Nat) (s : State) : Out :=
  match s.walks[k]? with
  | none => .next s
  | some w =>
    if w.back || s.tick.toNat < w.due || s.walkBefore k w then .next s
    else
      let gone : State := { s with walks := s.walks.eraseIdx k }
      match (s.exch w.xdie).inst w.inst with
      | none => .next gone
      | some i =>
        let n := w.core
        let target := decide (w.row = w.trow) && decide (w.col = w.tcol)
        let inside := decide (w.dist ≤ w.radius)
        let asleep := s.retained (clusterOf n)
        let s1 := if inside then gone.wakeCluster (clusterOf n) else gone
        let c := s.core n
        if !s.holds? i.ctx then .next gone
        else if s.frozen i.ctx then .next (s1.bounce w i)
        else if inside && !asleep && i.allows n && ((c.wins.isEmpty || decide (c.thr < i.prio)) && c.canTake i
            && c.barrowRoom s.tick.toNat) then .next (s1.intoBarrow n w.xdie i)
        else if !target then .next { s1 with walks := s.walks.set k w.hop }
        else if i.fixed && (c.bal i.ctx).isNone then
          .next (s1.contextFatal i.ctx (FaultInfo.plain cBUFFER 6) { FaultAt.none with core := n })
        else if !asleep && c.barrowRoom s.tick.toNat && i.allows n && (c.bal i.ctx).isSome then
          .next (s1.intoBarrow n w.xdie i)
        else .next (s1.bounce w i)

/-- A bounced instance is back at its Exchange, at the tail of its queue (R442). -/
def execBounceReturn (k : Nat) (s : State) : Out :=
  match s.walks[k]? with
  | none => .next s
  | some w =>
    if !w.back || s.tick.toNat < w.start + w.row + w.col then .next s
    else .next ({ s with walks := s.walks.eraseIdx k }.intoQueue w.xdie (s.tick.toNat + 1) w.inst)

/-- An instance that has waited BELL ticks in a barrow bounces, unless it is pinned or names an awning (R443). -/
def execBarrowTimeout (core k : Nat) (s : State) : Out :=
  match (s.core core).barrow[k]? with
  | none => .next s
  | some b =>
    let e := s.exch b.xdie
    match e.inst b.inst with
    | none => .next (s.modCore core fun c => { c with barrow := c.barrow.eraseIdx k })
    | some i =>
      if i.fixed || s.tick.toNat < b.since + e.bell then .next s
      else
        let w : MeshWalk :=
          ⟨i.id, b.xdie, dieOf core, rowOf core, colOf core, rowOf core, colOf core, i.walkRadius, true, s.tick.toNat⟩
        .next ((s.modCore core fun c => c.freeBarrow s.tick.toNat (c.barrow.eraseIdx k)).bounce w i)

end Sys2Proof.Machine
end

