-- ==== Sys2Proof/Machine/Admission.lean ====
section
/-! DEFINITION. Admission.lean: admission of tickets and handlers (R163, R357, R398, R406, R407, R412, R418, R419, R454,
R455) and the delivery of REFUSED traps (R453). -/

namespace Sys2Proof.Machine

/-! ### The boundary (R212) -/

/-! ### Candidates (R406, R418, R419) -/

/-- What a core may admit: the ticket at the head of its barrow, or a waiting handler by its place. -/
inductive Cand where
  | ticket (b : BarrowEntry) (i : Inst)
  | handler (k : Nat) (w : Waiting)
  deriving DecidableEq, Repr

def Cand.prio : Cand → Nat
  | .ticket b _ => b.prio
  | .handler _ w => w.prio

def Cand.ctx : Cand → Ctx
  | .ticket _ i => i.ctx
  | .handler _ w => w.ctx

/-- A row handler; every other waiting handler is admitted as a landing handler is (R419, R454). -/
def Waiting.isRow (w : Waiting) : Bool :=
  match w.kind with
  | .row _ _ => true
  | _ => false

/-- The conditions of R406 for a candidate. -/
def State.admits (s : State) (core : Nat) (c : Cand) : Bool :=
  let k := s.core core
  (k.wins.isEmpty || decide (k.thr < c.prio)) && !s.frozen c.ctx && (k.bal c.ctx).isSome && (match c with
    | .ticket _ i => k.canTake i
    | .handler _ w => k.canPush (vwinCount w.vw))

/-- The candidates of a boundary that satisfy R406: the older of two handlers of a priority first, handlers before the
barrow head (R419). -/
def State.candidates (s : State) (core : Nat) : List Cand :=
  let k := s.core core
  let hs := (List.range k.waiting.length).filterMap fun n => (k.waiting[n]?).map fun w => (n, w)
  let land := hs.find? fun p => !p.2.isRow
  let row := hs.find? fun p => p.2.isRow
  let handlers := (land.toList ++ row.toList).map fun p => Cand.handler p.1 p.2
  let handlers := match handlers with
    | [.handler a v, .handler b w] => if b < a then [.handler b w, .handler a v] else handlers
    | l => l
  let head := match k.barrow.head? with
    | some b => match (s.exch b.xdie).inst b.inst with
      | some i => [Cand.ticket b i]
      | none => []
    | none => []
  (handlers ++ head).filter (s.admits core)

/-- The candidate of highest effective priority (R419). -/
def bestCand : List Cand → Option Cand
  | [] => none
  | c :: r => match bestCand r with
    | none => some c
    | some d => if c.prio < d.prio then some d else some c

/-! ### The window (R163, R407) -/

/-- The serials of a context's instances on the device: of their windows, saved ones too, and of what still carries them (R455). -/
def State.liveSerials (s : State) (x : Ctx) : List (BitVec 32) :=
  let of (l : List Frame) : List (BitVec 32) := (l.filter fun f => f.ctx = x).map Frame.serial
  (s.cores.flatMap fun (p : Nat × Core) => of (p.2.windows.map Window.fr) ++ of (p.2.jrn.map JEntry.fr)
      ++ of (p.2.copies.map CopyJob.fr) ++ of (p.2.mjobs.map MJob.fr))
    ++ s.saves.flatMap fun (p : Nat × SaveArea) => of (p.2.wins.map Window.fr) ++ of (p.2.refused.map JEntry.fr)
      ++ of (p.2.copies.map CopyJob.fr) ++ of (p.2.mjobs.map MJob.fr)

/-- The ticket serial of the next admission of a context: the next one that no live instance has (R455). -/
def State.serialOf (s : State) (x : Ctx) : BitVec 32 :=
  let live := s.liveSerials x
  let next := match s.ctxRec x with
    | some r => r.nextSerial
    | none => 0
  match (List.range (live.length + 1)).find? fun i => !live.contains (next + BitVec.ofNat 32 i) with
  | some i => next + BitVec.ofNat 32 i
  | none => next

/-- The serial of an admission is used. -/
def State.useSerial (s : State) (x : Ctx) (serial : BitVec 32) : State :=
  match s.ctxRec x with
  | some r => s.setCtx x { r with nextSerial := serial + 1 }
  | none => s

/-- The window of an admission (R163). -/
def admitWindow (wid thr n : Nat) (entry : W64) (fr : Frame) (payload : List Byte) : Window :=
  { wid := wid
    s := Vector.ofFn fun i => if i.val < 4 then fr.args.getD i.val 0 else 0
    p := 0
    m := Vector.replicate 8 0
    k := Vector.replicate 8 Key.zero
    v := (List.range n).map fun i => BitVec.ofNat 2048 (leNat (sliceBytes payload (256 * i) 256))
    drg := 0
    nxt := 0
    byt := 0
    hnde := 0
    flg := 0
    pthr := thr
    rpc := 0
    callw := false
    svc := false
    adm := true
    pc := entry
    park := none
    fresh := false
    fr := fr }

/-- Steps 1 to 3 of R407: the window is pushed, THR becomes the effective priority, the vector level starts afresh (R172). -/
def State.pushTask (s : State) (core n : Nat) (entry : W64) (fr : Frame) (payload : List Byte) : State :=
  let k := s.core core
  let thr := if k.wins.isEmpty then 0 else k.thr
  match k.push (admitWindow s.nextId thr n entry fr payload) with
  | none => s
  | some k =>
    let k := { k with thr := fr.lvl, levels := vmod fr.lvl (fun l => { l with bpos := 0, carry := 0 }) k.levels }
    ({ s.setCore core k with nextId := s.nextId + 1 }).useSerial fr.ctx fr.serial

/-- The acquire of a footprint's read ranges (R398). -/
def Core.acquireFoot (k : Core) (x : Ctx) (foot : List Range) : Core :=
  (foot.filter fun r => !r.wr).foldl (fun k r => k.l1Drop x (lineMeets r.region r.base (r.base + r.ngr * 4096))) k

/-- The admission claim acts as CLAIM with the admission window's depth; a CEIL of 7 raises PRIV in a frame that is no SYS ticket
(R359, R412). -/
def State.admitClaim (s : State) (core : Nat) (x : Ctx) (awn : Nat) : State :=
  if awn = 0 then s
  else match (s.core core).awnIdx x awn, (s.core core).wins.head? with
    | some i, some w =>
      if ((s.core core).awn i).ceil = 7 ∧ !w.sys then
        { { s with cur := core }.takeFault (FaultInfo.plain cPRIV 0) with cur := s.cur }
      else s.modCore core fun k => k.claimAwn i w.wid
    | _, _ => s.contextFatal x ⟨cCLAIM, 6, 0, awn⟩ { FaultAt.none with core := core }

/-- The shape record of a launch is copied in and the admission claim is made; a core whose allocation does not cover the record ends
the context (R357, R412). -/
def State.copyShape (s : State) (core : Nat) (x : Ctx) (awn : Nat) (shape : Option (Nat × List Byte)) : State :=
  match shape with
  | none => s.admitClaim core x awn
  | some (o, bs) =>
    if (s.core core).covers x 3 o 64 then (s.modCore core fun k => k.bufWrite 3 o (bs.map some)).admitClaim core x awn
    else s.fatalAt x cBUFFER 6 0 o core

def frameOf (s : State) (b : BarrowEntry) (i : Inst) : Frame :=
  let img := i.image.toNat
  { ctx := i.ctx
    tkt := BitVec.ofNat 64 i.tkt
    pri := imgPrio img
    lvl := b.prio
    serial := s.serialOf i.ctx
    rank := BitVec.ofNat 32 i.rank
    fansz := BitVec.ofNat 32 i.fansz
    sys := imgSys img
    inst := i.id
    xdie := b.xdie
    origin := i.origin
    kind := .plain
    args := [imgArg img 0, imgArg img 1, imgArg img 2, imgArg img 3] }

/-- Admission of the barrow head (R407). -/
def State.admitTicket (s : State) (core : Nat) (b : BarrowEntry) (i : Inst) : State :=
  let img := i.image.toNat
  let s := (s.modCore core fun k => k.freeBarrow s.tick.toNat k.barrow.tail).modExch b.xdie fun e =>
    e.modInst i.id fun i => { i with st := .running }
  let s := s.pushTask core (vwinCount (imgVwin img)) (imgEntry img) (frameOf s b i) []
  let s := s.modCore core fun k => k.acquireFoot i.ctx i.foot
  s.copyShape core i.ctx (imgAwn img) i.shape

def handlerFrame (s : State) (w : Waiting) : Frame :=
  { ctx := w.ctx
    tkt := 0
    pri := w.prio
    lvl := w.prio
    serial := s.serialOf w.ctx
    rank := 0
    fansz := 1
    sys := false
    inst := 0
    xdie := 0
    origin := w.origin
    kind := w.kind
    args := w.args }

/-- Admission of a handler; a landing packet is then its handler's (R148, R418). -/
def State.admitHandler (s : State) (core k : Nat) (w : Waiting) : State :=
  let s := s.modCore core fun c =>
    let c := { c with waiting := c.waiting.eraseIdx k }
    match w.kind with
    | .landing job n => c.modJob job fun j =>
        { j with packets := j.packets.map fun p => if p.k = n then { p with st := .handler } else p }
    | _ => c
  s.pushTask core (vwinCount w.vw) w.entry (handlerFrame s w) w.payload

/-- Admission of a candidate (R407, R418). -/
def State.admitCand (s : State) (core : Nat) : Cand → State
  | .ticket b i => s.admitTicket core b i
  | .handler k w => s.admitHandler core k w

/-- At an admission boundary a core admits one candidate (R407, R419). -/
def execAdmission (core : Nat) (s : State) : Out :=
  if !s.boundary core then .next s
  else match bestCand (s.candidates core) with
    | none => .next s
    | some c => .next (s.admitCand core c)

/-! ### REFUSED traps (R453) -/

/-- The instruction a frame is parked at will be issued again: what it had begun is forgotten (R453). -/
def Core.unpark (k : Core) (w : Window) : Core :=
  { k with
    wins := k.wins.map fun v => if v.wid = w.wid then { v with park := none } else v
    pend := k.pend.filter fun p => !(p.kind = .spawn && p.wid = w.wid) }

/-- The first pending trap of the instance on top is delivered, if there is one (R453). -/
def State.trapOf (s : State) (core : Nat) : Option State :=
  match s.topOf core with
  | none => none
  | some w =>
    match (s.core core).traps.find? fun t => t.fr.same w.fr with
    | none => none
    | some t =>
      if s.frozen w.fr.ctx then none
      else
        let s0 := s.modCore core fun k => { k.unpark w with traps := k.traps.filter fun u => decide (u ≠ t) }
        some { { s0 with cur := core }.deliver ⟨cREFUSED, 2, 0, t.idx⟩ true with cur := s.cur }

/-- A boundary at which no ticket is admitted delivers the first pending trap of the instance on top (R453). -/
def execRefusedTrapDelivery (core : Nat) (s : State) : Out :=
  if !s.boundary core || (bestCand (s.candidates core)).isSome then .next s
  else .next ((s.trapOf core).getD s)

end Sys2Proof.Machine
end

