-- ==== Sys2Proof/Machine/SaveArea.lean ====
section
/-! DEFINITION. SaveArea.lean: a per-core save area as the bytes that R464 lays out in region 0xFF, written by CTXSAVE and NISPILL
and read back by CTXLOAD (R381 to R384, R153, R464, R506). -/

namespace Sys2Proof.Machine

/-! ### The image of a save area (R464) -/

/-- The header. -/
def SaveArea.head (a : SaveArea) : List Byte :=
  natBytes 8 (a.ctx.toNat + a.dev % 2 ^ 11 * 2 ^ 16 + dieOf a.core % 4 * 2 ^ 27 + a.core % 192 * 2 ^ 29 + 2 ^ 37)
  ++ natBytes 8 (a.wins.length % 2 ^ 8 + a.copies.length * 2 ^ 8 + a.mjobs.length * 2 ^ 14 + a.claims.length * 2 ^ 21
      + a.msgs.length * 2 ^ 32)
  ++ [a.bytes, a.offJ, a.offM, a.offO, a.offB, a.bytes].flatMap (natBytes 8)

/-- BAL (R157). -/
def Bal.image (b : Bal) : Nat :=
  b.wbase + b.wend * 2 ^ 8 + b.abase * 2 ^ 16 + b.aend * 2 ^ 24 + b.sbase * 2 ^ 32 + b.send * 2 ^ 40
    + b.cmask.toNat * 2 ^ 48 + bit b.v * 2 ^ 63 + b.ctx.toNat * 2 ^ 64

def CellMode.num : CellMode → Nat
  | .f2 => 0
  | .i64 => 1
  | .ci32 => 2

/-- The tile record (R317). -/
def CtxCore.tileImage (c : CtxCore) : Nat :=
  c.tileL + ((List.range 8).map fun t => c.tileMap.getD t 0 % 8 * 2 ^ (4 + 3 * t)
    + CellMode.num (c.lmode.getD t .f2) * 2 ^ (28 + 2 * t)).foldr (· + ·) 0

/-- An awning record (R169). -/
def Awn.image (a : Awn) : Nat :=
  bit a.v + a.id % 256 * 2 + a.ceil % 8 * 2 ^ 9 + a.ctx.toNat * 2 ^ 12 + bit a.held * 2 ^ 28

/-- The level record (R319): the job in progress is the oldest of its level. -/
def levelImage (l : Nat) (v : Level) (js : List MJob) : Nat :=
  CellMode.num v.dmode + (match js.find? fun j => j.fr.lvl = l with
    | some j => bit j.act * 4 + bit j.held * 8 + j.cur * 16
    | none => 0)

/-- The job record of a copy job (R153). -/
def SaveArea.jobImage (a : SaveArea) (j : CopyJob) : List Byte :=
  let key (e : End) : Nat := match e.key with
    | some k => k.bits.toNat
    | none => 0
  let keyNo (e : End) : Nat := if e.kind = 2 then e.keyNo else 0
  let chains := ((a.copies.map CopyJob.chain).filter fun c => c != 0).eraseDups
  let chid := match findAt (fun c => decide (c = j.chain)) chains with
    | some p => p.1 + 1
    | none => 0
  let done := 256 * j.counted
  let chn := if j.chain = 0 then 1 else a.copies.countP fun o => o.chain = j.chain
  natBytes 8 j.dst.off ++ natBytes 8 j.src.off
  ++ natBytes 16 (j.len - 1 + j.dst.kind * 2 ^ 24 + j.src.kind * 2 ^ 27 + keyNo j.dst * 2 ^ 30
      + keyNo j.src * 2 ^ 33 + bit j.xf * 2 ^ 36 + j.hpri * 2 ^ 37)
  ++ natBytes 16 (key j.dst) ++ natBytes 16 (key j.src)
  ++ natBytes 8 (done + j.fr.pri * 2 ^ 25 + chid % 256 * 2 ^ 28)
  ++ natBytes 8 j.nxt.toNat ++ natBytes 8 j.byt.toNat
  ++ natBytes 8 ((j.len - done) + chn * 2 ^ 25)

def MJob.image (j : MJob) : List Byte :=
  natBytes 16 j.word.toNat ++ natBytes 8 j.nxt.toNat ++ natBytes 8 j.byt.toNat ++ natBytes 16 j.fr.lvl
  ++ natBytes 16 (match j.op with
    | .passr _ _ _ _ _ _ k => k.bits.toNat
    | _ => 0)

/-- Section 9: the issue order of jobs across both engines. -/
def SaveArea.order (a : SaveArea) : List (Nat × Byte) :=
  let cs := (List.range a.copies.length).map fun i => (((a.copies[i]?).map CopyJob.tid).getD 0, BitVec.ofNat 8 i)
  let ms := (List.range a.mjobs.length).map fun i => (((a.mjobs[i]?).map MJob.tid).getD 0, BitVec.ofNat 8 (128 + i))
  sortBy (fun p q => decide (p.1 ≤ q.1)) (cs ++ ms)

/-- A ring's record; gets that are satisfied but wait for the trestle are among its gets (R126). -/
def ringImage (r : Ring) : List Byte :=
  let nxts (l : List Get) : List Byte := sliceBytes (l.flatMap fun g => natBytes 8 g.nxt.toNat) 0 64
  natBytes 8 r.rdc.toNat ++ natBytes 8 r.rdp.toNat
  ++ natBytes 8 (r.fgc % 128 + (r.held ++ r.gets).length * 2 ^ 7 + (r.fheld ++ r.fgets).length * 2 ^ 14)
  ++ (match r.stream with
    | some t =>
      natBytes 8 (bit t.viaKey.isSome) ++ natBytes 16 (match t.viaKey with | some k => k.bits.toNat | none => t.base)
        ++ natBytes 16 t.next
    | none => natBytes 40 0)
  ++ nxts (r.held ++ r.gets) ++ nxts (r.fheld ++ r.fgets)
  ++ natBytes 64 (match r.stream with | some t => t.shape.toNat | none => 0)

def windowImage (w : Window) : List Byte :=
  natBytes 8 (w.fr.serial.toNat + w.fr.pri % 8 * 2 ^ 32 + bit w.adm * 2 ^ 35) ++ natBytes 8 w.pc.toNat
  ++ natBytes 8 w.fr.rank.toNat ++ natBytes 8 w.fr.fansz.toNat ++ natBytes 32 w.flg.toNat ++ w.toBytes

/-- Zero bytes up to an offset. -/
def padTo (n : Nat) (bs : List Byte) : List Byte := bs ++ List.replicate (n - bs.length) 0

/-- A message record of section 11. -/
def Msg.image (m : Msg) : List Byte := natBytes 32 (m.kind % 16) ++ natBytes 32 m.head.toNat ++ sliceBytes m.payload 0 256

/-- The save area as bytes (R464). -/
def SaveArea.image (a : SaveArea) : List Byte :=
  let c := a.cx
  let lev (l : Nat) : Level := tabGet Level.zero l a.levels
  let b := padTo 0x040 a.head
  let b := padTo 0x0C0 (b ++ [c.seqcDone.toNat + c.seqcIssued.toNat * 2 ^ 32, c.seqmDone.toNat + c.seqmIssued.toNat * 2 ^ 32,
      (vget 0 c.mxc 0).toNat, (vget 0 c.mxc 1).toNat, (vget 0 c.mxc 2).toNat, (vget 0 c.mxc 3).toNat, c.cflg.toNat].flatMap
        (natBytes 8) ++ natBytes 16 ((a.bal.map Bal.image).getD 0) ++ natBytes 8 c.tileImage)
  let b := b ++ (List.range 8).flatMap fun l => natBytes 8 (levelImage l (lev l) a.mjobs)
      ++ natBytes 4 (lev l).bpos ++ natBytes 20 (lev l).carry.toNat
  let b := b ++ (List.range 32).flatMap fun i => natBytes 8 (tabGet Awn.zero i a.awns).image
  let b := padTo 0x3C0 (b ++ a.claims.flatMap fun m => natBytes 8 (m.rcd % 32 + m.thr % 8 * 2 ^ 5
      + ((findAt (fun w => decide (w.wid = m.wid)) a.wins).elim 0 Prod.fst) % 64 * 2 ^ 8))
  let b := b ++ (List.range 16).flatMap fun i =>
      let r := tabGet Slot.zero i a.slots
      natBytes 8 r.rgc.toNat ++ natBytes 8 r.base ++ natBytes 8 (r.region.toNat + r.dev % 2 ^ 11 * 2 ^ 8) ++ natBytes 8 r.len
  let b := b ++ (List.range 16).flatMap fun i => ringImage (tabGet Ring.zero i a.rings)
  let b := padTo a.offJ (b ++ a.wins.flatMap windowImage)
  let b := padTo a.offM (b ++ a.copies.flatMap a.jobImage)
  let b := padTo a.offO (b ++ a.mjobs.flatMap MJob.image)
  let b := padTo a.offB (b ++ a.order.map Prod.snd)
  let b := padTo a.bytes (b ++ (match a.bal with
    | none => []
    | some l =>
      memRead a.bufW (l.wbase * 4096) ((l.wend - l.wbase) * 4096) ++ memRead a.bufA (l.abase * 4096) ((l.aend - l.abase) * 4096)
        ++ memRead a.bufS (l.sbase * 4096) ((l.send - l.sbase) * 4096)
        ++ ((List.range 8).filter fun i => l.cmask.getLsbD i).flatMap fun t =>
            (List.range 4096).flatMap fun i => natBytes 8 (tabGet (0 : W64) (t * 4096 + i) a.bufC).toNat))
  b ++ a.msgs.flatMap Msg.image

/-! ### An area read back (R383, R464)

Everything that R464 lays out is taken from the bytes. What it does not lay out (log 51) is taken from the save the bytes come from, if
there is one, and is a free value otherwise. -/

/-- `n` bytes at an offset as a number. -/
def fieldAt (bs : List Byte) (o n : Nat) : Nat := leNat (sliceBytes bs o n)

/-- `n` elements: those at hand, then blanks. -/
def fillTo {α : Type} (n : Nat) (blank : Nat → α) (l : List α) : List α := (List.range n).map fun i => l.getD i (blank i)

def CellMode.ofNum : Nat → CellMode
  | 1 => .i64
  | 2 => .ci32
  | _ => .f2

def Bal.ofImage (n : Nat) : Bal :=
  { v := decide (bitsOf n 63 63 = 1)
    ctx := BitVec.ofNat 16 (bitsOf n 79 64)
    wbase := bitsOf n 7 0
    wend := bitsOf n 15 8
    abase := bitsOf n 23 16
    aend := bitsOf n 31 24
    sbase := bitsOf n 39 32
    send := bitsOf n 47 40
    cmask := BitVec.ofNat 8 (bitsOf n 55 48) }

/-- Section 1: the registers of a context (R464), its tile record among them (R317). -/
def CtxCore.ofImage (c : CtxCore) (bs : List Byte) : CtxCore :=
  let d (i : Nat) : Nat := fieldAt bs (0x040 + 8 * i) 8
  let t := fieldAt bs 0x088 8
  { c with
    seqcDone := BitVec.ofNat 32 (d 0)
    seqcIssued := BitVec.ofNat 32 (d 0 / 2 ^ 32)
    seqmDone := BitVec.ofNat 32 (d 1)
    seqmIssued := BitVec.ofNat 32 (d 1 / 2 ^ 32)
    mxc := Vector.ofFn fun i => BitVec.ofNat 64 (d (2 + i.val))
    cflg := BitVec.ofNat 7 (d 6)
    tileL := bitsOf t 3 0
    tileMap := (List.range (bitsOf t 3 0)).map fun i => bitsOf t (6 + 3 * i) (4 + 3 * i)
    lmode := (List.range (bitsOf t 3 0)).map fun i => CellMode.ofNum (bitsOf t (29 + 2 * i) (28 + 2 * i)) }

/-- Section 2: the state of level `l`. -/
def Level.ofImage (bs : List Byte) (l : Nat) : Level :=
  ⟨CellMode.ofNum (fieldAt bs (0x0C0 + 32 * l) 8 % 4), fieldAt bs (0x0C8 + 32 * l) 4 % 32, BitVec.ofNat 32 (fieldAt bs (0x0CC + 32 * l) 4)⟩

/-- Section 3: awning record `i`. -/
def Awn.ofImage (bs : List Byte) (i : Nat) : Awn :=
  let n := fieldAt bs (0x1C0 + 8 * i) 8
  ⟨decide (bitsOf n 0 0 = 1), bitsOf n 8 1, bitsOf n 11 9, BitVec.ofNat 16 (bitsOf n 27 12), decide (bitsOf n 28 28 = 1)⟩

/-- Section 3: a claim entry. -/
def claimOfImage (ws : List Window) (n : Nat) : Claim :=
  ⟨bitsOf n 4 0, bitsOf n 7 5, ((ws[bitsOf n 13 8]?).map Window.wid).getD 0⟩

/-- Section 4: range slot `i` (R171). -/
def Slot.ofImage (x : Ctx) (bs : List Byte) (i : Nat) : Slot :=
  let d (j : Nat) : Nat := fieldAt bs (0x3C0 + 32 * i + 8 * j) 8
  { cnt := bitsOf (d 0) 15 0
    v := decide (bitsOf (d 0) 16 16 = 1)
    ctx := x
    region := BitVec.ofNat 8 (d 2)
    dev := bitsOf (d 2) 18 8
    base := d 1
    len := d 3 }

/-- A frame of which an area tells no more than its bytes hold. -/
def blankFrame (x : Ctx) : Frame := { probeFrame with ctx := x, pri := 0, lvl := 0, sys := false }

/-- The gets of a ring with the successors that the area holds for the first eight; `top` is one more than the newest index. -/
def reloadGets (x : Ctx) (bs : List Byte) (o n top : Nat) (l : List Get) : List Get :=
  (fillTo n (fun i => ⟨top + i - n, 0, blankFrame x, 0, 0⟩) l).mapIdx fun i g =>
    if i < 8 then { g with nxt := BitVec.ofNat 64 (fieldAt bs (o + 8 * i) 8) } else g

/-- Section 5: ring `i`. -/
def Ring.ofImage (r : Ring) (x : Ctx) (free : Nat) (bs : List Byte) (i : Nat) : Ring :=
  let o := 0x5C0 + 256 * i
  let p := fieldAt bs (o + 8) 8
  let c := fieldAt bs (o + 16) 8
  let gets := reloadGets x bs (o + 64) (bitsOf c 13 7) (bitsOf p 25 19) (r.held ++ r.gets)
  let fgets := reloadGets x bs (o + 128) (bitsOf c 20 14) (c % 128) (r.fheld ++ r.fgets)
  let t := r.stream.getD ⟨0, BitVec.ofNat 8 (Config.freeNat free), 0, none, Config.freeNat (free + 1), Config.freeNat (free + 2), 0,
    blankFrame x, 0, []⟩
  let key := decide (fieldAt bs (o + 24) 8 % 2 = 1)
  { r with
    rdc := BitVec.ofNat 64 (fieldAt bs o 8)
    wp := bitsOf p 5 0
    rp := bitsOf p 11 6
    cnt := bitsOf p 18 12
    gc := bitsOf p 25 19
    bound := decide (bitsOf p 26 26 = 1)
    eos := decide (bitsOf p 27 27 = 1)
    ovf := decide (bitsOf p 28 28 = 1)
    seq := BitVec.ofNat 32 (p / 2 ^ 32)
    fgc := c % 128
    held := gets.take r.held.length
    gets := gets.drop r.held.length
    fheld := fgets.take r.fheld.length
    fgets := fgets.drop r.fheld.length
    stream := if bitsOf p 26 26 = 1 then
        some { t with
          base := if key then t.base else fieldAt bs (o + 32) 8
          viaKey := if key then some ⟨BitVec.ofNat 128 (fieldAt bs (o + 32) 16), true⟩ else none
          next := fieldAt bs (o + 48) 8
          shape := BitVec.ofNat 512 (fieldAt bs (o + 192) 64) }
      else none }

/-- Section 6: a window after its header at offset `o` (R165). -/
def Window.ofImage (w : Window) (bs : List Byte) (o : Nat) : Window :=
  let h := fieldAt bs o 8
  let vn := [0, 8, 16].getD (bitsOf (fieldAt bs (o + 72) 8) 17 16) 0
  let v := w.ofBytes (sliceBytes bs (o + 64) (384 + 256 * vn))
  { v with
    adm := decide (bitsOf h 35 35 = 1)
    pc := BitVec.ofNat 64 (fieldAt bs (o + 8) 8)
    flg := BitVec.ofNat 7 (fieldAt bs (o + 32) 8)
    fr := { v.fr with
      serial := BitVec.ofNat 32 h
      pri := bitsOf h 34 32
      rank := BitVec.ofNat 32 (fieldAt bs (o + 16) 8)
      fansz := BitVec.ofNat 32 (fieldAt bs (o + 24) 8) } }

/-- A window of which an area tells no more than its bytes hold: its effective priority is that of its header. -/
def blankWindow (x : Ctx) (wid : Nat) (bs : List Byte) (o : Nat) : Window :=
  let w := Window.ofImage { probeWindow with wid := wid, v := [], fr := blankFrame x } bs o
  { w with fr := { w.fr with lvl := w.fr.pri } }

/-- `n` windows from the bottom, those at hand first. -/
def reloadWins (x : Ctx) (bs : List Byte) (id : Nat) : Nat → Nat → List Window → List Window
  | 0, _, _ => []
  | n + 1, o, ws =>
    let w := match ws.head? with
      | some w => w.ofImage bs o
      | none => blankWindow x (id + n) bs o
    w :: reloadWins x bs id n (o + 64 + w.frameSize) ws.tail

/-- A copy job of which an area tells no more than its record: the region of memory endpoints and HNDE are in none (R153). -/
def blankJob (x : Ctx) (id free : Nat) : CopyJob :=
  let e (f : Nat) : End := ⟨0, 0, BitVec.ofNat 8 (Config.freeNat f), none, 0, 0⟩
  { tid := id
    ctx := x
    fr := blankFrame x
    stamp := 0
    dst := e free
    src := e (free + 1)
    len := 0
    xf := false
    hpri := 0
    hnde := Config.free64 free
    nxt := 0
    byt := 0
    chain := 0
    started := false
    issued := 0
    packets := []
    counted := 0
    tags := [] }

/-- Section 7: a copy job from its record (R153, R154); its chain is that of its CHID, numbered from `id`. -/
def CopyJob.ofImage (j : CopyJob) (id : Nat) (bs : List Byte) : CopyJob :=
  let c := fieldAt bs 16 16
  let v := fieldAt bs 64 8
  let done := v % 2 ^ 25
  let pri := bitsOf v 27 25
  let ch := bitsOf v 35 28
  let key (kind o : Nat) : Option Key := if kind = 2 then some ⟨BitVec.ofNat 128 (fieldAt bs o 16), true⟩ else none
  { j with
    dst := { j.dst with off := fieldAt bs 0 8, kind := bitsOf c 26 24, keyNo := bitsOf c 32 30, key := key (bitsOf c 26 24) 32 }
    src := { j.src with off := fieldAt bs 8 8, kind := bitsOf c 29 27, keyNo := bitsOf c 35 33, key := key (bitsOf c 29 27) 48 }
    len := bitsOf c 23 0 + 1
    xf := decide (bitsOf c 36 36 = 1)
    hpri := bitsOf c 39 37
    issued := done / 256
    counted := done / 256
    fr := { j.fr with pri := pri, lvl := if j.len = 0 then pri else j.fr.lvl }
    chain := if ch = 0 then 0 else id + ch
    nxt := BitVec.ofNat 64 (fieldAt bs 72 8)
    byt := BitVec.ofNat 64 (fieldAt bs 80 8) }

/-- An endpoint on a ring has the slot after those of the area's earlier jobs there. -/
def End.place (e : End) (rings : List (Nat × Ring)) (before : List CopyJob) : End :=
  if e.kind = 3 then
    let r := tabGet Ring.zero e.off rings
    let n := before.countP fun j => (j.dst.kind = 3 && decide (j.dst.off = e.off)) || (j.src.kind = 3 && decide (j.src.off = e.off))
    { e with slot := r.bufNo * 2 ^ 20 + r.slotAt (r.wp + n) }
  else e

/-- An operation whose record holds no more than its word: operands that came from registers are free (log 51). -/
def freeOp (f : Nat → Nat) : Instr → MOp
  | .mpass _ o => .pass o.ty o.bty (Ty.isCplx o.ty) false ((f 0 % 512 + 1) * 8) (f 1 % 16) (64 / 2 ^ (f 2 % 3)) (f 3) (f 4)
  | .mpassc _ cj o => .pass o.ty o.bty (Ty.isCplx o.ty) cj ((f 0 % 512 + 1) * 8) (f 1 % 16) (64 / 2 ^ (f 2 % 3)) (f 3) (f 4)
  | .mpassr _ ty bty _ _ _ => .passr ty bty ((f 0 % 512 + 1) * 8) (f 1 % 16) (64 / 2 ^ (f 2 % 3)) (f 4) Key.zero
  | .mscale _ _ _ _ => .scale (f 0 % 8) (decide (f 1 % 2 = 1)) (f 2 % 4) (f 3) (f 4 % 4) (f 5)
  | .mdrain _ ty ef hd hpri _ _ =>
    .drain ty (CellMode.ofNum (f 0 % 3)) ef hd hpri.val (f 1 % 64) (f 2 % 64 + 1) (f 3 % 4) (f 4) (f 5 % 8)
  | .mpack _ ty _ _ _ => .pack ty ((f 0 % 512 + 1) * 8) (f 1 % 2 ^ 16) (f 2) (f 3)
  | .mtrn _ ty _ _ _ => .trn (ty.width / 8) ((f 0 % 8 + 1) * 8) ((f 1 % 8 + 1) * 8) (f 2) (f 3)
  | .mcopy _ _ _ => .copy (f 0 % 8)
  | _ => .zero

/-- A matrix job of which an area tells no more than its record. -/
def blankMjob (x : Ctx) (id free : Nat) : MJob :=
  { tid := id, word := 0, ctx := x, fr := blankFrame x, stamp := 0, op := .zero, tile := Config.freeNat free % 8, old := none
    hnde := Config.free64 free, nxt := 0, byt := 0, act := false, held := false, cur := 0, cancel := false, adata := [], rows := []
    counted := 0 }

/-- Section 8: a matrix job. The operation of a job with another word than the one saved is that word's. -/
def MJob.ofImage (j : MJob) (free : Nat) (bs : List Byte) : MJob :=
  let word := BitVec.ofNat 96 (fieldAt bs 0 12)
  let op := if word = j.word then j.op else match decode true 16 word.toNat with
    | .ok i => freeOp (fun n => Config.freeNat (free + n)) i
    | .error _ => .zero
  let lvl := fieldAt bs 32 8 % 8
  { j with
    word := word
    op := match op with
      | .passr ty bty k p m boff key => .passr ty bty k p m boff { key with bits := BitVec.ofNat 128 (fieldAt bs 48 16) }
      | o => o
    fr := { j.fr with lvl := lvl, pri := if j.word = 0 then lvl else j.fr.pri }
    nxt := BitVec.ofNat 64 (fieldAt bs 16 8)
    byt := BitVec.ofNat 64 (fieldAt bs 24 8) }

/-- The job in progress of a level, from its level record (R319). -/
def MJob.reload (bs : List Byte) (js : List MJob) (j : MJob) : MJob :=
  let v := fieldAt bs (0x0C0 + 32 * j.fr.lvl) 8
  if (js.find? fun o => o.fr.lvl = j.fr.lvl) = some j then
    { j with act := decide (bitsOf v 2 2 = 1), held := decide (bitsOf v 3 3 = 1), cur := bitsOf v 12 4 }
  else j

/-- Section 9: jobs numbered in their issue order. -/
def renumber (bs : List Byte) (o id : Nat) (a : SaveArea) : SaveArea :=
  let n := a.copies.length + a.mjobs.length
  let place (b : Nat) : Nat := ((List.range n).find? fun i => fieldAt bs (o + i) 1 = b).getD n + id
  let old := (a.copies.mapIdx fun i j => (j.tid, place i)) ++ a.mjobs.mapIdx fun i j => (j.tid, place (128 + i))
  let new (t : Nat) : Nat := tabGet t t old
  let kind : HKind → HKind
    | .landing t n => .landing (new t) n
    | .row t n => .row (new t) n
    | k => k
  { a with
    copies := a.copies.mapIdx fun i j => { j with tid := place i }
    mjobs := a.mjobs.mapIdx fun i j => { j with tid := place (128 + i) }
    wins := a.wins.map fun w => { w with fr := { w.fr with kind := kind w.fr.kind } }
    waiting := a.waiting.map fun w => { w with kind := kind w.kind }
    trestle := a.trestle.map fun t => { t with tid := new t.tid } }

/-- Section 10: the buffers of the allocation. -/
def SaveArea.buffers (a : SaveArea) (l : Bal) (bs : List Byte) : SaveArea :=
  let nw := (l.wend - l.wbase) * 4096
  let na := (l.aend - l.abase) * 4096
  let ns := (l.send - l.sbase) * 4096
  let ts := (List.range 8).filter fun i => l.cmask.getLsbD i
  { a with
    bufW := memWrite [] (l.wbase * 4096) (sliceBytes bs 0 nw)
    bufA := memWrite [] (l.abase * 4096) (sliceBytes bs nw na)
    bufS := memWrite [] (l.sbase * 4096) (sliceBytes bs (nw + na) ns)
    bufC := (ts.mapIdx fun i t => (List.range 4096).map fun c =>
      (t * 4096 + c, BitVec.ofNat 64 (fieldAt bs (nw + na + ns + 32768 * i + 8 * c) 8))).flatten }

/-- Section 11: a message; how many bytes of the payload it has is its kind's, or in its header (log 21). -/
def msgOfImage (bs : List Byte) : Msg :=
  let kind := fieldAt bs 0 1 % 16
  let head := fieldAt bs 32 32
  let n := if kind = 0 then 8 else if kind = 1 then 64 else bitsOf head 127 64
  { kind := kind, head := BitVec.ofNat 256 head, payload := sliceBytes bs 64 (Nat.min 256 n) }

/-- The indices below `n` at which a test holds, each with its value. -/
def tabulate {α : Type} (n : Nat) (f : Nat → α) (p : α → Bool) : List (Nat × α) :=
  ((List.range n).map fun i => (i, f i)).filter fun q => p q.2

/-- An area from its bytes; `a` is the save they come from, or blank; its new numbers start at `id`, its free values at `free`. -/
def SaveArea.reload (a : SaveArea) (id free : Nat) (bs : List Byte) : SaveArea :=
  let x := a.ctx
  let cnt := fieldAt bs 8 8
  let off (i : Nat) : Nat := fieldAt bs (24 + 8 * i) 8
  let wins := reloadWins x bs (id + 256) (bitsOf cnt 7 0) 0x15C0 a.wins
  let rings := tabulate 16 (fun i => (tabGet Ring.zero i a.rings).ofImage x free bs i) Ring.en
  let copies := (fillTo (bitsOf cnt 13 8) (fun i => blankJob x (id + i) (free + 2 * i)) a.copies).mapIdx fun i j =>
    j.ofImage (id + 512) (sliceBytes bs (off 0 + 96 * i) 96)
  let copies := copies.mapIdx fun i j =>
    { j with dst := j.dst.place rings (copies.take i), src := j.src.place rings (copies.take i) }
  let mjobs := (fillTo (bitsOf cnt 20 14) (fun i => blankMjob x (id + 128 + i) (free + 64 + i)) a.mjobs).mapIdx fun i j =>
    j.ofImage (free + 128 + 8 * i) (sliceBytes bs (off 1 + 64 * i) 64)
  let lvls := wins.map (fun w => w.fr.lvl) ++ mjobs.map fun j => j.fr.lvl
  let bal := Bal.ofImage (fieldAt bs 0x078 16)
  let b : SaveArea := { a with
    cx := a.cx.ofImage bs
    levels := ((List.range 8).filter lvls.contains).map fun l => (l, Level.ofImage bs l)
    awns := tabulate 32 (Awn.ofImage bs) Awn.v
    bal := if bal.v then some bal else none
    slots := tabulate 16 (Slot.ofImage x bs) Slot.v
    rings := rings
    wins := wins
    claims := (List.range (bitsOf cnt 26 21)).map fun i => claimOfImage wins (fieldAt bs (0x2C0 + 8 * i) 8)
    copies := copies
    mjobs := mjobs.map (MJob.reload bs mjobs)
    msgs := (List.range (bitsOf cnt 63 32)).map fun i => msgOfImage (sliceBytes bs (off 4 + 320 * i) 320) }
  let b := renumber bs (off 2) (id + 1024) b
  if bal.v then b.buffers bal (bs.drop (off 3)) else b

/-- Nothing is known of an area but its bytes. -/
def SaveArea.blank (x : Ctx) : SaveArea :=
  { ctx := x, dev := 0, core := 0, wins := [], claims := [], awns := [], bal := none, cx := CtxCore.zero, levels := [], slots := []
    rings := [], copies := [], mjobs := [], trestle := [], refused := [], traps := [], waiting := [], bufW := [], bufA := [], bufS := []
    bufC := [], stags := [], msgs := [] }

/-- A header has been stored at an offset of region 0xFF. -/
def State.areaStands (s : State) (area : Nat) : Bool :=
  (List.range 64).all fun i => s.sysMem.any fun c => decide (c.1 = area + i)

/-- An instance of the context that runs, for a window known by its bytes only. -/
def State.adopt (s : State) (f : Frame) : Frame :=
  let here (d : Nat) : Option Inst := (s.exch d).insts.find? fun i =>
    decide (i.ctx = f.ctx) && decide (i.tkt = f.tkt.toNat) && decide (i.rank = f.rank.toNat) && decide (i.st = .running)
  if f.inst = 0 ∧ f.kind = .plain then
    match (List.range 4).find? fun d => (here d).isSome with
    | some d => { f with inst := (here d).elim 0 Inst.id, xdie := d, origin := (here d).elim none Inst.origin }
    | none => f
  else f

/-- The area of a context at an offset of region 0xFF, as its bytes now stand there (R381, R383): the save whose bytes they are, that of
the offset first; or what can be read from them, with the save of that offset behind it (log 51). None where no header of the context
stands there. -/
def State.areaAt (s : State) (x : Ctx) (area : Nat) : Option SaveArea :=
  let mine := s.saves.filter fun p => decide (p.2.ctx = x)
  let here := mine.filter fun p => decide (p.1 = area)
  if !s.areaStands area then none
  else match (here ++ mine).find? fun p => decide (s.sysBytes area p.2.size = p.2.image) with
    | some p => some p.2
    | none =>
      let head := s.sysBytes area 64
      if fieldAt head 0 2 = x.toNat then
        let a := SaveArea.reload ((here.head?.map Prod.snd).getD (SaveArea.blank x)) s.nextId s.free
          (s.sysBytes area (fieldAt head 56 8 + 320 * (fieldAt head 8 8 / 2 ^ 32)))
        some { a with wins := a.wins.map fun w => { w with fr := s.adopt w.fr } }
      else none

/-- CTXSAVE writes an area (R381, R382). -/
def State.writeArea (s : State) (area : Nat) (a : SaveArea) : State :=
  { s.sysStore area (a.image.map some) with saves := tabPut area a s.saves }

/-- NISPILL writes message records and their number (R384, R464). -/
def State.writeMsgs (s : State) (area : Nat) (ms : List Msg) : State :=
  match s.saves.find? fun p => decide (p.1 = area) || decide (p.1 + p.2.bytes = area) with
  | none => s.sysStore area ((ms.flatMap Msg.image).map some)
  | some (at', a) =>
    let b := { a with msgs := a.msgs ++ ms }
    let s := s.sysStore (at' + 8) (((b.head.drop 8).take 8).map some)
    { s.sysStore (at' + a.size) ((ms.flatMap Msg.image).map some) with saves := tabPut at' b s.saves }

end Sys2Proof.Machine
end

