-- ==== Sys2Proof/Machine/Evict.lean ====
section
/-! DEFINITION. Evict.lean: saving, spilling and restoring a context on a core (R381 to R384, R462 to R465, R506), the
colour cut (R463), and context-fatal faults that other agents report (R456). -/

namespace Sys2Proof.Machine

/-! ### Holding, saving (R381, R382, R506) -/

/-- The core holds X: a buffer allocation or an awning record of it (R506). -/
def Core.holds (k : Core) (x : Ctx) : Bool :=
  (k.bal x).isSome || k.awns.toList.any fun a => a.v && decide (a.ctx = x)

/-- The cores that hold X, in ascending order (R506). -/
def State.holders (s : State) (x : Ctx) : List Nat :=
  sortBy (fun a b => decide (a ≤ b)) ((s.cores.filter fun (p : Nat × Core) => p.2.holds x).map Prod.fst)

/-- The checks of R381; `held` for CTXSAVE and NISPILL. -/
def saveCheck (s : State) (w : Window) (held : Bool) (a b : SReg) : Ex (Ctx × Nat) :=
  let x : Ctx := (w.rdS a).truncate 16
  let area := (w.rdS b).toNat
  if held && !s.me.holds x then .error (FaultInfo.plain cILLEGAL 0)
  else if area % 64 ≠ 0 then .error ⟨cALIGN, 0, 0, area⟩
  else .ok (x, area)

/-- CTXSAVE closes the context's entries and parks its frame (R382). -/
def execCtxsave (h : Hdr) (d a b : SReg) (s : State) : Out :=
  issue h false [.s d] s fun s w =>
    Res.check (saveCheck s w true a b) fun p =>
      .ok ((s.modMe fun k => k.close fun e => decide (e.ctx = p.1)).parkTop (.ctxsave (some d) p.1 p.2))

/-- A packet of this context's jobs that no page fault holds is under way (R153). -/
def State.packetsMove (s : State) (core : Nat) (x : Ctx) : Bool :=
  (s.core core).copies.any fun j => decide (j.ctx = x) && j.packets.any fun p =>
    ((p.st = .flight && !j.xf) || p.st = .put) && !s.engFaulted core (.packet core j.tid p.k)

/-- A porter stands inside an out slot of this context (R137). -/
def State.portersMove (s : State) (core : Nat) (x : Ctx) : Bool :=
  (List.range 16).any fun n =>
    let r := (s.core core).ring n
    r.en && decide (r.ctx = x) && r.isOut && r.midSlot

/-- The waits of steps 1 and 2 of R382 are over: packets performed or held by faults, out slots performed, no matrix job between
two decision points, nor past its last, entries drained, no outstanding result, no waiting send (R137, R153, R321, R462). A drain
whose last row has left the engine waits for its handlers only, which are saved. -/
def State.saveReady (s : State) (core : Nat) (x : Ctx) : Bool :=
  let k := s.core core
  !s.packetsMove core x && !s.portersMove core x
    && !((k.mrun.bind k.mjob).any fun j => decide (j.ctx = x) && (decide (j.cur < j.op.steps) || j.rowsDone))
    && !(k.jrn.any fun e => e.live && decide (e.ctx = x))
    && !(k.pend.any fun p => decide (p.ctx = x) && (p.counts || (match p.kind with
        | .stsc => true
        | .ownStore _ => true
        | _ => false)))
    && !(k.defer.any fun d => decide (d.ctx = x))

/-- A landing handler of a packet at or above DONE (R153). -/
def lateHandler (js : List CopyJob) : HKind → Bool
  | .landing job n => js.any fun j => decide (j.tid = job) && decide (j.counted ≤ n)
  | _ => false

/-- A copy job at its counted frontier (R153). The unit that its first packet still to come shares with the last counted one keeps its
bytes (R147, R154). -/
def CopyJob.rest (j : CopyJob) : CopyJob :=
  { j with
    started := false
    issued := j.counted
    packets := []
    stamp := 0
    seams := j.seams.filter fun (p : Nat × List Byte) => p.1 = j.counted }

/-- A matrix job at its cursor, without fetched lines (R319, R331, R382). -/
def MJob.rest (j : MJob) : MJob := MJob.settle { j with stamp := 0, adata := [] }

/-- A ring at a slot boundary: a slot that its porter has begun is moved again from its start (R137). -/
def Ring.rest (r : Ring) : Ring :=
  let f (g : Get) : Get := { g with stamp := 0 }
  { r with
    gets := r.gets.map f
    fgets := r.fgets.map f
    drop := r.drop.map f
    held := r.held.map f
    fheld := r.fheld.map f
    stream := r.stream.map fun (t : Stream) => { t with row := 0, data := [] } }

/-- Indices and elements of a vector that a test accepts. -/
def pickV {α : Type} {n : Nat} (p : α → Bool) (v : Vector α n) : List (Nat × α) :=
  (v.toList.mapIdx fun i a => (i, a)).filter fun q => p q.2

/-- The bytes of a buffer within an allocation. -/
def Bal.part (b : Bal) (buf : Nat) (m : Mem) : Mem :=
  m.filter fun c => decide ((b.range buf).1 ≤ c.1) && decide (c.1 < (b.range buf).2)

/-- What CTXSAVE writes for X; windows of the issuing frame stay (R382, R464). -/
def Core.saveArea (k : Core) (dev core : Nat) (x : Ctx) (me : Frame) : SaveArea :=
  let ws := (k.windows.filter fun w => decide (w.fr.ctx = x) && !w.fr.same me && !lateHandler k.copies w.fr.kind).reverse.map
    fun w => { w with park := none }
  let js := k.copies.filter fun j => j.ctx = x
  let ms := k.mjobs.filter fun j => j.ctx = x
  let lvls := ws.map (fun w => w.fr.lvl) ++ ms.map fun j => j.fr.lvl
  let bal := k.bal x
  let part (n : Nat) (m : Mem) : Mem := match bal with
    | some b => b.part n m
    | none => []
  { ctx := x
    dev := dev
    core := core
    wins := ws
    claims := k.claims.filter fun c => ws.any fun w => decide (w.wid = c.wid)
    awns := pickV (fun a : Awn => a.v && decide (a.ctx = x)) k.awns
    bal := bal
    cx := k.cx x
    levels := ((List.range 8).filter fun l => lvls.contains l).map fun l => (l, vget Level.zero k.levels l)
    slots := pickV (fun r : Slot => r.v && decide (r.ctx = x)) k.slots
    rings := (pickV (fun r : Ring => r.en && decide (r.ctx = x)) k.rings).map fun p => (p.1, p.2.rest)
    copies := js.map CopyJob.rest
    mjobs := ms.map MJob.rest
    trestle := k.trestle.filter fun t => ms.any fun j => decide (j.tid = t.tid)
    refused := k.jrn.filter fun e => decide (e.ctx = x)
    traps := k.traps.filter fun t => decide (t.fr.ctx = x)
    waiting := k.waiting.filter fun w => decide (w.ctx = x) && !(match w.kind with
      | .landing _ _ => true
      | _ => false)
    bufW := part 0 k.bufW
    bufA := part 1 k.bufA
    bufS := part 3 k.bufS
    bufC := k.bufC.filter fun c => (k.tilesOf x).contains (c.1 / 4096)
    stags := k.stags.filter fun u => match bal with
      | some b => decide ((b.range 3).1 ≤ u * 16) && decide (u * 16 < (b.range 3).2)
      | none => false
    msgs := [] }

/-- The core after its save: what was saved is gone, the buffers and awning records stay until the release (R382, R457). -/
def Core.saved (k : Core) (x : Ctx) (me : Frame) : Core :=
  let gone (f : Frame) : Bool := decide (f.ctx = x) && !f.same me
  let tids := (k.copies.filter fun j => j.ctx = x).map CopyJob.tid ++ (k.mjobs.filter fun j => j.ctx = x).map MJob.tid
    ++ (k.trestle.filter fun t => t.ring.isSome && gone t.fr).map Tr.tid
  let k := (k.copies.filter fun j => j.ctx = x).foldl (fun k j => j.tags.foldl (fun k t => k.count t.2 false) k) k
  let k := (k.removeWins fun w => gone w.fr).resolve fun t => tids.contains t
  { k with
    pend := k.pend.filter fun p => !gone p.fr
    jrn := k.jrn.filter fun e => e.ctx != x
    traps := k.traps.filter fun t => t.fr.ctx != x
    waiting := k.waiting.filter fun w => w.ctx != x
    copies := k.copies.filter fun j => j.ctx != x
    mjobs := k.mjobs.filter fun j => j.ctx != x
    slots := k.slots.map fun r => if r.v && r.ctx = x then Slot.zero else r
    rings := k.rings.map fun r => if r.en && r.ctx = x then Ring.zero else r
    gates := k.gates.filter fun g => g.2.fr.ctx != x
    ctxs := tabPut x { CtxCore.zero with colour := true, sentOld := (k.cx x).sentOld, recvOld := (k.cx x).recvOld } k.ctxs }

/-- Barrow entries of X return to the Exchange (R168, R382, R462). DESIGN CHOICE (log 49): to the one that dispatched them, where that
is another die's. -/
def State.emptyBarrow (s : State) (core : Nat) (x : Ctx) : State :=
  let mine (b : BarrowEntry) : Bool := ((s.exch b.xdie).inst b.inst).any fun i => decide (i.ctx = x)
  let bs := (s.core core).barrow.filter mine
  let s := s.modCore core fun k => k.freeBarrow s.tick.toNat (k.barrow.filter fun b => !mine b)
  bs.foldl (fun s b => s.intoQueue b.xdie (s.tick.toNat + 1) b.inst) s

/-- An engine or porter of X on a core. -/
def Core.engineOf (k : Core) (core : Nat) (x : Ctx) : Waiter → Bool
  | .packet c j _ => decide (c = core) && k.copies.any fun o => decide (o.tid = j) && decide (o.ctx = x)
  | .operand c j => decide (c = core) && k.mjobs.any fun o => decide (o.tid = j) && decide (o.ctx = x)
  | .porter c n => decide (c = core) && decide ((k.ring n).ctx = x)
  | _ => false

/-- The engines of X on a core abandon the accesses they wait for, and pending-fault entries of X that no access waits at any more
go with their messages (R41, R153). -/
def State.abandon (s : State) (core : Nat) (x : Ctx) : State :=
  let s := s.engForget core ((s.core core).engineOf core x)
  let left (f : PFault) : Bool := decide (f.ctx = x) && f.who.isEmpty
  let lost := s.slices.flatMap fun (p : Nat × Slice) => (p.2.faults.filter left).map fun f => (p.1, f)
  { s with
    slices := s.slices.map fun (p : Nat × Slice) => (p.1, { p.2 with faults := p.2.faults.filter fun f => !left f })
    mail := s.mail.map fun (l : List SvcMsg) => l.filter fun m => !(lost.any fun q => SvcMsg.faultOf q.1 q.2 m) }

/-- The crier of a die flips once every core of the die that holds X has flipped (R463). -/
def State.flipCriers (s : State) (x : Ctx) : State :=
  { s with criers := Vector.ofFn fun d =>
      let c := vget Crier.zero s.criers d.val
      let all := (s.holders x).all fun k => decide (dieOf k ≠ d.val) || s.flipped k x
      if all && !c.flipped.contains x then { c with flipped := c.flipped ++ [x] } else c }

/-- Save X on a core: the area, what the core keeps, and the flip of its colour (R382, R463). -/
def State.saveCore (s : State) (core : Nat) (x : Ctx) (area : Nat) (me : Frame) : State :=
  let s := (s.emptyBarrow core x).abandon core x
  let s := if ((s.core core).mrun.bind (s.core core).mjob).any fun j => decide (j.ctx = x) then s.mEnd core else s
  let s := s.modCluster (clusterOf core) fun c =>
    { c with resv := c.resv.map fun (r : Resv) =>
        if r.pos = posOf core ∧ r.unit = .vector ∧ r.ctx = x then { r with ending := true } else r }
  let s := ((s.core core).pend.filter fun p => decide (p.fr.ctx = x) && !p.fr.same me).foldl (fun s p => s.dropPend core p.id) s
  let a := (s.core core).saveArea s.dev core x me
  let s := (s.writeArea area a).modCore core fun k => k.saved x me
  let s := { s with
    evicts := s.evicts.map fun (e : Evict) =>
      if e.ctx = x ∧ !e.isRestore then { e with left := e.left.filter fun c => c != core } else e }
  s.flipCriers x

/-- The waits of a parked CTXSAVE are over: the state is saved and removed, and D takes BYTES (R382). -/
def execCtxsaveDone (core : Nat) (s : State) : Out :=
  match s.topOf core with
  | none => .next s
  | some w =>
    match w.park with
    | some (.ctxsave d x area) =>
      if !s.saveReady core x then .next s
      else
        let s := s.saveCore core x area w.fr
        let n := (s.saves.find? fun p => p.1 = area).elim 0 fun p => p.2.bytes
        .next (s.modTopOf core fun w => (match d with
          | some r => w.wrS r (BitVec.ofNat 64 n)
          | none => w).wake)
    | _ => .next s

/-! ### The cut, the spill and the release (R462, R463) -/

/-- Old-colour messages of X counted over the module: sent and received (R463). -/
def State.cutCounts (s : State) (x : Ctx) : Nat × Nat :=
  let sum (l : List Nat) : Nat := l.foldr (· + ·) 0
  (sum (s.cores.map fun (p : Nat × Core) => (p.2.cx x).sentOld) + sum (s.criers.toList.map fun c => tabGet 0 x c.sentOld),
   sum (s.cores.map fun (p : Nat × Core) => (p.2.cx x).recvOld) + sum (s.criers.toList.map fun c => tabGet 0 x c.recvOld))

/-- Free and wipe an allocation of X on a core (R157). -/
def Core.freeBal (x : Ctx) (k : Core) : Core :=
  match k.bal x with
  | none => k
  | some b =>
    let ts := k.tilesOf x
    { k with
      bufW := memWipe k.bufW (b.wbase * 4096) (b.wend * 4096)
      bufA := memWipe k.bufA (b.abase * 4096) (b.aend * 4096)
      bufS := memWipe k.bufS (b.sbase * 4096) (b.send * 4096)
      bufC := k.bufC.filter fun c => !ts.contains (c.1 / 4096)
      stags := k.stags.filter fun u => !(decide (b.sbase * 4096 ≤ u * 16) && decide (u * 16 < b.send * 4096))
      bals := k.bals.map fun r => if r.v && r.ctx = x then Bal.zero else r }

/-- The awning records of X on a core are freed. -/
def Core.freeAwns (x : Ctx) (k : Core) : Core :=
  { k with awns := k.awns.map fun a => if a.v && a.ctx = x then Awn.zero else a }

/-- Step 6 of R462. Pending faults of the context stay until their replies, which are discarded (R41). -/
def State.releaseEvict (s : State) (e : Evict) : State :=
  let x := e.ctx
  let drop (l : List (Ctx × Nat)) : List (Ctx × Nat) := l.filter fun p => p.1 != x
  let s := { s with
    cores := s.cores.map fun (p : Nat × Core) => (p.1, { Core.freeAwns x (Core.freeBal x p.2) with
      ctxs := p.2.ctxs.filter fun q => q.1 != x })
    slices := s.slices.map fun (p : Nat × Slice) => (p.1, { p.2 with
      faults := p.2.faults.map fun (f : PFault) => if f.ctx = x then { f with stale := true } else f })
    criers := s.criers.map fun (c : Crier) =>
      { c with flipped := c.flipped.filter fun y => y != x, sentOld := drop c.sentOld, recvOld := drop c.recvOld }
    evicts := s.evicts.filter fun o => o.ctx != x }
  let s := match s.ctxRec x with
    | some r => s.setCtx x { r with st := .evicted }
    | none => s
  s.cmdDone e.queue e.hseq 0

/-- The cut of a device closes: every participant has flipped and the counts are equal, summed in a fabric with those of the other
devices that hold the context, as the host has them; migrations of the context are over (R72, R463). -/
def execCutClose (cut : CutSums) (s : State) : Out :=
  let x := cut.ctx
  let far : Nat × Nat := if s.fabricOn then (cut.sent, cut.recv) else (0, 0)
  match s.evicts.find? fun e => decide (e.ctx = x) && !e.isRestore && !e.spilling with
  | none => .next s
  | some e =>
    let c := s.cutCounts x
    if !e.left.isEmpty ∨ (s.migrations.any fun m => m.ctx = x) ∨ c.1 + far.1 ≠ c.2 + far.2 then .next s
    else if e.cores.isEmpty then .next (s.releaseEvict e)
    else .next { s with evicts := s.evicts.map fun (o : Evict) =>
        if o.ctx = x then { o with spilling := true, left := o.cores } else o }

/-- NISPILL: the captured messages go to the area (R384); the last one of an eviction ends it (R462). -/
def State.spillMsgs (s : State) (core : Nat) (x : Ctx) (area : Nat) : State × Nat :=
  let ms := ((s.core core).captured.filter fun p => p.1 = x).map Prod.snd
  let s := s.modCore core fun k => { k with captured := k.captured.filter fun p => p.1 != x }
  let s := s.writeMsgs area ms
  let s := { s with evicts := s.evicts.map fun (e : Evict) =>
    if e.ctx = x ∧ e.spilling then { e with left := e.left.filter fun c => c != core } else e }
  (match s.evicts.find? fun e => decide (e.ctx = x) && e.spilling && e.left.isEmpty with
    | some e => s.releaseEvict e
    | none => s, ms.length)

def execNispill (h : Hdr) (d a b : SReg) (s : State) : Out :=
  issue h false [.s d] s fun s w =>
    Res.check (saveCheck s w true a b) fun p =>
      let r := s.spillMsgs s.cur p.1 p.2
      .ok (r.1.modTop fun w => (w.wrS d (BitVec.ofNat 64 r.2)).advance)

/-! ### Restoring (R383, R465) -/

def execCtxload (h : Hdr) (a b : SReg) (s : State) : Out :=
  issue h false [] s fun s w => Res.check (saveCheck s w false a b) fun p => .ok (s.parkTop (.ctxload p.1 p.2))

/-- Frames of handlers follow their jobs to the new numbers. -/
def remapKind (ids : List (Nat × Nat)) (jx : List (Nat × Nat)) : HKind → HKind
  | .plain => .plain
  | .landing job n => .landing (tabGet job job ids) n
  | .row job n => .row (tabGet job job ids) n
  | .faultTicket i => .faultTicket (tabGet i i jx)

/-- The stack with the restored windows beneath the issuing frame (R465); none where their priorities do not fit. -/
def insertWins (me : Frame) (ws : List Window) (all : List Window) : Option (List Window) :=
  match ws with
  | [] => some all
  | low :: up =>
    let mine := all.takeWhile fun w => w.fr.same me
    let below := all.dropWhile fun w => w.fr.same me
    let p := (mine.getLast?).elim 0 Window.pthr
    if !below.isEmpty && decide (low.fr.lvl ≤ p) then none
    else
      let top := ((low :: up).getLast?).elim 0 fun w => w.fr.lvl
      let mine := mine.dropLast ++ (mine.getLast?.map fun w => { w with pthr := top }).toList
      some (mine ++ ({ low with pthr := if below.isEmpty then 0 else p } :: up).reverse ++ below)

/-- A job re-enters the trestle and its engine under a new number (R154, R465). -/
def reissue (a : SaveArea) (n : Nat) (k : Core) (tid : Nat) : Core :=
  match a.copies.find? fun j => j.tid = tid with
  | some j =>
    { k.enterTr n (j.src.grans j.len) (j.dst.grans j.len) none j.fr with copies := k.copies ++ [{ j with tid := n }] }
  | none =>
    match a.mjobs.find? fun j => j.tid = tid with
    | none => k
    | some j =>
      let t := a.trestle.find? fun t => t.tid = tid
      { k.enterTr n (t.elim [] Tr.reads) (t.elim [] Tr.writes) none j.fr with mjobs := k.mjobs ++ [{ j with tid := n }] }

def putAll {α : Type} {n : Nat} (l : List (Nat × α)) (v : Vector α n) : Vector α n :=
  l.foldl (fun v p => vmod p.1 (fun _ => p.2) v) v

/-- Cells of two canonical memories with no address in common. -/
def memJoin (m : Mem) : Mem → Mem
  | [] => m
  | (a, b) :: r => memJoin (memSet m a b) r

/-- New journal indices for the refused entries, chosen among the free ones (R104). -/
def newIdx (free : Nat) : List Nat → List JEntry → List (Nat × Nat)
  | fs, e :: r =>
    match fs with
    | [] => []
    | f :: _ =>
      let i := fs.getD (Config.freeNat free % fs.length) f
      (e.idx, i) :: newIdx (free + 1) (fs.filter fun j => j != i) r
  | _, [] => []

/-- Everything of an area on its new core, but for the windows and messages (R465). DESIGN CHOICE (log 63): a ring of the area takes the
place of another context's ring of that number. -/
def SaveArea.onCore (a : SaveArea) (ids jx : List (Nat × Nat)) (k : Core) : Core :=
  let homes := ((List.range 32).filter fun i => !(k.awn i).v).zip a.awns
  let rec' (r : Nat) : Nat := (homes.find? fun h => h.2.1 = r).elim r Prod.fst
  let was (r : Slot) : Bool := a.slots.any fun p => decide (p.2 = r)
  let k := { k with
    bufW := memJoin k.bufW a.bufW
    bufA := memJoin k.bufA a.bufA
    bufS := memJoin k.bufS a.bufS
    bufC := a.bufC.foldl (fun m c => tabPut c.1 c.2 m) k.bufC
    stags := k.stags ++ a.stags
    awns := putAll (homes.map fun h => (h.1, h.2.2)) k.awns
    claims := a.claims.map (fun c => { c with rcd := rec' c.rcd }) ++ k.claims
    slots := putAll a.slots k.slots
    rings := putAll a.rings k.rings
    levels := putAll a.levels k.levels
    ctxs := tabPut a.ctx { a.cx with colour := false, sentOld := 0, recvOld := 0 } k.ctxs
    jrn := k.jrn ++ a.refused.map fun e => { e with idx := tabGet e.idx e.idx jx, stamp := k.stamp }
    traps := k.traps ++ a.traps.map fun t => { t with idx := tabGet t.idx t.idx jx }
    waiting := k.waiting ++ a.waiting.map fun w => { w with
      kind := remapKind ids jx w.kind
      args := match w.kind with
        | .faultTicket i => w.args.set 1 (BitVec.ofNat 64 (tabGet i i jx))
        | _ => w.args }
    stamp := k.stamp + 1 }
  let k := ids.foldl (fun k p => reissue a p.2 k p.1) k
  a.copies.foldl (fun k j => j.tags.foldl (fun k t =>
    k.count (t.2 &&& BitVec.ofNat 16 (packBits ((List.range 16).map fun i => !(was (vget Slot.zero k.slots i))))) true) k) k

/-- A captured message is delivered after the restore, under the checks of any arrival (R158, R159, R384, R465). -/
def State.deliverMsg (s : State) (core : Nat) (x : Ctx) (m : Msg) : State :=
  let h := m.head.toNat
  let fr : Frame := { probeFrame with ctx := x, sys := false, pri := bitsOf h 6 4, lvl := bitsOf h 6 4 }
  let off := bitsOf h 127 64
  let arg := bitsOf h 199 136
  let at' (buf o n : Nat) (go : State → State) : State :=
    if n = 0 ∨ (s.core core).bufOk x buf o n then go s else s.fatalAt x cBUFFER (if m.kind = 2 then 5 else 2) 0 o core
  match m.kind with
  | 0 =>
    if h % 16 = 3 then at' 3 (winOff off) 16 fun s => s.countBytes core (winOff off) (arg % 2 ^ 40) ⟨core, fr, 0⟩
    else at' 3 (winOff off) 8 fun s =>
      s.deliverAsk ⟨dieOf core, core, x, winOff off, BitVec.ofNat 64 (leNat m.payload), BitVec.ofNat 64 arg, 0, fr⟩
  | 1 =>
    let o := bitsOf h 63 0
    let mask := bitsOf h 127 64
    let bs := m.payload.mapIdx fun i b => if mask / 2 ^ i % 2 = 1 then some b else none
    let on := (List.range bs.length).filter fun i => (bs.getD i none).isSome
    let i := on.head?.getD 0
    let n := (on.getLast?.map (· + 1)).getD 0 - i
    at' (winBuf o) (winOff o + i) n fun s => s.modCore core fun k =>
      let k := k.bufWrite (winBuf o) (winOff o) bs
      if bitsOf h 128 128 = 1 ∧ winBuf o = 3 then { k with stags := k.stags ++ [(winOff o + i) / 16] } else k
  | _ =>
    let o := bitsOf h 63 0
    at' (winBuf o) (winOff o) m.payload.length fun s =>
      s.modCore core fun k => k.bufWrite (winBuf o) (winOff o) (m.payload.map some)

/-- The last core of a RESTORE is loaded: the context goes on (R465). -/
def State.restored (s : State) (core : Nat) (x : Ctx) : State :=
  let s := { s with evicts := s.evicts.map fun (e : Evict) =>
    if e.ctx = x ∧ e.isRestore then { e with left := e.left.filter fun c => c != core } else e }
  match s.evicts.find? fun e => decide (e.ctx = x) && e.isRestore && e.left.isEmpty with
  | none => s
  | some e =>
    let was (d q : Nat) : Bool := (s.liveQueue d q).isEmpty
    let s1 := { s with evicts := s.evicts.filter fun o => o.ctx != x }
    let s1 := match s1.ctxRec x with
      | some r => s1.setCtx x { r with st := .live }
      | none => s1
    let s1 := (List.range 4).foldl (fun t d => (List.range 8).foldl (fun t q =>
      if was d q && !(State.liveQueue t d q).isEmpty then State.modExch t d fun e => e.startAge s.tick.toNat q else t) t) s1
    s1.cmdDone e.queue e.hseq 0

/-- Stream contexts that an area takes (R116). -/
def SaveArea.streams (a : SaveArea) : Nat := a.rings.countP fun p => p.2.stream.isSome

/-- What of an area's buffers lies in the allocation that its context has on the core: all of it after the checks of R465. -/
def SaveArea.within (a : SaveArea) (b : Option Bal) : SaveArea :=
  if a.bal = b then a
  else
    let part (n : Nat) (m : Mem) : Mem := match b with
      | some l => l.part n m
      | none => []
    { a with
      bufW := part 0 a.bufW
      bufA := part 1 a.bufA
      bufS := part 3 a.bufS
      bufC := a.bufC.filter fun c => b.any fun l => l.cmask.getLsbD (c.1 / 4096)
      stags := a.stags.filter fun u => b.any fun l => decide ((l.range 3).1 ≤ u * 16) && decide (u * 16 < (l.range 3).2) }

/-- Load an area onto a core beneath its issuing frame, that of window `me` (R383, R465). Windows and jobs take new numbers. -/
def State.loadCore (s : State) (core : Nat) (me : Window) (a : SaveArea) : State :=
  let k := s.core core
  let tids := a.order.map Prod.fst
  let n := s.nextId + a.wins.length
  let wids := a.wins.mapIdx fun i w => (w.wid, s.nextId + i)
  let a : SaveArea := { a with claims := a.claims.map fun (c : Claim) => { c with wid := tabGet c.wid c.wid wids } }
  let ids := tids.zip ((List.range tids.length).map fun i => n + i)
  let jx := newIdx s.free k.freeIdx a.refused
  let ws := a.wins.mapIdx fun i (w : Window) => { w with wid := s.nextId + i, fr := { w.fr with kind := remapKind ids jx w.fr.kind } }
  match insertWins me.fr ws k.windows with
  | none => s.contextFatal a.ctx (FaultInfo.plain cILLEGAL 0) ⟨core, me.pc.toNat, me.fr.tkt.toNat, me.fr.serial.toNat⟩
  | some all =>
    let k := spillFor 0 256 { a.onCore ids jx k with wins := all, spilled := [] }
    let s : State := { s.setCore core k with nextId := n + ids.length, free := s.free + jx.length }
    if 0x10000 < spillTop k.spilled then
      s.contextFatal a.ctx (FaultInfo.plain cSTACK 0) ⟨core, me.pc.toNat, me.fr.tkt.toNat, me.fr.serial.toNat⟩
    else (a.msgs.foldl (fun s m => s.deliverMsg core a.ctx m) s).satisfyAll core

/-- The waits of a parked CTXLOAD are over: the area's state is in place (R383, R465). It waits for journal entries, for slots of the
copy engine, for trestle entries and for stream contexts of the cluster's porter as their issue does (R104, R116, R140, R175). -/
def execCtxloadDone (core : Nat) (s : State) : Out :=
  match s.topOf core with
  | none => .next s
  | some w =>
    match w.park with
    | some (.ctxload x area) =>
      let k := s.core core
      let go (s : State) : Out := .next ((s.modTopOf core Window.wake).restored core x)
      match s.areaAt x area with
      | none => go s
      | some a =>
        if k.freeIdx.length < a.refused.length ∨ 32 < k.copies.length + a.copies.length
            ∨ !k.trestleRoom (a.copies.length + a.mjobs.length) ∨ 32 < s.streams core + a.streams then .next s
        else go (s.loadCore core w (a.within (k.bal x)))
    | _ => .next s

/-! ### Context-fatal faults from other agents (R446, R456) -/

/-- The codes of R446 that an agent other than a frame or the host raises. -/
def faultCodes : List Nat := [0x07, 0x08, 0x09, 0x0B, 0x0D, 0x10, 0x11, 0x12, 0x14]

/-- An agent outside a frame finds an unhandled fault of a context (R456). -/
def execContextFatal (x : Ctx) (code : BitVec 8) (detail : W64) (s : State) : Out :=
  if faultCodes.contains code.toNat then
    .next (s.contextFatal x ⟨code.toNat, 0, 0, detail.toNat⟩ FaultAt.none)
  else .next s

end Sys2Proof.Machine
end

