-- ==== Sys2Proof/Machine/Fabric.lean ====
section
/-! DEFINITION. Fabric.lean: the router: its ports and links, FABCFG, the routing table and the hops of packets
(R73 to R91). The messages of this device stand in `State.out` until its router takes them as packets. -/

namespace Sys2Proof.Machine

/-- d, the number of graph ports (R73, R76); 0 for a standalone device. -/
def graphPorts (q : Nat) : Nat := (3 * q - 1) / 2

/-- The bits of FABCFG that hold a field (R79). -/
def fabMask : Nat := 0x3FF7FFF

/-- DPORT of doubling port 38 + i (R80). -/
def dport (doubling : W64) (i : Nat) : Nat := bitsOf doubling.toNat (6 * i + 5) (6 * i)

/-- A port is enabled: a graph port, the bridge's port 37, a configured doubling port (R73, R79, R80, R90).
DESIGN CHOICE (log 63): port 37 is also enabled on a device that stands alone, or with EN = 0. -/
def State.portOn (s : State) (p : Nat) : Bool :=
  let f := s.fabcfg.toNat
  let en := decide (bitsOf f 14 14 = 1)
  let d := graphPorts s.q
  if p = 37 then !en || decide (s.dev % s.q = 0)
  else if p < 37 then en && decide (p < d)
  else if p < 48 then en && decide (bitsOf f (16 + (p - 38)) (16 + (p - 38)) = 1) && decide (dport s.doubling (p - 38) < d)
  else false

def State.port (s : State) (p : Nat) : Port := vget Port.down s.ports p

/-- Links of ports that are no longer enabled are not up. Entry 37 of a device that is no bridge stands for the port of its group's
bridge (R90, R91, log 63). -/
def State.trimPorts (s : State) : State :=
  { s with ports := s.ports.mapIdx fun i p => if i = 37 ∨ s.portOn i then p else Port.down }

/-- A report of the router to the host: a NOTE on queue 0 (R75, R79; its form is the model's, log 33). -/
def State.routerNote (s : State) (kind a b : Nat) : State :=
  s.postEvent 0 { Event.mk0 8 0 0 with narg := [BitVec.ofNat 64 (kind + a * 2 ^ 8), BitVec.ofNat 64 b, 0] }

/-- A write of the doubling register: a doubling port whose graph port changes trains afresh (R80). -/
def State.writeDoubling (s : State) (v : W64) : State :=
  let s' := { s with doubling := v, ports := s.ports.mapIdx fun i p =>
    if 38 ≤ i ∧ dport s.doubling (i - 38) ≠ dport v (i - 38) then Port.down else p }
  s'.trimPorts

/-- A link completes training: of a doubled link, where both ends name each other's graph link (R80); of the bridge's port 37, as the
devices of its group learn it (R91, log 63). -/
def execLinkTrained (link : Trained) (s : State) : Out :=
  let p := link.port
  if (s.portOn p || decide (p = 37)) && (decide (p < 38) || decide (link.far = dport s.doubling (p - 38))) then
    .next { s with ports := vmod p (fun _ => { Port.down with up := true }) s.ports }
  else .next s

/-- The flit that a port sent last fails its CRC: its first transmission, then its replays, are counted (R75). The next flit goes out
once it has passed. -/
def execFlitCrcFail (port : Nat) (s : State) : Out :=
  if (s.port port).up then .next { s with ports := vmod port (fun p => { p with replays := p.replays + 1 }) s.ports }
  else .next s

/-- Eight consecutive replays of one flit have failed: the link is down; every context with a packet on it, in either direction
(`inbound` of those on their way here), meets LINK with the port's number; and the router reports the port to the host (R75,
R446). The packets queued at the port are lost with it (log 33). -/
def execLinkDown (link : LostLink) (s : State) : Out :=
  let port := link.port
  let p := s.port port
  if p.up && decide (9 ≤ p.replays) then
    let fly := match p.fly with
      | some k => [k.ctx]
      | none => []
    let ctxs := (fly ++ link.inbound ++ (s.packets.filter fun k => k.1 = port).map fun k => k.2.ctx).eraseDups
    let s := { s with
      ports := vmod port (fun _ => Port.down) s.ports
      packets := s.packets.filter fun k => k.1 != port }
    .next ((ctxs.foldl (fun s x => s.fatalAt x cLINK 0 0 port 0) s).routerNote 2 port 0)
  else .next s

/-- A write of FABCFG (R79): with X or Y not below q, EN stays 0 and the write is reported to the host. Bits of reserved fields are
ignored (R18). DESIGN CHOICE (log 33): a context is resident, for the clearing of EN, from its CTXNEW to its teardown, evicted or not,
unless it is dead; and a write while EN is 1 changes QSEL, S, X and Y at once and leaves DEV. -/
def execFabcfgWrite (v : W64) (s : State) : Out :=
  let new := v.toNat &&& fabMask
  let was := bitsOf s.fabcfg.toNat 14 14
  let q := [5, 9, 13, 17, 25].getD (new % 8) 0
  let x := bitsOf new 8 4
  let y := bitsOf new 13 9
  let resident := s.contexts.any fun p => s.holds? p.1
  if bitsOf new 14 14 = 1 ∧ was = 0 then
    if x < q ∧ y < q then
      .next (State.trimPorts { s with fabcfg := BitVec.ofNat 64 new, dev := bitsOf new 3 3 * (q * q) + x * q + y })
    else .next ((State.trimPorts { s with fabcfg := BitVec.ofNat 64 (new - 2 ^ 14) }).routerNote 3 0 v.toNat)
  else if bitsOf new 14 14 = 0 ∧ was = 1 ∧ resident then
    .next (State.trimPorts { s with fabcfg := BitVec.ofNat 64 (new + 2 ^ 14) })
  else .next (State.trimPorts { s with fabcfg := BitVec.ofNat 64 new })

/-! ### Hops (R81 to R86) -/

def State.routeOf (s : State) (d : Nat) : Nat := (tabGet 0 d s.routes).toNat

/-- First port of the path of an entry (R81). -/
def entryPort (e : Nat) : Nat := bitsOf e 6 1

/-! ### Messages as packets (R74, R83, R85) -/

/-- Bytes that a request carries: a store's, or an atomic's operands (R74). -/
def payloadOf (k : PKind) : Nat :=
  match k with
  | .load => 0
  | .store bs _ => bs.countP Option.isSome
  | .amo _ ty _ => Ty.bytes ty
  | .cas ty _ _ => 2 * Ty.bytes ty

/-- Flits of a message: a header, and the data flits its payload needs (R74). A page travels in packets of 256 bytes. -/
def flitsOf (m : OutMsg) : Nat :=
  let data (n : Nat) : Nat := 1 + (n + 31) / 32
  match m with
  | .request _ r => data (payloadOf r.kind)
  | .reply _ _ _ bs _ _ _ _ => data bs.length
  | .redirect _ _ _ bs _ _ _ _ _ _ _ => data bs.length
  | .redirectOnly _ _ _ _ _ _ _ _ => 1
  | .ownerUpdate _ _ _ _ _ _ _ => 1
  | .ownerAck _ _ _ => 1
  | .misroute _ _ _ _ _ => 1
  | .chit _ => 1
  | .watch _ _ _ _ _ _ _ => 1
  | .launch _ l => data (64 + (match l.foot with | some _ => 128 | none => 0) + (match l.shape with | some _ => 64 | none => 0))
  | .install _ _ _ _ _ _ => 1
  | .pageData _ _ _ _ bs => (bs.length + 255) / 256 * 9
  | .copyDone _ _ _ _ => 1
  | .hostReq _ r _ => data (payloadOf r.kind)

/-- Destination, context and class of a message (R60, R85, R89). DESIGN CHOICE (log 33): a watch sent to another device travels in the
chit lane of its ticket's priority. A launch takes the lane of its PRIO (R358). -/
def wireHead (m : OutMsg) : Nat × Ctx × TClass :=
  let cls (ord : Bool) : TClass := if ord then .ordered else .adaptive
  match m with
  | .request d r => (d, r.ctx, cls r.ord)
  | .reply d _ _ _ _ _ x ord => (d, x, cls ord)
  | .redirect d _ _ _ _ _ x _ _ _ _ => (d, x, .ordered)
  | .redirectOnly d _ _ x _ _ _ _ => (d, x, .ordered)
  | .ownerUpdate d x _ _ _ _ _ => (d, x, .ordered)
  | .ownerAck d x _ => (d, x, .ordered)
  | .misroute d _ _ x _ => (d, x, .ordered)
  | .chit c => (c.tdev, c.ctx, .chit c.lane)
  | .watch d x _ _ _ _ l => (d, x, .chit l)
  | .launch d l => (d, l.ctx, .chit (Fin.ofNat 8 (bitsOf l.image.toNat 66 64)))
  | .install d x _ _ _ _ => (d, x, .ordered)
  | .pageData d x _ _ _ => (d, x, .adaptive)
  | .copyDone d x _ _ => (d, x, .ordered)
  | .hostReq d r _ => (d, r.ctx, .ordered)

/-- The packet of a message at its source router: HC 0, no intermediate yet (R83). -/
def State.packetOf (s : State) (m : OutMsg) : Packet :=
  let h := wireHead m
  { cls := h.2.2, src := s.dev, dst := h.1, hc := 0, im := none, ctx := h.2.1, flits := flitsOf m, body := some m }

/-- occ(p): flits queued in the adaptive channels of a port (R84). -/
def State.occ (s : State) (p : Nat) : Nat :=
  ((s.packets.filter fun k => decide (k.1 = p) && decide (k.2.cls = .adaptive)).map fun k => k.2.flits).foldr (· + ·) 0

/-- The valid intermediates of an entry, lowest first (R81). -/
def State.intermediates (s : State) (src dst : Nat) : List Nat :=
  let e := s.routeOf dst
  ((List.range (Nat.min (bitsOf e 10 8) 4)).map fun i => bitsOf e (21 + 11 * i) (11 + 11 * i)).filter fun d =>
    d != src && d != dst && decide (s.routeOf d % 2 = 1)

/-- The path that adaptive traffic takes: none for the minimal one, or an intermediate (R84). -/
def State.adaptivePath (s : State) (src dst : Nat) : Option Nat :=
  let e := s.routeOf dst
  let min := s.occ (entryPort e) * (if bitsOf e 7 7 = 1 then 1 else 2)
  ((s.intermediates src dst).foldl (fun (b : Option Nat × Nat) d =>
    let c := s.occ (entryPort (s.routeOf d)) * 4
    if c < b.2 then (some d, c) else b) (none, min)).1

/-- Adaptive traffic of a doubled link takes the emptier port; a tie stays on the graph port (R80). -/
def State.spread (s : State) (cls : TClass) (p : Nat) : Nat :=
  if cls = .adaptive then
    ((List.range 10).filter fun i => decide (dport s.doubling i = p) && s.portOn (38 + i) && (s.port (38 + i)).up).foldl
      (fun b i => if s.occ (38 + i) < s.occ b then 38 + i else b) p
  else p

/-- The virtual channels that a class has on one path (R83, R85). -/
def hopsOf (cls : TClass) : Nat :=
  match cls with
  | .chit _ => 2
  | _ => 4

/-- The channel of a packet on its port (R83, R85). -/
def channelOf (p : Packet) : TClass × Nat := (p.cls, p.hc)

def laneOfClass (c : TClass) : Nat :=
  match c with
  | .chit l => l.val + 1
  | _ => 0

/-- The number of a data channel: ordered 0 to 3, adaptive 4 to 7 (R85). -/
def dataChannel (p : Packet) : Nat := (if p.cls = .adaptive then 4 else 0) + p.hc

/-- The data channels with flits waiting at a port. -/
def State.dataWaiting (s : State) (port : Nat) : List Nat :=
  (s.packets.filter fun o => decide (o.1 = port) && decide (laneOfClass o.2.cls = 0)).map fun o => dataChannel o.2

/-- The next data channel in turn: the first after the one served last that has flits waiting (R86). -/
def nextChannel (waiting : List Nat) (last : Nat) : Option Nat :=
  ((List.range 8).map fun i => (last + 1 + i) % 8).find? fun c => waiting.contains c

/-- The packet at a place may leave its port next: it is the first of its channel; a chit where no chit of a higher lane waits and
data does not have its turn of one in eight; data in its channel's turn where no chit waits, or on that turn (R86). -/
def State.mayLeave (s : State) (k : Nat) (port : Nat) (p : Packet) : Bool :=
  let q := s.port port
  let data := s.dataWaiting port
  let due := !data.isEmpty && decide (7 ≤ q.chits)
  q.up
    && !((s.packets.take k).any fun o => decide (o.1 = port) && decide (channelOf o.2 = channelOf p))
    && (if laneOfClass p.cls = 0 then
          (due || !(s.packets.any fun o => decide (o.1 = port) && decide (0 < laneOfClass o.2.cls)))
            && decide (nextChannel data q.rr = some (dataChannel p))
        else
          !due && !(s.packets.any fun o => decide (o.1 = port) && decide (laneOfClass p.cls < laneOfClass o.2.cls)))

/-- A packet sends its next flit over its port, and has left with its last one (R75, R83, R86). -/
def State.leave (s : State) (k port : Nat) (p : Packet) : State :=
  let data := laneOfClass p.cls = 0
  let waits := !(s.dataWaiting port).isEmpty
  { s with
    packets := if p.sent + 1 < p.flits then s.packets.set k (port, { p with sent := p.sent + 1 }) else s.packets.eraseIdx k
    ports := vmod port (fun q => { q with
      replays := 0
      fly := some { p with hc := p.hc + 1, sent := 0 }
      chits := if data || !waits then 0 else q.chits + 1
      rr := if data then dataChannel p else q.rr }) s.ports }

/-- The port that an ordered request's stream took when it left the egress (R87, R88). -/
def packetPort (p : Packet) : Option Nat :=
  match p.body with
  | some (.request _ r) => r.port
  | some (.hostReq _ r _) => r.port
  | _ => none

/-- The port of a packet's way: that of its intermediate, else of its destination (R81, R83); of a stream's request at its source, the
one on which it left the egress (R88). -/
def State.wayOf (s : State) (p : Packet) : Nat :=
  let e := s.routeOf (p.im.getD p.dst)
  if p.hc = 0 ∧ p.cls = .ordered then (packetPort p).getD (entryPort e) else entryPort e

/-- A packet is queued at the port of its way; `none` where there is no way. -/
def State.queuePacket (s : State) (p : Packet) : Option State :=
  let e := s.routeOf (p.im.getD p.dst)
  if e % 2 = 1 ∧ p.hc < hopsOf p.cls ∧ s.portOn (s.wayOf p) then
    some { s with packets := s.packets ++ [(s.spread p.cls (s.wayOf p), { p with sent := 0 })] }
  else none

/-- A message of this device enters its router, after the earlier ones of its class to its destination; adaptive traffic chooses
its path here (R83 to R87). -/
def State.inject (s : State) (k : Nat) (m : OutMsg) : State :=
  let p := s.packetOf m
  let p := if p.cls = .adaptive then { p with im := s.adaptivePath p.src p.dst } else p
  if p.dst = s.dev ∨ (s.out.take k).any fun o => decide ((wireHead o).1 = p.dst) && decide ((wireHead o).2.2 = p.cls) then s
  else match s.queuePacket p with
    | some s => { s with out := s.out.eraseIdx k }
    | none => s

/-- The old bytes of host memory as a number, and what an atomic leaves there (R269, R270). -/
def hostNew (k : PKind) (old : Nat) : Option (List (Option Byte)) :=
  match k with
  | .load => none
  | .store bs _ => some bs
  | .amo opc ty x => some ((natBytes (Ty.bytes ty) (amoNew opc ty old x.toNat).1).map some)
  | .cas ty e n => if old = e.toNat % 2 ^ ty.width then some ((natBytes (Ty.bytes ty) n.toNat).map some) else none

/-- The bridge device carries out an access of host memory over its port 37 and answers it (R38, R90, R91, R109). -/
def State.bridgeDo (s : State) (r : PeerReq) (pa : Nat) : State :=
  if !s.hostPort then s.replyTo r [] false 3
  else
    let old := hostRead s.host pa r.n
    let wr := match r.kind with
      | .store _ _ => true
      | _ => false
    match hostNew r.kind (leNat old) with
    | none => s.replyTo r old false 0
    | some bs =>
      if Config.hostRefuses pa then s.replyTo r (if wr then [] else old) false (if wr then 1 else 0)
      else ({ s with host := hostMask s.host pa bs }).replyTo r (if wr then [] else old) false 0

/-- One hop: a message of this device enters the router; a packet sends a flit over its port to the next router; or one that arrives
is taken here or queued at the port its entry names (R83 to R86). What arrives here for an agent of the device is that agent's
own step; an access of host memory is carried out at once (R90), and the refusal of a launch or a watch, which names no access
of a core, ends its context (R358, R513). -/
def execPacketHop (x : PacketRef) (s : State) : Out :=
  match x with
  | .own k =>
    match s.out[k]? with
    | some m => .next (s.inject k m)
    | none => .next s
  | .queued k =>
    match s.packets[k]? with
    | some (port, p) => if s.mayLeave k port p then .next (s.leave k port p) else .next s
    | none => .next s
  | .arrives p =>
    if p.dst = s.dev then
      match p.body with
      | some (.hostReq d r pa) => if d = s.dev then .next (s.bridgeDo r pa) else .next s
      | some (.reply _ core 0 _ _ 1 x _) =>
        .next (s.contextFatal x (FaultInfo.plain cREFUSED 6) { FaultAt.none with core := core })
      | _ => .next s
    else .next ((s.queuePacket (if p.im = some s.dev then { p with im := none } else p)).getD s)

end Sys2Proof.Machine
end

