-- ==== Sys2Proof/Machine/Power.lean ====
section
/-! DEFINITION. Power.lean: budgets and sensors, the current arbiter, and retention (R469 to R483, R508). -/

namespace Sys2Proof.Machine

/-! ### Draws (R474, R478) -/

def RClass.steady : RClass → Nat
  | .pass16 => 20
  | .pass8 => 16
  | .macroOp => 6
  | .copy => 3

/-- Draw `n` steps after the grant (R474). -/
def RClass.ramp (c : RClass) (n : Nat) : Nat :=
  match c, n with
  | .pass16, 0 => 6
  | .pass16, 1 => 12
  | .pass16, 2 => 18
  | .pass8, 0 => 5
  | .pass8, 1 => 10
  | .pass8, 2 => 15
  | .macroOp, 0 => 3
  | .copy, 0 => 2
  | c, _ => c.steady

/-- Draw in step `n` of a ramp-down (R478). -/
def RClass.fall (c : RClass) (n : Nat) : Nat :=
  match c, n with
  | .pass16, 0 => 14
  | .pass16, 1 => 8
  | .pass16, 2 => 2
  | .pass8, 0 => 11
  | .pass8, 1 => 6
  | .pass8, 2 => 1
  | _, _ => 0

def RClass.isPass : RClass → Bool
  | .pass16 => true
  | .pass8 => true
  | _ => false

/-- What a reservation draws in this step. -/
def Resv.draw (r : Resv) : Nat :=
  match r.down with
  | some n => r.cls.fall n
  | none => r.cls.ramp r.age

/-- What it commits (R476). -/
def Resv.commits (r : Resv) : Nat :=
  match r.down with
  | some n => r.cls.fall n
  | none => r.cls.steady

/-- How much it rises in this step over the previous one (R476). -/
def Resv.rise (r : Resv) : Nat := r.draw - r.prev

/-! ### Reservations end (R478 to R480, R508) -/

/-- The core at a position of a cluster. -/
def coreAt (cl pos : Nat) : Nat := clusterCore (cl / 48) (cl % 48) pos

/-- The requester has nothing to hold the reservation for. -/
def State.ended (s : State) (cl : Nat) (r : Resv) : Bool :=
  let c := coreAt cl r.pos
  match r.unit with
  | .vector => r.ending
  | .copy j => ((s.core c).job j).isNone
  | .matrix => r.ending || ((s.core c).mrun.isNone && (s.mBest c).isNone)

/-- The job a hand-over passes a reservation to (R479). -/
def State.handOver (s : State) (cl : Nat) (r : Resv) : Option MJob :=
  if r.unit = .matrix ∧ r.cls.isPass ∧ r.down.isNone then
    (s.mBest (coreAt cl r.pos)).filter fun j => decide (j.op.cls = r.cls)
  else none

/-- The step of a reservation at a boundary; none where it is freed. A hand-over goes on at the Steady draw (R479). -/
def State.stepResv (s : State) (cl : Nat) (r0 : Resv) : Option Resv :=
  let r := { r0 with prev := r0.draw }
  match r.down with
  | some n => if 2 ≤ n then none else some { r with down := some (n + 1) }
  | none =>
    if !s.ended cl r then some { r with age := r.age + 1 }
    else match s.handOver cl r with
      | some j => some { r with age := 3, ending := false, ctx := j.ctx, prio := j.fr.lvl }
      | none => if r.unit = .matrix ∧ r.cls.isPass then some { r with down := some 0 } else none

/-- The engine of a core starts the job that R321 chooses (R477, R508). -/
def State.startMatrix (s : State) (core : Nat) : State :=
  match s.mBest core with
  | some j => (s.mWithdraw core).modCore core fun k =>
      { k.modMjob j.tid fun j => { j with act := true } with mrun := some j.tid }
  | none => s

/-! ### Grants (R475, R476) -/

/-- The place of a request within its core: matrix, then vector, then copy jobs oldest first. -/
def Load.rank : Load → Nat
  | .matrix => 0
  | .vector => 1
  | .copy j => 2 + j

/-- A request comes before another (R475). -/
def Req.before (ptr : Nat) (a b : Req) : Bool :=
  decide (b.prio < a.prio) || (decide (a.prio = b.prio) &&
    (decide ((a.pos + 4 - ptr) % 4 < (b.pos + 4 - ptr) % 4) || (decide (a.pos = b.pos) && decide (a.unit.rank ≤ b.unit.rank))))

/-- The request may be considered: its requester still wants it, and a matrix engine's old reservation is gone (R478, R508). -/
def State.wants (s : State) (cl : Nat) (r : Req) : Bool :=
  let c := coreAt cl r.pos
  match r.unit with
  | .vector => true
  | .copy j => ((s.core c).job j).any (s.copyStartable c)
  | .matrix => (s.mBest c).any fun j => decide (j.op.cls = r.cls)

/-- The requests granted at a boundary: the test of R476 in order, until one fails. -/
def grants (bud : Nat) : List Req → Nat → Nat → List Req
  | [], _, _ => []
  | r :: l, committed, increase =>
    if committed + r.cls.steady ≤ bud ∧ increase + r.cls.ramp 0 ≤ 12 then
      r :: grants bud l (committed + r.cls.steady) (increase + r.cls.ramp 0)
    else []

/-- BUD as it acts: below 32 as 32, above 128 as 128 (R470). -/
def actingBud (n : Nat) : Nat := if n < 32 then 32 else if 128 < n then 128 else n

/-- A granted requester begins its work in the cycle of the boundary (R477, R508). -/
def State.begin (s : State) (cl : Nat) (r : Req) : State :=
  let c := coreAt cl r.pos
  match r.unit with
  | .matrix => s.startMatrix c
  | .vector => s.modCore c fun k => { k with vidle := s.tick.toNat }
  | .copy j => s.modCore c fun k => k.modJob j fun j => { j with started := true }

/-- A step boundary of the cluster's clock falls in tick `t`: a cycle whose number is a multiple of four, of two cycles a tick, of
one, or of 32 to every 21 ticks with the phase that the implementation chose (R11, R475). -/
def boundaryAt (cl t : Nat) : Bool :=
  match classOf (coreAt cl 0) with
  | 0 => decide (t % 2 = 0)
  | 1 => let p := Config.mediumPhase % 84
    decide (p ≤ 32 * t + 31) && decide ((32 * t + 31 - p) % 84 < 32)
  | _ => decide (t % 4 = 0)

/-- A step boundary of a cluster: its budget acts, ramps advance, ended reservations fall or are freed or handed over, and then
requests made before its cycle are granted in order until one fails (R472 to R480, R508). -/
def execArbiterBoundary (cl : Nat) (s : State) : Out :=
  let c := s.cluster cl
  let t := s.tick.toNat
  if !boundaryAt cl t || c.last = t + 1 then .next s
  else
  let handed := (c.resv.filter fun r => s.ended cl r && (s.handOver cl r).isSome).map fun r => coreAt cl r.pos
  let resv := c.resv.filterMap (s.stepResv cl)
  let bud := actingBud c.budNext
  let s := handed.foldl State.startMatrix s
  let reqs := (s.cluster cl).reqs.filter (s.wants cl)
  let free := reqs.filter fun r => decide (r.since < t)
    && !(r.unit = .matrix && resv.any fun v => v.unit = .matrix && decide (v.pos = r.pos))
  let order := sortBy (Req.before c.ptr) free
  let won := grants bud order (sumNat (resv.map Resv.commits)) (sumNat (resv.map Resv.rise))
  let now := resv ++ won.map fun r => ⟨r.pos, r.unit, r.cls, r.prio, 0, none, false, r.ctx, 0⟩
  let draw := sumNat (now.map Resv.draw)
  let left := reqs.filter fun r => !won.contains r
  let s := s.modCluster cl fun c => { c with
    bud := bud
    resv := now
    reqs := left
    ptr := match won.getLast? with
      | some r => (r.pos + 1) % 4
      | none => c.ptr
    steps := c.steps + 1
    sumDraw := c.sumDraw + draw
    peak := Nat.max c.peak draw
    gwait := if left.isEmpty then c.gwait else Nat.min 65535 (c.gwait + 1)
    busy := if now.isEmpty then c.busy else c.busy + 1
    last := t + 1 }
  .next (won.foldl (fun s r => s.begin cl r) s)

/-- Ticks of 64 cycles of a core (R4). -/
def idleTicks (core : Nat) : Nat := if classOf core = 0 then 32 else if classOf core = 1 then 42 else 64

/-- The vector unit's reservation ends. -/
def Resv.endVector (pos : Nat) (r : Resv) : Resv :=
  if r.pos = pos ∧ r.unit = .vector then { r with ending := true } else r

/-- 64 cycles pass without a vector instruction: the unit's reservation ends (R288, R480). -/
def execVectorIdleTimeout (core : Nat) (s : State) : Out :=
  if (s.core core).vidle + idleTicks core ≤ s.tick.toNat then
    .next (s.modCluster (clusterOf core) fun c => { c with resv := c.resv.map (Resv.endVector (posOf core)) })
  else .next s

/-! ### Budgets and sensors (R469 to R472) -/

/-- The sensor mailbox (R471); TEMP is 0 at reset, and thereafter what the sensor finds. -/
def State.mailbox (s : State) (cl : Nat) : W64 :=
  let c := s.cluster cl
  BitVec.ofNat 64 ((if s.tick = 0 then 0 else (Config.temperature cl s.tick.toNat).toNat) + Nat.min 255 (c.sumDraw / c.steps) * 2 ^ 12
    + Nat.min 255 c.peak * 2 ^ 20 + c.gwait * 2 ^ 28 + 100 * c.busy / c.steps * 2 ^ 44)

/-- A read of the mailbox clears what it clears (R471). -/
def Cluster.read (c : Cluster) : Cluster := { c with steps := 0, sumDraw := 0, peak := 0, gwait := 0, busy := 0 }

/-- Firmware reads a mailbox: the value, and then its clear in the same access (R18, R471). -/
def execSensorRead (cl : Nat) (s : State) : Out := .next { s.modCluster cl Cluster.read with fwRead := [s.mailbox cl] }

/-- A write of BUD acts at the next boundary (R472). -/
def execBudWrite (cl v : Nat) (s : State) : Out := .next (s.modCluster cl fun c => { c with budNext := v % 256 })

/-- RETREQ = 1 (R470, R481). -/
def execRetreqSet (cl : Nat) (s : State) : Out := .next (s.modCluster cl fun c => { c with retreq := true })

/-- The register of a cluster as it reads: BUD, RETREQ and RST (R470). -/
def State.clusterRegs (s : State) (cl : Nat) : W64 :=
  let c := s.cluster cl
  BitVec.ofNat 64 (c.budNext % 256 + bit c.retreq * 2 ^ 8
    + (match c.rst with | .active => 0 | .entering => 1 | .retained => 2 | .exiting => 3) * 2 ^ 9)

/-- RETREQ = 0: exit begins (R482). -/
def execRetreqClear (cl : Nat) (s : State) : Out :=
  .next ((s.modCluster cl fun c => { c with retreq := false }).wakeCluster cl)

/-- The targets of a pass: a cluster that the list does not name is written the target it has (R469). -/
def State.passTarget (s : State) (targets : List (Nat × Nat)) (cl : Nat) : Nat :=
  match targets.find? fun t => decide (t.1 = cl) with
  | some t => t.2 % 256
  | none => (s.cluster cl).budNext

/-- A pass of the power controller: every mailbox is read, every target written, and retention may be requested of clusters without a
service core. A pass whose targets exceed the core-rail limit is none that the controller makes (R469). -/
def execPowerLoop (targets : List (Nat × Nat)) (retain : List Nat) (s : State) : Out :=
  let cls := List.range 192
  if s.tick.toNat % 1050000 ≠ 0 ∨ Config.railLimit < sumNat (cls.map (s.passTarget targets)) then .next s
  else
    let s1 := { cls.foldl (fun s cl => State.modCluster s cl Cluster.read) s with fwRead := cls.map s.mailbox }
    let s1 := cls.foldl (fun t cl => State.modCluster t cl fun c => { c with budNext := s.passTarget targets cl }) s1
    .next ((retain.filter fun cl => decide (cl < 192) && decide (cl % 48 ≠ 47)).foldl (fun s cl =>
      State.modCluster s cl fun c => { c with retreq := true }) s1)

/-! ### Retention (R481 to R483) -/

/-- A core that does not keep its cluster awake (R481). -/
def Core.idle (k : Core) : Bool :=
  k.wins.isEmpty && k.spilled.isEmpty && k.barrow.isEmpty && k.copies.isEmpty && k.mjobs.isEmpty && k.trestle.isEmpty
    && !(k.waiting.any fun w => match w.kind with
      | .landing _ _ => true
      | .row _ _ => true
      | _ => false)
    && !(k.rings.toList.any fun r => r.bound)

def execRetentionEntryStart (cl : Nat) (s : State) : Out :=
  let c := s.cluster cl
  if c.retreq && c.rst = .active && c.resv.isEmpty && ((List.range 4).all fun p => (s.core (coreAt cl p)).idle) then
    .next (s.modCluster cl fun c => { c with rst := .entering, rstSince := s.tick.toNat })
  else .next s

def execRetentionEntryDone (cl : Nat) (s : State) : Out :=
  let c := s.cluster cl
  if c.rst = .entering ∧ c.rstSince + 64 ≤ s.tick.toNat then .next (s.modCluster cl fun c => { c with rst := .retained })
  else .next s

/-- The contexts with an allocation or an awning record on the cores of a cluster (R483). -/
def State.residents (s : State) (cl : Nat) : List Ctx :=
  ((List.range 4).flatMap fun p =>
    let k := s.core (coreAt cl p)
    (k.bals.toList.filter fun b => b.v).map Bal.ctx ++ (k.awns.toList.filter fun a => a.v).map Awn.ctx).eraseDups

/-- Every retention element at its reset value (R481, R483). -/
def Core.wiped (k : Core) : Core :=
  { k with
    wins := []
    spilled := []
    claims := []
    thr := 0
    bufW := []
    bufA := []
    bufS := []
    bufC := []
    stags := []
    awns := Core.zero.awns
    rings := Core.zero.rings
    slots := Core.zero.slots }

/-- The context of a held arrival (R483). -/
def State.heldCtx (s : State) (h : HeldMsg) : Option Ctx :=
  match h with
  | .access r => (s.winAsk r).map WinAcc.x
  | .chit f => some f.c.ctx
  | .back b => some b.ctx
  | .engine (.packet c j _) => ((s.core c).job j).map CopyJob.ctx
  | .engine (.operand c j) => ((s.core c).mjob j).map MJob.ctx
  | .engine _ => none

/-- The state after an event that only moves the machine on. -/
def Out.then (o : Out) (s : State) : State :=
  match o with
  | .next t => t
  | _ => s

/-- A held arrival is delivered, if it still stands (R483). -/
def State.deliverHeld (s : State) (h : HeldMsg) : State :=
  match h with
  | .access r => Out.then (execWindowAccess r s) s
  | .chit f => match s.chits.findIdx? fun g => decide (g = f) with
    | some k => s.byteAtCore f fun t => { t with chits := t.chits.eraseIdx k }
    | none => if f.dev.isSome then s.byteAtCore f id else s
  | .back b => match s.askBacks.findIdx? fun c => decide (c = b) with
    | some k => s.backAtCore b k
    | none => s
  | .engine (.packet c j k) =>
    let s := Out.then (execLandingStage c j k s) s
    Out.then (execCopyPacketPerformed c j k s) s
  | .engine (.operand c j) => match (s.core c).mjob j with
    | some m => Out.then (execMpassrFetchArrival c j (m.nextLine.getD 0) s) s
    | none => s
  | .engine _ => s

/-- The arrivals held at a cluster are delivered in their order (R483). -/
def State.deliverAll (s : State) (cl : Nat) : State :=
  let mine := (s.held.filter fun h => decide (h.1 = cl)).map Prod.snd
  mine.foldl State.deliverHeld { s with held := s.held.filter fun h => decide (h.1 ≠ cl) }

/-- 512 ticks of exit: the cluster is active again and takes the arrivals held, or wipes itself, ends its contexts with RETENTION,
drops their arrivals and reports the failure (R482, R483). -/
def execRetentionExitDone (cl : Nat) (parityOk : Bool) (s : State) : Out :=
  let c := s.cluster cl
  if c.rst ≠ .exiting ∨ s.tick.toNat < c.rstSince + 512 then .next s
  else
    let s := s.modCluster cl fun c => { c with rst := .active }
    if parityOk then .next (s.deliverAll cl)
    else
      let xs := s.residents cl
      let s := { s with held := s.held.filter fun h => !(decide (h.1 = cl) && (s.heldCtx h.2).any xs.contains) }
      let s := (List.range 4).foldl (fun s p => State.modCore s (coreAt cl p) Core.wiped) s
      let s := xs.foldl (fun s x => s.fatalAt x cRETENTION 0 0 (cl % 48) (coreAt cl 0)) s
      let s := { s with free := s.free + 3 }.postEvent 0 { Event.mk0 8 0 0 with
        narg := [Config.free64 s.free, Config.free64 (s.free + 1), Config.free64 (s.free + 2)] }
      .next (s.deliverAll cl)

end Sys2Proof.Machine
end

