-- ==== Sys2Proof/Machine/Host.lean ====
section
/-! DEFINITION. Host.lean: host queues, commands, events, reset, attestation, lifecycle and the registers firmware writes
(R484 to R501, R511, R512). -/

namespace Sys2Proof.Machine

/-! ### The arena (R484 to R487) -/

def arenaSize : Nat := 2 ^ 26

/-- The arena offset of a queue's submission ring (R486). -/
def Queue.subBase (q : Queue) (n : Nat) : Nat := if n = 0 then 0x1000 else q.base + 256

/-- The arena offset of its event ring. -/
def Queue.evBase (q : Queue) (n : Nat) : Nat := if n = 0 then 0x1800 else q.base + 256 + 128 * 2 ^ q.ns

/-- The spans of the arena that a queue occupies. -/
def Queue.spans (q : Queue) (n : Nat) : List (Nat × Nat) :=
  if q.st = .absent then []
  else [(q.base, q.base + 256), (q.subBase n, q.subBase n + 128 * 2 ^ q.ns), (q.evBase n, q.evBase n + 128 * 2 ^ q.ne)]

def State.arena (s : State) (off n : Nat) : Nat := memNat s.mem off n

def Queue.htail (q : Queue) (s : State) : Nat := s.arena q.base 8
def Queue.eack (q : Queue) (s : State) : Nat := s.arena (q.base + 8) 8

/-- The event ring is full: the next event does not fit (R492). -/
def Queue.full (q : Queue) (s : State) : Bool := decide (2 ^ q.ne < q.eseq + 1 - q.eack s)

/-- HQSTAT (R485). -/
def State.hqstat (s : State) (n : Nat) : W64 :=
  let q := s.queue n
  BitVec.ofNat 64 ((match q.st with | .absent => 0 | .running => 1 | .stopped => 2 | .resetting => 3)
    + bit (q.full s) * 4 + q.why % 32 * 8)

/-- A dword of the register page (R486). A queue without rings, as a failed boot leaves queue 0, is absent (R496). -/
def State.regPage (s : State) (o : Nat) : W64 :=
  if o < 0x80 then s.hqstat (o / 8)
  else if o < 0x100 then
    let q := s.queue (o / 8 - 16)
    if q.st = .absent ∨ q.ns = 0 then 0 else BitVec.ofNat 64 (1 + bitsOf q.base 25 8 * 2 ^ 8)
  else if o = 0x100 then BitVec.ofNat 64 (s.dev % 2 ^ 11 + 2 ^ 11)
  else if o = 0x108 then s.fabcfg
  else 0

/-- The host writes arena bytes; the device's own header fields and the event records keep their values (R484, R486, R491). -/
def State.arenaWrite (s : State) (off : Nat) (bs : List Byte) : State :=
  let own (a : Nat) : Bool := (List.range 16).any fun n =>
    let q := s.queue n
    q.st ≠ .absent && ((decide (q.base + 16 ≤ a) && decide (a < q.base + 256))
      || (decide (q.evBase n ≤ a) && decide (a < q.evBase n + 128 * 2 ^ q.ne)))
  let put := bs.mapIdx fun i b => if own (off + i) || decide (arenaSize ≤ off + i) then none else some b
  let meets (n : Nat) (q : Queue) (i : Nat) : Bool :=
    let a := q.subBase n + i * 128
    decide (off < a + 8) && decide (a < off + bs.length)
  if s.bridgeUp s.dev then { s with
    mem := memMask s.mem off put
    mtags := dropTags s.mtags off bs.length
    queues := s.queues.mapIdx fun n (q : Queue) => { q with stale := q.stale.filter fun i => !meets n q i } }
  else s

/-- The host writes its own memory. -/
def State.hostWrite (s : State) (a : Nat) (bs : List Byte) : State := { s with host := hostMask s.host a (bs.map some) }

/-! ### Submission (R487, R488) -/

/-- The queue stops on an error (R488). -/
def State.stopQueue (s : State) (n why kind h : Nat) : State :=
  (s.modQueue n fun q => { q with st := .stopped, why := why }).postEvent n (Event.mk0 kind h 0)

/-- A running queue accepts its next entry, at most one per tick (R488, R492); queues stop without their bridge (R91). An entry written
before the queue's last reset is ignored (R494). -/
def execSubmissionAccept (n : Nat) (s : State) : Out :=
  let q := s.queue n
  let t := s.tick.toNat + 1
  if q.st ≠ .running ∨ q.htail s ≤ q.lacc ∨ q.stale.contains ((q.lacc + 1) % 2 ^ q.ns) ∨ q.accAt = t ∨ q.full s ∨ !s.bridgeUp s.dev then .next s
  else
    let h := q.lacc + 1
    let a := q.subBase n + h % 2 ^ q.ns * 128
    let opc := s.arena (a + 8) 8
    let s := s.modQueue n fun q => { q with accAt := t }
    if s.arena a 8 ≠ h then .next (s.stopQueue n 1 6 h)
    else if 14 < opc ∨ (opc = 0 ∧ s.arena (a + 24) 40 ≠ 0) then .next (s.stopQueue n 2 7 h)
    else if opc = 0 then
      .next ((s.modQueue n fun q =>
        { q with lacc := h, tickets := q.tickets ++ [(h, s.arena (a + 16) 8, BitVec.ofNat 512 (s.arena (a + 64) 64))] }).sync n)
    else
      .next ((s.modQueue n fun q =>
        { q with lacc := h, cmds := q.cmds ++ [⟨h, opc, BitVec.ofNat 384 (s.arena (a + 16) 48)⟩] }).sync n)

/-- Why a host ticket is rejected before its image is checked; 0 where it is not (R456, R488). -/
def State.ticketStatus (s : State) (n taddr : Nat) (img : Nat) : Nat :=
  let x := (s.queue n).ctx
  if taddr = 0 ∨ taddr % 64 ≠ 0 then cALIGN
  else if 2 ^ 48 ≤ taddr then cADDR
  else if n = 0 ∨ imgCtx img ≠ x then cPERM
  else match s.ctxRec x with
    | none => cPERM
    | some r => match r.st with
      | .dead c => c.toNat
      | _ => 0

/-- An accepted ticket becomes a creation at the Exchange of its home die, or is rejected (R488). -/
def execTicketSubmission (n : Nat) (s : State) : Out :=
  let q := s.queue n
  match q.tickets with
  | [] => .next s
  | (h, taddr, img) :: r =>
    let x := q.ctx
    let s := s.modQueue n fun q => { q with tickets := r }
    let code := s.ticketStatus n taddr img.toNat
    if code ≠ 0 then .next (s.rejectTicket n h x code taddr taddr)
    else
      let c : Creation := ⟨x, taddr, .ticket img, 0, false, some (n, h), true⟩
      .next (s.modExch (s.ticketDie x taddr) fun e => { e with input := e.input ++ [c] })

/-! ### Events (R491, R492) -/

/-- An event record (R491). -/
def Event.image (e : Event) (eseq : Nat) : List Byte :=
  natBytes 8 eseq ++ natBytes 8 (e.kind % 256) ++ natBytes 8 e.h0 ++ natBytes 8 e.h1
  ++ natBytes 8 (e.n0 % 2 ^ 32 + e.n1 % 2 ^ 32 * 2 ^ 32)
  ++ (List.range 3).flatMap (fun i => natBytes 8 (e.narg.getD i 0).toNat) ++ natBytes 64 e.frec.toNat

/-- The first waiting event is written whole, and then ESEQ, once there is room (R492). -/
def execEventWrite (n : Nat) (s : State) : Out :=
  let q := s.queue n
  match q.events with
  | [] => .next s
  | e :: r =>
    if q.st = .absent ∨ q.full s ∨ !s.bridgeUp s.dev then .next s
    else
      let k := q.eseq + 1
      let s := s.physWrite (q.evBase n + k % 2 ^ q.ne * 128) (e.image k)
      .next ((s.modQueue n fun q => { q with eseq := k, events := r }).sync n)

/-! ### Commands (R489, R490, R512) -/

/-- A command of this queue is still being carried out. -/
def State.busy (s : State) (n : Nat) : Bool :=
  (s.evicts.any fun e => decide (e.queue = n)) || s.migrations.any fun m => decide (m.queue = n)

/-- The command a queue's service task is to carry out on the service core of die 0, where it has this number and the task can run there
(R6, R489). -/
def State.command (s : State) (n opc : Nat) : Option Cmd :=
  if s.busy n || !s.serves 0 then none else (s.queue n).cmds.head?.filter fun c => decide (c.opc = opc)

/-- The command leaves its queue. -/
def State.take (s : State) (n : Nat) : State := s.modQueue n fun q => { q with cmds := q.cmds.tail }

/-- A field of CARG, by its offset from +16 and its bytes. -/
def Cmd.arg (c : Cmd) (o n : Nat) : Nat := c.carg.toNat / 2 ^ (8 * o) % 2 ^ (8 * n)

def Cmd.ctx (c : Cmd) : Ctx := BitVec.ofNat 16 (c.arg 0 2)

/-- A command ends with a status at once. -/
def State.endCmd (s : State) (n : Nat) (c : Cmd) (status : Nat) : Out := .next ((s.take n).cmdDone n c.hseq status)

/-- The code of a context that is dead on the device, or 0 (R456). -/
def State.deadCode (s : State) (x : Ctx) : Nat :=
  match s.ctxRec x with
  | some r => match r.st with
    | .dead c => c.toNat
    | _ => 0
  | none => 0

/-- The status of a named context: rows 3 and 4 of R512. -/
def State.nameStatus (s : State) (n : Nat) (x : Ctx) : Nat :=
  if n = 0 then (if (s.ctxRec x).isNone then cPERM else s.deadCode x)
  else if (s.queue n).ctx ≠ x ∨ (s.ctxRec x).isNone then cPERM
  else s.deadCode x

/-- A command on queue 0 (R489). -/
def onZero (n : Nat) : Nat := if n = 0 then 0 else cPERM

/-- A command on a bound queue (R489). -/
def onBound (n : Nat) : Nat := if n = 0 then cPERM else 0

/-- The argument block of a command: its arena offset, where it is aligned and lies in the arena (R490). -/
def Cmd.block (c : Cmd) (n : Nat) : Option Nat :=
  let o := c.arg 0 8 % 2 ^ 26
  if o % 64 = 0 ∧ o + n ≤ arenaSize then some o else none

/-- The first non-zero status. -/
def firstStatus : List Nat → Nat
  | [] => 0
  | x :: r => if x = 0 then firstStatus r else x

/-- Contexts the lifecycle state accepts (R500). -/
def State.acceptsContexts (s : State) : Bool := s.life ≠ 3 || s.flash.diagnostic

/-- A translation record as it is held: reserved bits [5:0] and [63:54] read zero (R18, R30). -/
def transMask (v : Nat) : Nat := bitsOf v 53 6 * 2 ^ 6 + bitsOf v 575 64 * 2 ^ 64

def execCtxnew (n : Nat) (s : State) : Out :=
  match s.command n 1 with
  | none => .next s
  | some c =>
    if n ≠ 0 then s.endCmd n c cPERM
    else match c.block 80 with
      | none => s.endCmd n c cADDR
      | some o =>
        let x : Ctx := BitVec.ofNat 16 (s.arena o 2)
        if s.deadCode x ≠ 0 then s.endCmd n c (s.deadCode x)
        else if (s.ctxRec x).isSome then s.endCmd n c cBUFFER
        else if !s.acceptsContexts then s.endCmd n c cPERM
        else
          let r : CtxRec :=
            { trans := BitVec.ofNat 576 (transMask (s.arena (o + 8) 72))
              vec := 0
              st := .live
              dropl := 0
              nextSerial := 1
              debugger := Config.debuggerAttached x }
          (s.setCtx x r).endCmd n c 0

/-- Stage 2 of CTXKILL: allocations, awnings, the fault vector and the translation record go (R494). -/
def State.removeCtx (s : State) (x : Ctx) : State :=
  { s with
    cores := s.cores.map fun (p : Nat × Core) => (p.1, { Core.freeAwns x (Core.freeBal x p.2) with
      ctxs := p.2.ctxs.filter fun q => q.1 != x
      captured := p.2.captured.filter fun q => q.1 != x })
    saves := s.saves.filter fun (p : Nat × SaveArea) => p.2.ctx != x
    owned := s.owned.filter fun o => o.ctx != x
    installs := s.installs.filter fun o => o.ctx != x
    contexts := s.contexts.filter fun p => p.1 != x }

/-- A command that acts on a core of a retained cluster waits for its exit (R482). -/
def State.reachable? (s : State) (core : Nat) : Bool := !s.retained (clusterOf core)

/-- Firmware reaches every one of these cores: their clusters stay or become active (R482). -/
def State.wakeCores (s : State) (cores : List Nat) : State := cores.foldl (fun s c => s.wakeCluster (clusterOf c)) s

/-- CTXKILL; it waits for the clusters in retention of the cores it frees (R482, R494). -/
def execCtxkill (n : Nat) (s : State) : Out :=
  match s.command n 2 with
  | none => .next s
  | some c =>
    let x := c.ctx
    let cores := s.holders x
    if (s.ctxRec x).isNone ∨ (n ≠ 0 ∧ (s.queue n).ctx ≠ x) then s.endCmd n c cPERM
    else if !cores.all s.reachable? then .next (s.wakeCores cores)
    else if s.deadCode x = 0 then
      .next ((((s.take n).wakeCores cores).endContext x (FaultInfo.plain cKILLED 0) FaultAt.none (some (n, c.hseq))).removeCtx x)
    else ((s.wakeCores cores).removeCtx x).endCmd n c 0

/-- The bookkeeping of ownership after a change of a region 0x01 entry (R49, R50, R53). -/
def State.ownAfter (s : State) (x : Ctx) (off e : Nat) : State :=
  let big := decide (pteSz e = 1)
  let page := pageOf big off
  if pteV e && decide (pteKind e = 0) then
    let o : Owned := ⟨x, page, big, 1⟩
    if (s.ownedOf x page big).isSome then s else { s with owned := s.owned ++ [o] }.writeOwner x page big s.dev 1
  else s.dropOwned x page big

/-- MAP: a mapping is created, changed or removed (R35, R36, R511). DESIGN CHOICE (log 63): a removal of size code 2 in region 0x01,
where no such entry can be, ends with status 0 as one that finds no entry. -/
def execMapPage (n : Nat) (s : State) : Out :=
  match s.command n 3 with
  | none => .next s
  | some c =>
    let off := c.arg 0 8
    let region := c.arg 8 8
    let e := c.arg 16 8
    let x := (s.queue n).ctx
    let name := firstStatus [onBound n, s.nameStatus n x]
    if name ≠ 0 then s.endCmd n c name
    else if pteV e then
      let st := s.mapStatus x region off e
      if st ≠ 0 then s.endCmd n c st
      else
        let s := s.mapPut x region off e
        (if region = 1 then s.ownAfter x off e else s).endCmd n c 0
    else if pteSz e = 3 ∨ 4 ≤ region ∨ 2 ^ 48 ≤ off ∨ off % 2 ^ pageShift (pteSz e) ≠ 0 then s.endCmd n c cADDR
    else
      let s := s.mapRemove x region off (pteSz e)
      (if region = 1 then s.ownAfter x off e else s).endCmd n c 0

/-- BAL of an ALLOC command (R157). -/
def balOf (n : Nat) (x : Ctx) : Bal :=
  { v := true
    ctx := x
    wbase := bitsOf n 7 0
    wend := bitsOf n 15 8
    abase := bitsOf n 23 16
    aend := bitsOf n 31 24
    sbase := bitsOf n 39 32
    send := bitsOf n 47 40
    cmask := BitVec.ofNat 8 (bitsOf n 55 48) }

/-- Two unit ranges share a unit. -/
def unitsMeet (a b c d : Nat) : Bool := decide (Nat.max a c < Nat.min b d)

def Bal.meets (a b : Bal) : Bool :=
  unitsMeet a.wbase a.wend b.wbase b.wend || unitsMeet a.abase a.aend b.abase b.aend
    || unitsMeet a.sbase a.send b.sbase b.send || decide (a.cmask &&& b.cmask ≠ 0)

/-- The limits of R157. -/
def Bal.sound (b : Bal) : Bool :=
  decide (b.wbase ≤ b.wend) && decide (b.wend ≤ 128) && decide (b.abase ≤ b.aend) && decide (b.aend ≤ 64)
    && decide (b.sbase ≤ b.send) && decide (b.send ≤ 48)

/-- The core can hold this allocation beside those of other contexts (R157). -/
def Core.balFits (k : Core) (b : Bal) : Bool :=
  let others := k.bals.toList.filter fun o => o.v && decide (o.ctx ≠ b.ctx)
  b.sound && !(others.any b.meets) && decide (others.length < 8)

/-- Make an allocation: wiped, with the context's tile record set (R157, R317). DESIGN CHOICE (log 63): it takes the place of one that the
context already has on the core, which is freed and wiped first, even where the two overlap. -/
def Core.allocate (k : Core) (b : Bal) : Core :=
  let k := Core.freeBal b.ctx k
  match findAt (fun r : Bal => !r.v) k.bals.toList with
  | none => k
  | some (i, _) =>
    let k := Core.freeBal b.ctx { k with bals := vmod i (fun _ => b) k.bals }
    let k := { k with bals := vmod i (fun _ => b) k.bals }
    let ts := k.tilesOf b.ctx
    k.modCx b.ctx fun c => { c with tileL := ts.length, tileMap := ts, lmode := List.replicate ts.length .f2 }

/-- ALLOC (R157, R482). DESIGN CHOICE (log 63): rings, engine jobs and pending ASK replies of the context on the core go on when its
allocation is freed or replaced; what of theirs lies outside then meets BUFFER (R158). -/
def execAlloc (n : Nat) (s : State) : Out :=
  match s.command n 4 with
  | none => .next s
  | some c =>
    let core := c.arg 0 2
    let v := c.arg 16 16
    let x := (s.queue n).ctx
    if n = 0 ∨ (s.ctxRec x).isNone ∨ (v ≠ 0 ∧ BitVec.ofNat 16 (bitsOf v 79 64) ≠ x) then s.endCmd n c cPERM
    else if v ≠ 0 ∧ s.deadCode x ≠ 0 then s.endCmd n c (s.deadCode x)
    else if 767 < core then s.endCmd n c cBUFFER
    else if !s.reachable? core then .next (s.wakeCluster (clusterOf core))
    else
      let s := s.wakeCluster (clusterOf core)
      if v = 0 then (s.modCore core fun k => Core.freeBal x k).endCmd n c 0
      else if (s.core core).balFits (balOf v x) then (s.modCore core fun k => k.allocate (balOf v x)).endCmd n c 0
      else s.endCmd n c cBUFFER

def execAwning (n : Nat) (s : State) : Out :=
  match s.command n 5 with
  | none => .next s
  | some c =>
    let core := c.arg 0 2
    let v := c.arg 8 8
    let x := (s.queue n).ctx
    let id := bitsOf v 8 1
    let name := if n = 0 ∨ BitVec.ofNat 16 (bitsOf v 27 12) ≠ x then cPERM else s.nameStatus n x
    if name ≠ 0 then s.endCmd n c name
    else if v % 2 = 1 ∧ id = 0 then s.endCmd n c cILLEGAL
    else if 767 < core then s.endCmd n c cBUFFER
    else if !s.reachable? core then .next (s.wakeCluster (clusterOf core))
    else
      let s := s.wakeCluster (clusterOf core)
      let k := s.core core
      if v % 2 = 1 then
        match s.awnHome x id, findAt (fun a : Awn => !a.v) k.awns.toList with
        | none, some (i, _) =>
          let a : Awn := ⟨true, id, bitsOf v 11 9, x, false⟩
          (s.modCore core fun k => { k with awns := vmod i (fun _ => a) k.awns }).endCmd n c 0
        | _, _ => s.endCmd n c cBUFFER
      else
        match findAt (fun a : Awn => a.v && decide (a.id = id) && decide (a.ctx = x)) k.awns.toList with
        | none => s.endCmd n c cBUFFER
        | some (i, a) =>
          if a.held then s.endCmd n c cCLAIM
          else (s.modCore core fun k => { k with awns := vmod i (fun _ => Awn.zero) k.awns }).endCmd n c 0

/-- FAULTVEC writes the context's fault-vector register (R449). -/
def execFaultvec (n : Nat) (s : State) : Out :=
  match s.command n 6 with
  | none => .next s
  | some c =>
    let x := (s.queue n).ctx
    let name := firstStatus [onBound n, s.nameStatus n x]
    if name ≠ 0 then s.endCmd n c name
    else match s.ctxRec x with
      | some r => (s.setCtx x { r with vec := BitVec.ofNat 64 (c.arg 0 8) &&& 0x0000FFFFFFFFFFFD }).endCmd n c 0
      | none => s.endCmd n c cPERM

/-- KEYPUT: a key with TAG = 1 is written at an offset (R489, R512). -/
def execKeyput (n : Nat) (s : State) : Out :=
  match s.command n 7 with
  | none => .next s
  | some c =>
    let off := c.arg 0 8
    let region := c.arg 8 8
    let x := (s.queue n).ctx
    let r : BitVec 8 := BitVec.ofNat 8 region
    let name := firstStatus [onBound n, s.nameStatus n x]
    if name ≠ 0 then s.endCmd n c name
    else if 1 < region then s.endCmd n c cADDR
    else if off % 16 ≠ 0 then s.endCmd n c cALIGN
    else
      let owned := s.owned.any fun o => decide (o.ctx = x) && decide (o.page = pageOf o.big off)
      match (if off < 2 ^ 48 then s.entryFor x r off else none) with
      | none => s.endCmd n c cPAGE
      | some e =>
        if pteKind e ≠ 0 ∨ (region = 1 ∧ !owned) then s.endCmd n c cPAGE
        else
          let a := engAsk .store x r true true 191 off 16 s.dev
          match s.writeEntry (s.home x r off) a e ((natBytes 16 (c.arg 16 16)).map some) true with
          | .ok s _ => s.endCmd n c 0
          | .bad pa => .fault (.noSuchAddress pa)
          | _ => s.endCmd n c cPAGE

/-! ### Eviction, restore and migration (R54 to R56, R462, R465, R506) -/

/-- EVICT: the context is frozen, its barrow entries return, and the cores that hold it are to be saved (R462, R506). -/
def execEvict (n : Nat) (s : State) : Out :=
  match s.command n 8 with
  | none => .next s
  | some c =>
    let x := c.ctx
    let name := firstStatus [onZero n, s.nameStatus n x]
    if name ≠ 0 then s.endCmd n c name
    else
      let hs := s.holders x
      let s := match s.ctxRec x with
        | some r => s.setCtx x { r with st := .frozen }
        | none => s
      let s := hs.foldl (fun s k => s.emptyBarrow k x) s
      .next { s.take n with evicts := s.evicts ++ [⟨x, n, c.hseq, c.arg 8 8, hs, hs, false, false⟩] }

/-- The save areas of a context from a base on, in their order, as CTXLOAD will find them (R383, R506). -/
def State.areasFrom (s : State) (x : Ctx) (base : Nat) : Nat → Nat → List SaveArea
  | 0, _ => []
  | fuel + 1, i =>
    match s.areaAt x (base + i * 2 ^ 22) with
    | some a => a :: State.areasFrom s x base fuel (i + 1)
    | none => []

/-- The checks of step 1 of R465 for one area and its target core. -/
def State.targetFits (s : State) (core : Nat) (a : SaveArea) : Bool :=
  let k := s.core core
  (match a.bal with
    | none => true
    | some b => k.balFits b && (k.bal a.ctx).isNone)
  && decide (a.awns.length ≤ k.awns.toList.countP fun r => !r.v)
  && !(a.awns.any fun r => (s.awnHome a.ctx r.2.id).isSome)
  && decide (k.claims.length + a.claims.length ≤ 32)
  && a.slots.all (fun p => let r := vget Slot.zero k.slots p.1; !r.v || decide (r.ctx = a.ctx))
  && decide ((k.jrn.countP fun e => e.st = .refused && decide (e.ctx = a.ctx)) + a.refused.length ≤ 16)

/-- Every target passes, each allocated before the next is checked; none where one fails. -/
def State.prepare (s : State) : List (Nat × SaveArea) → Option State
  | [] => some s
  | (core, a) :: r =>
    if decide (core < 768) && s.targetFits core a then
      State.prepare (match a.bal with
        | some b => s.modCore core fun k => k.allocate b
        | none => s) r
    else none

/-- RESTORE: checks on every target, then the allocations; each target's CTXLOAD follows (R465, R506). It waits for targets in
clusters in retention (R482). -/
def execRestore (n : Nat) (s : State) : Out :=
  match s.command n 9 with
  | none => .next s
  | some c =>
    if n ≠ 0 then s.endCmd n c cPERM
    else match c.block 24 with
      | none => s.endCmd n c cADDR
      | some o =>
        let x : Ctx := BitVec.ofNat 16 (s.arena o 2)
        let base := s.arena (o + 8) 8
        let cnt := s.arena (o + 16) 2
        if arenaSize < o + 24 + 2 * cnt then s.endCmd n c cADDR
        else if s.nameStatus n x ≠ 0 then s.endCmd n c (s.nameStatus n x)
        else
          let cores := (List.range cnt).map fun i => s.arena (o + 24 + 2 * i) 2
          let areas := s.areasFrom x base 768 0
          if cnt = 0 ∨ 768 < cnt ∨ cnt < areas.length then s.endCmd n c cBUFFER
          else if !(cores.take areas.length).all (fun k => decide (768 ≤ k) || s.reachable? k) then
            .next (s.wakeCores ((cores.take areas.length).filter fun k => k < 768))
          else match s.prepare (cores.zip areas) with
            | none => s.endCmd n c cBUFFER
            | some t =>
              let left := cores.take areas.length
              let t := t.wakeCores left
              let t := { t.take n with evicts := t.evicts ++ [⟨x, n, c.hseq, base, left, left, true, false⟩] }
              .next (if left.isEmpty then t.restored 768 x else t)

/-- The bytes of a page of region 0x01 as its home slices hold them. -/
def State.pageBytes (s : State) (x : Ctx) (page : Nat) (big : Bool) : List Byte :=
  (List.range (2 ^ pageShift (pageSz big))).map fun i => s.peek x 1 (pageOff page + i)

/-- MIGRATE: the old owner's checks, then the request to the new owner and the hold; `peer` is the status of the new
owner's firmware (R54 to R56, R512). The hold is set before the page is copied, so the copy holds the page's bytes as they stand now,
and they go to the new owner in the same step. DESIGN CHOICE (log 63): of a 2 MiB page, VA[20:16] in PAGE are taken as zero. -/
def execMigrate (n : Nat) (peer : Nat) (s : State) : Out :=
  match s.command n 10 with
  | none => .next s
  | some c =>
    let v := c.arg 0 16
    let x : Ctx := BitVec.ofNat 16 (bitsOf v 15 0)
    let big := decide (bitsOf v 48 48 = 1)
    let page := if big then bitsOf v 47 16 / 32 * 32 else bitsOf v 47 16
    let new := bitsOf v 59 49
    let name := firstStatus [onZero n, s.nameStatus n x]
    if name ≠ 0 then s.endCmd n c name
    else match s.ownedOf x page big, s.slotOf (s.trans x) (pageSz big) 1 (pageOff page) with
      | some o, some (_, e) =>
        if new = s.dev ∨ !s.fabricOn ∨ 2 * s.q * s.q ≤ new then s.endCmd n c cILLEGAL
        else if (s.migrations.any fun m => decide (m.ctx = x) && decide (m.page = page) && m.big = big) ∨ s.freeStub.isNone then
          s.endCmd n c cBUFFER
        else if peer ≠ 0 then s.endCmd n c peer
        else
          let m : Migr := ⟨x, page, big, new, o.gen + 1, BitVec.ofNat 64 (bitsOf v 123 60), n, c.hseq⟩
          let s := (s.take n).setHold x page big
          .next { s with
            migrations := s.migrations ++ [m]
            out := s.out ++ [OutMsg.install new x page big (bitsOf e 6 3) m.gen, OutMsg.pageData new x page big (s.pageBytes x page big)] }
      | _, _ => s.endCmd n c cADDR

/-! ### Queues (R484, R486, R494) -/

def execQcreate (n : Nat) (s : State) : Out :=
  match s.command n 11 with
  | none => .next s
  | some c =>
    let m := c.arg 0 2
    let d := c.arg 8 8
    let ns := bitsOf d 3 0
    let ne := bitsOf d 7 4
    let x : Ctx := BitVec.ofNat 16 (bitsOf d 23 8)
    let first := c.arg 16 8
    let base := c.arg 24 8
    let q : Queue := { Queue.absent with
      st := .running
      base := base
      ns := ns
      ne := ne
      ctx := x
      lacc := (first + (2 ^ 64 - 1)) % 2 ^ 64
      lcmp := (first + (2 ^ 64 - 1)) % 2 ^ 64 }
    let top := base + 256 + 128 * 2 ^ ns + 128 * 2 ^ ne
    let clash := (List.range 16).any fun i => ((s.queue i).spans i).any fun p => decide (p.1 < top) && decide (base < p.2)
    let name := firstStatus [onZero n, s.nameStatus n x]
    if name ≠ 0 then s.endCmd n c name
    else if m = 0 ∨ 15 < m ∨ ns < 4 ∨ 12 < ns ∨ ne < 4 ∨ 12 < ne then s.endCmd n c cILLEGAL
    else if (s.queue m).st ≠ .absent then s.endCmd n c cBUFFER
    else if base % 256 ≠ 0 ∨ arenaSize < top ∨ clash then s.endCmd n c cADDR
    else
      let s := (s.modQueue m fun _ => q).physWrite base (List.replicate 256 0)
      (s.sync m).endCmd n c 0

/-- QRESET (R494). The CMDDONE of a QRESET of its own queue comes first. -/
def execQreset (n : Nat) (s : State) : Out :=
  match s.command n 12 with
  | none => .next s
  | some c =>
    let m := c.arg 0 2
    if n ≠ 0 then s.endCmd n c cPERM
    else if 15 < m ∨ (s.queue m).st = .absent then s.endCmd n c cBUFFER
    else
      let k := s.launchesOfQueue m
      let s := (if m = n then (s.take n).cmdDone n c.hseq 0 else s).resetQueue m k
      if m = n then .next s else s.endCmd n c 0

/-! ### Reset, attestation and lifecycle (R496 to R501) -/

/-- Extend an attestation register (R498). -/
def extend (am : BitVec 512) (m : BitVec 512) : BitVec 512 := Config.sha512 (natBytes 64 am.toNat ++ natBytes 64 m.toNat)

/-- The digests that the boot ROM extends by: of the header, of the three stages, and of the lifecycle state with the fuses (R498). -/
def State.digest (s : State) (n : Nat) : BitVec 512 :=
  if n = 0 then Config.sha512 (Config.headerImage s.flash)
  else if n < 4 then (s.flash.stages[n - 1]?).elim 0 Config.Stage.digest
  else Config.fuseDigest (n - 4)

/-- The 512 bits of an attestation register: zero, extended by its digests in order (R498). -/
def State.amVal (s : State) (i : Nat) : BitVec 512 := (vget [] s.am i).foldr (fun n v => extend v (s.digest n)) 0

/-- The four conditions of R497, in a lifecycle state; in MANUFACTURE the ROM's own key hash, a manufacturing mark and a rollback count
of 0 stand in (R501). -/
def State.bundleOk (s : State) (life : Nat) : Bool :=
  let b := s.flash
  decide (Config.sha512 b.key = if life = 0 then Config.romKeyHash else s.keyHash)
    && Config.ecdsaVerify b.key (Config.sha512 (Config.headerImage { b with sig := [] })) b.sig
    && (decide (b.stages.length = 3) && b.stages.all fun t => decide (Config.sha512 t.image = t.digest))
    && decide ((if life = 0 then 0 else s.rollback) ≤ b.svn)
    && (decide (life ≠ 0) || b.manufacturing)

/-- The module after a reset in a lifecycle state: everything is wiped, queue 0 is created if the firmware bundle is accepted,
and the boot measurements stand in AM0 to AM4 (R496 to R498). The schedule, the outside, the device id, boot flash and fuses stay. -/
def State.reboot (s : State) (life : Nat) : State :=
  let z : State := { State.reset with
    cur := s.cur
    agenda := s.agenda
    free := s.free
    host := s.host
    dev := s.dev
    life := life
    am := bootAm life
    flash := s.flash
    keyHash := s.keyHash
    rollback := s.rollback }
  if s.bundleOk life then z.sync 0
  else { z with mem := [], queues := Vector.replicate 16 Queue.absent }.modQueue 0 fun _ => { Queue.absent with st := .stopped }

/-- The fuses after a transition: the one to PROVISIONED fuses the key hash and a rollback count of 0 (R501). -/
def State.fuse (s : State) (t : Nat) : State := if t = 1 then { s with keyHash := Config.vendorKeyHash, rollback := 0 } else s

def execModuleReset (s : State) : Out := .next (s.reboot s.life)

/-- The report of ATTEST (R499): the layout of its first 64 bytes is not given, so they are free. -/
def State.attestReport (s : State) (nonce : List Byte) : List Byte :=
  let body := (List.range 64).map (Config.freeByte s.free) ++ nonce ++ (List.range 8).flatMap fun i => natBytes 64 (s.amVal i).toNat
  body ++ sliceBytes (Config.identitySign s.life (Config.sha512 body)) 0 192

def execAttest (n : Nat) (s : State) : Out :=
  match s.command n 13 with
  | none => .next s
  | some c =>
    if n ≠ 0 then s.endCmd n c cPERM
    else match c.block 72 with
      | none => s.endCmd n c cADDR
      | some o =>
        let d := s.arena (o + 64) 8 % 2 ^ 26
        if s.life = 0 then s.endCmd n c cPERM
        else if d % 64 ≠ 0 ∨ arenaSize < d + 832 then s.endCmd n c cADDR
        else
          (s.useFree.physWrite d (s.attestReport (memRead s.mem o 64))).endCmd n c 0

/-- The transitions of R500. -/
def lifeStep (a b : Nat) : Bool :=
  (a = 0 && b = 1) || (a = 1 && b = 2) || (a = 1 && b = 3) || (a = 2 && b = 3)

def execLifecycle (n : Nat) (s : State) : Out :=
  match s.command n 14 with
  | none => .next s
  | some c =>
    if n ≠ 0 then s.endCmd n c cPERM
    else match c.block 148 with
      | none => s.endCmd n c cADDR
      | some o =>
        let t := s.arena o 1 % 4
        if lifeStep s.life t && Config.lifecycleVerify t (memRead s.mem (o + 16) 132) then .next ((s.fuse t).reboot t)
        else s.endCmd n c cPERM

/-! ### Registers that firmware writes (R51, R59, R79, R81, R435, R470) -/

/-- The image of an owner-cache entry (R51). -/
def OwnerEntry.image (o : OwnerEntry) : Nat :=
  bit o.v + bit o.big * 2 + o.ctx.toNat * 2 ^ 2 + o.page % 2 ^ 32 * 2 ^ 18 + o.owner % 2 ^ 11 * 2 ^ 50 + o.gen.toNat * 2 ^ 64

/-- An owner-cache entry of a register image, at a set and way (R51). -/
def ownerImage (set way v : Nat) : OwnerEntry :=
  let big := decide (bitsOf v 1 1 = 1)
  let p := bitsOf v 49 18
  ⟨set, way, decide (v % 2 = 1), big, BitVec.ofNat 16 (bitsOf v 17 2), if big then p / 32 * 32 else p, bitsOf v 60 50, BitVec.ofNat 32 (bitsOf v 95 64)⟩

/-- A way of the owner cache as firmware reads it (R51). -/
def State.ownerRead (s : State) (set way : Nat) : Nat :=
  match s.owners.find? fun o => decide (o.set = set) && decide (o.way = way) with
  | some o => o.image
  | none => 0

/-- Firmware writes a way of the owner cache (R51). DESIGN CHOICE (log 63): an entry so written is the most recently used of its
set. -/
def State.putOwner (s : State) (set way v : Nat) : State :=
  let rest := s.owners.filter fun o => !(decide (o.set = set) && decide (o.way = way))
  let o := ownerImage set way v
  { s with owners := if o.image = 0 then rest else o :: rest }

/-- A write of DEV, which is read only, is ignored (R7, R18, R79). A new path of the routing table acts at once for adaptive
traffic, and for an ordered stream once it has no request outstanding on the old path (R88, `State.sendPart`, `State.emitEntry`). -/
def execRegisterWrite (r : FwReg) (v : Nat) (s : State) : Out :=
  match r with
  | .migcfg => .next { s with migcfg := BitVec.ofNat 64 (bitsOf v 4 0 + bitsOf v 47 19 * 2 ^ 19) }
  | .doubling => .next (s.writeDoubling (BitVec.ofNat 64 (bitsOf v 59 0)))
  | .route d => .next (if d < 2048 then { s with routes := tabPut d (BitVec.ofNat 64 (bitsOf v 54 0)) s.routes } else s)
  | .ownerCache set way => .next (if set < 1024 ∧ way < 8 then s.putOwner set way v else s)
  | .budTarget cl =>
    let s := s.modCluster cl fun c => { c with budNext := v % 256 }
    if bitsOf v 8 8 = 1 then execRetreqSet cl s else execRetreqClear cl s
  | .bellx d => .next (s.modExch d fun e => { e with bellx := v % 32 })
  | .dev => .next s
  | .readOwner set way =>
    let v := s.ownerRead set way
    .next (if set < 1024 ∧ way < 8 then { s with fwRead := [BitVec.ofNat 64 v, BitVec.ofNat 64 (v / 2 ^ 64)] } else s)
  | .readCluster cl => .next (if cl < 192 then { s with fwRead := [s.clusterRegs cl] } else s)

end Sys2Proof.Machine
end

