-- ==== Sys2Proof/Machine/SysReg.lean ====
section
/-! DEFINITION. SysReg.lean: system registers (R7, R18, R24, R111, R166, R190, R191, R216, R252, R253). -/

namespace Sys2Proof.Machine

/-- SPL (R166). -/
def Core.spl (k : Core) : W64 := BitVec.ofNat 64 (spillTop k.spilled + k.spilled.length * 2 ^ 17)

/-- The registers whose read is of variable latency (R208, R216). -/
def lateNum (n : Nat) : Bool := n = 0x30 || n = 0x31 || n = 0x32

/-- The value of a register of fixed latency (R216); 0 for a number that is not assigned. -/
def sysRead (s : State) (w : Window) (n : Nat) : W64 :=
  let k := s.me
  let c := k.cx w.fr.ctx
  match n with
  | 0x00 => BitVec.ofNat 64 k.thr
  | 0x01 => BitVec.ofNat 64 w.fr.pri
  | 0x02 => BitVec.ofNat 64 w.fr.ctx.toNat
  | 0x03 => w.fr.tkt
  | 0x04 => BitVec.ofNat 64 w.fr.rank.toNat
  | 0x05 => BitVec.ofNat 64 w.fr.fansz.toNat
  | 0x06 => BitVec.ofNat 64 (s.cur % 192)
  | 0x07 => BitVec.ofNat 64 (dieOf s.cur)
  | 0x08 => BitVec.ofNat 64 (s.dev % 2 ^ 11)
  | 0x09 => BitVec.ofNat 64 (2 ^ classOf s.cur)
  | 0x10 => w.drg
  | 0x11 => w.nxt
  | 0x12 => w.byt
  | 0x13 => w.hnde
  | 0x14 => BitVec.ofNat 64 w.pthr
  | 0x20 => BitVec.ofNat 64 w.flg.toNat
  | 0x21 => BitVec.ofNat 64 c.cflg.toNat
  | 0x33 => k.jst w.fr
  | 0x34 => k.spl
  | n =>
    if 0x24 ≤ n ∧ n ≤ 0x27 then vget 0 c.mxc (n - 0x24)
    else if 0x40 ≤ n ∧ n < 0x50 then (k.slot (n - 0x40)).rgc
    else if 0x50 ≤ n ∧ n < 0x60 then (k.ring (n - 0x50)).rdc
    else if 0x60 ≤ n ∧ n < 0x70 then (k.ring (n - 0x60)).rdp
    else 0

/-- A read of TIME, SEQC or SEQM becomes outstanding (R208). -/
def startMfs (s : State) (w : Window) (n : Nat) (d : SReg) : State :=
  let p : Pend :=
    { id := s.nextId
      wid := w.wid
      kind := .mfs n d
      ctx := w.fr.ctx
      fr := w.fr
      stamp := s.me.stamp
      region := 0
      off := 0
      n := 8
      viaKey := false
      cached := false
      alloc := false
      acq := false
      rel := false
      sc := false
      scDone := false
      wide := false
      dead := false
      deadLanes := 0
      jrn := []
      jtag := none
      slots := 0
      seq := 0
      map := []
      parts := [] }
  { s.modMe fun k => { k with pend := k.pend ++ [p], stamp := k.stamp + 1 } with nextId := s.nextId + 1 }

def execMfs (h : Hdr) (d : SReg) (n : BitVec 12) (s : State) : Out :=
  issue h false [.s d] s fun s w =>
    if lateNum n.toNat then .ok ((startMfs s w n.toNat d).modTop Window.advance)
    else retireS s w d (sysRead s w n.toNat) 0

/-- A write of a system register (R253): DRG keeps its low 8 bits (R24); FLG and CFLG are cleared by ones (R18). -/
def sysWrite (s : State) (w : Window) (n : Nat) (v : W64) : Ex State :=
  match n with
  | 0x10 => .ok (s.setTop { w with drg := v &&& 0xFF })
  | 0x11 => .ok (s.setTop { w with nxt := v })
  | 0x12 => .ok (s.setTop { w with byt := v })
  | 0x13 => .ok (s.setTop { w with hnde := v })
  | 0x20 => .ok (s.setTop { w with flg := w.flg &&& ~~~(v.truncate 7) })
  | 0x21 => .ok (s.modMe fun k => k.modCx w.fr.ctx fun c => { c with cflg := c.cflg &&& ~~~(v.truncate 7) })
  | _ => .error (FaultInfo.plain cILLEGAL 0)

def execMts (h : Hdr) (n : BitVec 12) (b : SL) (s : State) : Out :=
  issue h false [] s fun s w => Res.check (sysWrite s w n.toNat (w.sl b)) fun s => .ok (s.modTop Window.advance)

end Sys2Proof.Machine
end

