-- ==== Sys2Proof/Machine/Dispatch.lean ====
section
/-! DEFINITION. Dispatch.lean: one arm for each row of the opcode table. -/

namespace Sys2Proof.Machine

def exec (i : Instr) (s : State) : Host.Outcome State Fault Refusal :=
  match i with
  | .add h o => Sys2Proof.Machine.execAdd h o s
  | .sub h o => Sys2Proof.Machine.execSub h o s
  | .mul h o => Sys2Proof.Machine.execMul h o s
  | .mulh h o => Sys2Proof.Machine.execMulh h o s
  | .mulhz h o => Sys2Proof.Machine.execMulhz h o s
  | .div h o => Sys2Proof.Machine.execDiv h o s
  | .divz h o => Sys2Proof.Machine.execDivz h o s
  | .rem h o => Sys2Proof.Machine.execRem h o s
  | .remz h o => Sys2Proof.Machine.execRemz h o s
  | .and h o => Sys2Proof.Machine.execAnd h o s
  | .or h o => Sys2Proof.Machine.execOr h o s
  | .xor h o => Sys2Proof.Machine.execXor h o s
  | .andn h o => Sys2Proof.Machine.execAndn h o s
  | .orn h o => Sys2Proof.Machine.execOrn h o s
  | .shl h o => Sys2Proof.Machine.execShl h o s
  | .shr h o => Sys2Proof.Machine.execShr h o s
  | .sar h o => Sys2Proof.Machine.execSar h o s
  | .rol h o => Sys2Proof.Machine.execRol h o s
  | .clz h o => Sys2Proof.Machine.execClz h o s
  | .ctz h o => Sys2Proof.Machine.execCtz h o s
  | .popc h o => Sys2Proof.Machine.execPopc h o s
  | .brev h o => Sys2Proof.Machine.execBrev h o s
  | .bfx h sx d a b => Sys2Proof.Machine.execBfx h sx d a b s
  | .bfi h d a b => Sys2Proof.Machine.execBfi h d a b s
  | .min h o => Sys2Proof.Machine.execMin h o s
  | .max h o => Sys2Proof.Machine.execMax h o s
  | .minz h o => Sys2Proof.Machine.execMinz h o s
  | .maxz h o => Sys2Proof.Machine.execMaxz h o s
  | .abs h sat o => Sys2Proof.Machine.execAbs h sat o s
  | .sel h pidx pneg d a b => Sys2Proof.Machine.execSel h pidx pneg d a b s
  | .mov h p => Sys2Proof.Machine.execMov h p s
  | .movi h d v => Sys2Proof.Machine.execMovi h d v s
  | .movh h d v => Sys2Proof.Machine.execMovh h d v s
  | .cmp h wid c d a b => Sys2Proof.Machine.execCmp h wid c d a b s
  | .plog h tt d a b => Sys2Proof.Machine.execPlog h tt d a b s
  | .scvt h rm ty sty uns d a => Sys2Proof.Machine.execScvt h rm ty sty uns d a s
  | .fadd h o => Sys2Proof.Machine.execFadd h o s
  | .fsub h o => Sys2Proof.Machine.execFsub h o s
  | .fmul h o => Sys2Proof.Machine.execFmul h o s
  | .fma h o => Sys2Proof.Machine.execFma h o s
  | .fdiv h o => Sys2Proof.Machine.execFdiv h o s
  | .fsqrt h rm dbl d a => Sys2Proof.Machine.execFsqrt h rm dbl d a s
  | .fmin h dbl d a b => Sys2Proof.Machine.execFmin h dbl d a b s
  | .fmax h dbl d a b => Sys2Proof.Machine.execFmax h dbl d a b s
  | .fcmp h dbl c d a b => Sys2Proof.Machine.execFcmp h dbl c d a b s
  | .br h v => Sys2Proof.Machine.execBr h v s
  | .bri h b => Sys2Proof.Machine.execBri h b s
  | .call h vw v => Sys2Proof.Machine.execCall h vw v s
  | .calli h vw b => Sys2Proof.Machine.execCalli h vw b s
  | .ret h => Sys2Proof.Machine.execRet h s
  | .loop h d v => Sys2Proof.Machine.execLoop h d v s
  | .endT h => Sys2Proof.Machine.execEndT h s
  | .nop h => Sys2Proof.Machine.execNop h s
  | .trap h v => Sys2Proof.Machine.execTrap h v s
  | .brk h v => Sys2Proof.Machine.execBrk h v s
  | .mfs h d n => Sys2Proof.Machine.execMfs h d n s
  | .mts h n b => Sys2Proof.Machine.execMts h n b s
  | .ld h o => Sys2Proof.Machine.execLd h o s
  | .ldc h o => Sys2Proof.Machine.execLdc h o s
  | .st h o => Sys2Proof.Machine.execSt h o s
  | .ldaq h sc o => Sys2Proof.Machine.execLdaq h sc o s
  | .strl h sc o => Sys2Proof.Machine.execStrl h sc o s
  | .ldb h ty uns d a b => Sys2Proof.Machine.execLdb h ty uns d a b s
  | .stb h ty d a b => Sys2Proof.Machine.execStb h ty d a b s
  | .ldk h d a b => Sys2Proof.Machine.execLdk h d a b s
  | .stk h d a b => Sys2Proof.Machine.execStk h d a b s
  | .kder h pm d a b => Sys2Proof.Machine.execKder h pm d a b s
  | .kprm h pm d a => Sys2Proof.Machine.execKprm h pm d a s
  | .kadr h set d a b => Sys2Proof.Machine.execKadr h set d a b s
  | .kget h f d a => Sys2Proof.Machine.execKget h f d a s
  | .ktst h pm d a b => Sys2Proof.Machine.execKtst h pm d a b s
  | .kseal h d a => Sys2Proof.Machine.execKseal h d a s
  | .amo h sc ord ty opc d a b => Sys2Proof.Machine.execAmo h sc ord ty opc d a b s
  | .cas h sc ord ty d a b => Sys2Proof.Machine.execCas h sc ord ty d a b s
  | .ldsc h o => Sys2Proof.Machine.execLdsc h o s
  | .stsc h o => Sys2Proof.Machine.execStsc h o s
  | .fence h w a s0 => Sys2Proof.Machine.execFence h w a s0 s
  | .fenr h sc ord b => Sys2Proof.Machine.execFenr h sc ord b s
  | .phase h sc => Sys2Proof.Machine.execPhase h sc s
  | .rgset h slot x => Sys2Proof.Machine.execRgset h slot x s
  | .rgclr h b => Sys2Proof.Machine.execRgclr h b s
  | .rgrd h slot f d => Sys2Proof.Machine.execRgrd h slot f d s
  | .pref h l2 a b => Sys2Proof.Machine.execPref h l2 a b s
  | .jrd h f d b => Sys2Proof.Machine.execJrd h f d b s
  | .jack h b => Sys2Proof.Machine.execJack h b s
  | .vadd h satm o => Sys2Proof.Machine.execVadd h satm o s
  | .vsub h satm o => Sys2Proof.Machine.execVsub h satm o s
  | .vmul h o => Sys2Proof.Machine.execVmul h o s
  | .vma h o => Sys2Proof.Machine.execVma h o s
  | .vmin h uns o => Sys2Proof.Machine.execVmin h uns o s
  | .vmax h uns o => Sys2Proof.Machine.execVmax h uns o s
  | .vabs h sat o => Sys2Proof.Machine.execVabs h sat o s
  | .vneg h sat o => Sys2Proof.Machine.execVneg h sat o s
  | .vand h o => Sys2Proof.Machine.execVand h o s
  | .vor h o => Sys2Proof.Machine.execVor h o s
  | .vxor h o => Sys2Proof.Machine.execVxor h o s
  | .vshl h o => Sys2Proof.Machine.execVshl h o s
  | .vshr h o => Sys2Proof.Machine.execVshr h o s
  | .vsar h o => Sys2Proof.Machine.execVsar h o s
  | .vcmp h msk ty any c d a b => Sys2Proof.Machine.execVcmp h msk ty any c d a b s
  | .vsel h msk ty d a b => Sys2Proof.Machine.execVsel h msk ty d a b s
  | .vcvt h msk ty sty zr ef cont d a part => Sys2Proof.Machine.execVcvt h msk ty sty zr ef cont d a part s
  | .vred h msk ty opc uns d a => Sys2Proof.Machine.execVred h msk ty opc uns d a s
  | .vdot h msk ty acc d a b => Sys2Proof.Machine.execVdot h msk ty acc d a b s
  | .vscan h opc uns o => Sys2Proof.Machine.execVscan h opc uns o s
  | .vperm h o b => Sys2Proof.Machine.execVperm h o b s
  | .vshf h k o b => Sys2Proof.Machine.execVshf h k o b s
  | .vbc h msk ty zr d b => Sys2Proof.Machine.execVbc h msk ty zr d b s
  | .vext h ty uns d a b => Sys2Proof.Machine.execVext h ty uns d a b s
  | .vins h ty d a b => Sys2Proof.Machine.execVins h ty d a b s
  | .vld h msk ty zr d a b => Sys2Proof.Machine.execVld h msk ty zr d a b s
  | .vst h msk ty d a b => Sys2Proof.Machine.execVst h msk ty d a b s
  | .vldx h msk ty zr part d a b => Sys2Proof.Machine.execVldx h msk ty zr part d a b s
  | .vstx h msk ty part d a b => Sys2Proof.Machine.execVstx h msk ty part d a b s
  | .vldg h msk ty zr d x => Sys2Proof.Machine.execVldg h msk ty zr d x s
  | .vstg h msk ty d a b => Sys2Proof.Machine.execVstg h msk ty d a b s
  | .vexp h o => Sys2Proof.Machine.execVexp h o s
  | .vlog h o => Sys2Proof.Machine.execVlog h o s
  | .vrcp h o => Sys2Proof.Machine.execVrcp h o s
  | .vrsq h o => Sys2Proof.Machine.execVrsq h o s
  | .vcmul h o => Sys2Proof.Machine.execVcmul h o s
  | .vcma h o => Sys2Proof.Machine.execVcma h o s
  | .vclmp h uns o b => Sys2Proof.Machine.execVclmp h uns o b s
  | .mkand h d a b => Sys2Proof.Machine.execMkand h d a b s
  | .mkor h d a b => Sys2Proof.Machine.execMkor h d a b s
  | .mkxor h d a b => Sys2Proof.Machine.execMkxor h d a b s
  | .mknot h d a => Sys2Proof.Machine.execMknot h d a s
  | .mkpop h d a => Sys2Proof.Machine.execMkpop h d a s
  | .mkset h first d b => Sys2Proof.Machine.execMkset h first d b s
  | .mzero h cm d => Sys2Proof.Machine.execMzero h cm d s
  | .mpass h o => Sys2Proof.Machine.execMpass h o s
  | .mpassc h cj o => Sys2Proof.Machine.execMpassc h cj o s
  | .mpassr h ty bty d a b => Sys2Proof.Machine.execMpassr h ty bty d a b s
  | .mscale h d a b => Sys2Proof.Machine.execMscale h d a b s
  | .mdrain h ty ef hd hpri d a => Sys2Proof.Machine.execMdrain h ty ef hd hpri d a s
  | .mpack h ty d a b => Sys2Proof.Machine.execMpack h ty d a b s
  | .mtrn h ty d a b => Sys2Proof.Machine.execMtrn h ty d a b s
  | .mcopy h d a => Sys2Proof.Machine.execMcopy h d a s
  | .mstat h d n => Sys2Proof.Machine.execMstat h d n s
  | .mclr h b => Sys2Proof.Machine.execMclr h b s
  | .mcfg h b => Sys2Proof.Machine.execMcfg h b s
  | .mcancel h => Sys2Proof.Machine.execMcancel h s
  | .mrowdone h => Sys2Proof.Machine.execMrowdone h s
  | .spawn h d a b => Sys2Proof.Machine.execSpawn h d a b s
  | .chit h kind cp cpv d a b => Sys2Proof.Machine.execChit h kind cp cpv d a b s
  | .claim h b => Sys2Proof.Machine.execClaim h b s
  | .unclaim h b => Sys2Proof.Machine.execUnclaim h b s
  | .bari h a b => Sys2Proof.Machine.execBari h a b s
  | .bara h sc a b => Sys2Proof.Machine.execBara h sc a b s
  | .tlset h sc d a b => Sys2Proof.Machine.execTlset h sc d a b s
  | .tladd h sc d a b => Sys2Proof.Machine.execTladd h sc d a b s
  | .tlwatch h d a b => Sys2Proof.Machine.execTlwatch h d a b s
  | .ask h dev d b => Sys2Proof.Machine.execAsk h dev d b s
  | .crinit h dev a b => Sys2Proof.Machine.execCrinit h dev a b s
  | .copy h dring sring xf hpri dbuf sbuf d a b => Sys2Proof.Machine.execCopy h dring sring xf hpri dbuf sbuf d a b s
  | .copyc h a => Sys2Proof.Machine.execCopyc h a s
  | .bbinit h d a b => Sys2Proof.Machine.execBbinit h d a b s
  | .rcfg h a b => Sys2Proof.Machine.execRcfg h a b s
  | .rget h b => Sys2Proof.Machine.execRget h b s
  | .rgetFill h b => Sys2Proof.Machine.execRgetFill h b s
  | .rput h b => Sys2Proof.Machine.execRput h b s
  | .rputFill h b => Sys2Proof.Machine.execRputFill h b s
  | .psub h d a b => Sys2Proof.Machine.execPsub h d a b s
  | .pdrop h b => Sys2Proof.Machine.execPdrop h b s
  | .svc h n => Sys2Proof.Machine.execSvc h n s
  | .eret h => Sys2Proof.Machine.execEret h s
  | .ctxsave h d a b => Sys2Proof.Machine.execCtxsave h d a b s
  | .ctxload h a b => Sys2Proof.Machine.execCtxload h a b s
  | .nispill h d a b => Sys2Proof.Machine.execNispill h d a b s
  | .succ h x => Sys2Proof.Machine.execSucc h x s
  | .lput h => Sys2Proof.Machine.execLput h s
  | .swMarkerResume core => Sys2Proof.Machine.execSwMarkerResume core s
  | .loadReply core id ext => Sys2Proof.Machine.execLoadReply core id ext s
  | .issueStallRelease core => Sys2Proof.Machine.execIssueStallRelease core s
  | .journalOpenTimeout core idx => Sys2Proof.Machine.execJournalOpenTimeout core idx s
  | .journalEmit core idx => Sys2Proof.Machine.execJournalEmit core idx s
  | .deferredEmit core k => Sys2Proof.Machine.execDeferredEmit core k s
  | .journalAck core idx => Sys2Proof.Machine.execJournalAck core idx s
  | .storeRefused core idx => Sys2Proof.Machine.execStoreRefused core idx s
  | .refusedTrapDelivery core => Sys2Proof.Machine.execRefusedTrapDelivery core s
  | .sliceLoad x => Sys2Proof.Machine.execSliceLoad x s
  | .sliceStoreDrain x => Sys2Proof.Machine.execSliceStoreDrain x s
  | .atomicPort slice mesh fabric => Sys2Proof.Machine.execAtomicPort slice mesh fabric s
  | .pageWalkDone slice k => Sys2Proof.Machine.execPageWalkDone slice k s
  | .pageFaultMessage slice k resume => Sys2Proof.Machine.execPageFaultMessage slice k resume s
  | .faultReply slice k => Sys2Proof.Machine.execFaultReply slice k s
  | .uncorrectableError ctx found => Sys2Proof.Machine.execUncorrectableError ctx found s
  | .migrationCopyDone copy => Sys2Proof.Machine.execMigrationCopyDone copy s
  | .migrationNotice ctx page copy => Sys2Proof.Machine.execMigrationNotice ctx page copy s
  | .stubRequest r => Sys2Proof.Machine.execStubRequest r s
  | .stubReply k data tag verdict later => Sys2Proof.Machine.execStubReply k data tag verdict later s
  | .reclamationScan idx => Sys2Proof.Machine.execReclamationScan idx s
  | .ownerAck idx => Sys2Proof.Machine.execOwnerAck idx s
  | .stubDrainTimeout idx => Sys2Proof.Machine.execStubDrainTimeout idx s
  | .redirect x data tag verdict owner gen big => Sys2Proof.Machine.execRedirect x data tag verdict owner gen big s
  | .redirectOnly x owner gen big => Sys2Proof.Machine.execRedirectOnly x owner gen big s
  | .redirectOnlyReissue x => Sys2Proof.Machine.execRedirectOnlyReissue x s
  | .ownerUpdate ctx page big owner gen stubDev stubIdx => Sys2Proof.Machine.execOwnerUpdate ctx page big owner gen stubDev stubIdx s
  | .ownerAckSend k => Sys2Proof.Machine.execOwnerAckSend k s
  | .egressRelease x => Sys2Proof.Machine.execEgressRelease x s
  | .misroute x => Sys2Proof.Machine.execMisroute x s
  | .directoryAnswer x owner => Sys2Proof.Machine.execDirectoryAnswer x owner s
  | .flitCrcFail port => Sys2Proof.Machine.execFlitCrcFail port s
  | .linkDown link => Sys2Proof.Machine.execLinkDown link s
  | .packetHop x => Sys2Proof.Machine.execPacketHop x s
  | .fabcfgWrite v => Sys2Proof.Machine.execFabcfgWrite v s
  | .windowAccess x => Sys2Proof.Machine.execWindowAccess x s
  | .farSideInAdvance core ring slot => Sys2Proof.Machine.execFarSideInAdvance core ring slot s
  | .farSideOutAdvance core ring => Sys2Proof.Machine.execFarSideOutAdvance core ring s
  | .pdropDone core ring => Sys2Proof.Machine.execPdropDone core ring s
  | .copyJobStart core job => Sys2Proof.Machine.execCopyJobStart core job s
  | .copyPacketIssue core job k => Sys2Proof.Machine.execCopyPacketIssue core job k s
  | .copyPacketPerformed core job k => Sys2Proof.Machine.execCopyPacketPerformed core job k s
  | .copyJobComplete core job => Sys2Proof.Machine.execCopyJobComplete core job s
  | .landingStage core job k => Sys2Proof.Machine.execLandingStage core job k s
  | .matrixJobStart core => Sys2Proof.Machine.execMatrixJobStart core s
  | .matrixSlabCommit core => Sys2Proof.Machine.execMatrixSlabCommit core s
  | .matrixRowCommit core => Sys2Proof.Machine.execMatrixRowCommit core s
  | .matrixJobComplete core => Sys2Proof.Machine.execMatrixJobComplete core s
  | .mpassrFetchArrival core job run => Sys2Proof.Machine.execMpassrFetchArrival core job run s
  | .rowStage core job => Sys2Proof.Machine.execRowStage core job s
  | .fenceDone core => Sys2Proof.Machine.execFenceDone core s
  | .phaseDone core => Sys2Proof.Machine.execPhaseDone core s
  | .fenrDone core => Sys2Proof.Machine.execFenrDone core s
  | .endDrainDone core => Sys2Proof.Machine.execEndDrainDone core s
  | .spawnReadDone core => Sys2Proof.Machine.execSpawnReadDone core s
  | .mstatDone core => Sys2Proof.Machine.execMstatDone core s
  | .mcancelDone core => Sys2Proof.Machine.execMcancelDone core s
  | .ctxsaveDone core => Sys2Proof.Machine.execCtxsaveDone core s
  | .ctxloadDone core => Sys2Proof.Machine.execCtxloadDone core s
  | .brkReply stop resume => Sys2Proof.Machine.execBrkReply stop resume s
  | .scAnnounce => Sys2Proof.Machine.execScAnnounce s
  | .scDeliver core id => Sys2Proof.Machine.execScDeliver core id s
  | .releaseChit x => Sys2Proof.Machine.execReleaseChit x s
  | .depDecr die k => Sys2Proof.Machine.execDepDecr die k s
  | .barArrive x => Sys2Proof.Machine.execBarArrive x s
  | .byteArrive x => Sys2Proof.Machine.execByteArrive x s
  | .tlUpdate x => Sys2Proof.Machine.execTlUpdate x s
  | .watchArrival x => Sys2Proof.Machine.execWatchArrival x s
  | .askArrival k => Sys2Proof.Machine.execAskArrival k s
  | .askReply k => Sys2Proof.Machine.execAskReply k s
  | .crinitArrival core => Sys2Proof.Machine.execCrinitArrival core s
  | .crierAnswer core => Sys2Proof.Machine.execCrierAnswer core s
  | .launchArrival l => Sys2Proof.Machine.execLaunchArrival l s
  | .creation die => Sys2Proof.Machine.execCreation die s
  | .ticketReadDone die => Sys2Proof.Machine.execTicketReadDone die s
  | .dispatch die => Sys2Proof.Machine.execDispatch die s
  | .bell die => Sys2Proof.Machine.execBell die s
  | .occupancyRefresh die => Sys2Proof.Machine.execOccupancyRefresh die s
  | .walkHop k => Sys2Proof.Machine.execWalkHop k s
  | .bounceReturn k => Sys2Proof.Machine.execBounceReturn k s
  | .barrowTimeout core k => Sys2Proof.Machine.execBarrowTimeout core k s
  | .admission core => Sys2Proof.Machine.execAdmission core s
  | .contextFatal ctx code detail => Sys2Proof.Machine.execContextFatal ctx code detail s
  | .cutClose cut => Sys2Proof.Machine.execCutClose cut s
  | .powerLoop targets retain => Sys2Proof.Machine.execPowerLoop targets retain s
  | .budWrite cluster value => Sys2Proof.Machine.execBudWrite cluster value s
  | .retreqSet cluster => Sys2Proof.Machine.execRetreqSet cluster s
  | .retreqClear cluster => Sys2Proof.Machine.execRetreqClear cluster s
  | .sensorRead cluster => Sys2Proof.Machine.execSensorRead cluster s
  | .exchangeStatusRead die => Sys2Proof.Machine.execExchangeStatusRead die s
  | .arbiterBoundary cluster => Sys2Proof.Machine.execArbiterBoundary cluster s
  | .vectorIdleTimeout core => Sys2Proof.Machine.execVectorIdleTimeout core s
  | .retentionEntryStart cluster => Sys2Proof.Machine.execRetentionEntryStart cluster s
  | .retentionEntryDone cluster => Sys2Proof.Machine.execRetentionEntryDone cluster s
  | .retentionExitDone cluster parityOk => Sys2Proof.Machine.execRetentionExitDone cluster parityOk s
  | .submissionAccept q => Sys2Proof.Machine.execSubmissionAccept q s
  | .ticketSubmission q => Sys2Proof.Machine.execTicketSubmission q s
  | .ctxnew q => Sys2Proof.Machine.execCtxnew q s
  | .ctxkill q => Sys2Proof.Machine.execCtxkill q s
  | .mapPage q => Sys2Proof.Machine.execMapPage q s
  | .alloc q => Sys2Proof.Machine.execAlloc q s
  | .awning q => Sys2Proof.Machine.execAwning q s
  | .faultvec q => Sys2Proof.Machine.execFaultvec q s
  | .keyput q => Sys2Proof.Machine.execKeyput q s
  | .evict q => Sys2Proof.Machine.execEvict q s
  | .restore q => Sys2Proof.Machine.execRestore q s
  | .migrate q peerStatus => Sys2Proof.Machine.execMigrate q peerStatus s
  | .qcreate q => Sys2Proof.Machine.execQcreate q s
  | .qreset q => Sys2Proof.Machine.execQreset q s
  | .attest q => Sys2Proof.Machine.execAttest q s
  | .lifecycle q => Sys2Proof.Machine.execLifecycle q s
  | .eventWrite q => Sys2Proof.Machine.execEventWrite q s
  | .moduleReset => Sys2Proof.Machine.execModuleReset s
  | .registerWrite r value => Sys2Proof.Machine.execRegisterWrite r value s
  | .linkTrained link => Sys2Proof.Machine.execLinkTrained link s
  | .migrationInstall ctx page big perms gen oldOwner frame => Sys2Proof.Machine.execMigrationInstall ctx page big perms gen oldOwner frame s

end Sys2Proof.Machine
end

