-- ==== Sys2Proof/Machine/Turn.lean ====
section
/-! DEFINITION. Turn.lean: the turn of a core (R200, R212, R213): admission and traps at its boundaries (R419, R453), and the fetch
of an instruction's 12 bytes from region 0x02 through their home slices (R23, R40, R93, R200). -/

namespace Sys2Proof.Machine

/-- What a core's turn comes to. -/
inductive TurnRes where
  /-- run this instruction in this state -/
  | run (i : Instr) (s : State)
  /-- the step is this state -/
  | state (s : State)
  | fault (f : Fault)
  deriving DecidableEq, Repr

/-- The frame of a window waits for its fetch (R40). -/
def State.parkFetch (s : State) (wid : Nat) : State := s.modCore s.cur fun k =>
  { k with wins := k.wins.map fun v => if v.wid = wid then { v with park := some .fetch } else v }

/-- The fetch as its slices see it. -/
def fetchAsk (s : State) (w : Window) : Ask := engAsk .fetch w.fr.ctx 2 false w.sys s.cur w.pc.toNat 12 s.dev

/-- A fetch and its decoding (R200, R213): a load of 12 bytes at their home slices (R93, R95, R97). A PC that is not a multiple of 4
raises ALIGN; bytes at or above 2^48 raise ADDR (R25). -/
def State.fetchTurn (s : State) (w : Window) : TurnRes :=
  let x := w.fr.ctx
  let pc := w.pc.toNat
  if pc % 4 ≠ 0 then .state (s.takeFault ⟨cALIGN, 4, 2, pc⟩)
  else if 2 ^ 48 < pc + 12 then .state (s.takeFault ⟨cADDR, 4, 2, pc⟩)
  else if !s.holds? x then .state (s.contextFatal x ⟨cREFUSED, 4, 2, pc⟩ ⟨s.cur, pc, w.fr.tkt.toNat, w.fr.serial.toNat⟩)
  else match s.engRead (.fetch s.cur w.wid) (fetchAsk s w) with
    | .bad pa => .fault (.noSuchAddress pa)
    | .wait s => .state (s.parkFetch w.wid)
    | .ok s bs =>
      match decode w.sys w.vn (ofBytes bs) with
      | .ok i => .run i s
      | .error .priv => .state (s.takeFault (FaultInfo.plain cPRIV 0))
      | .error .illegal => .state (s.takeFault (FaultInfo.plain cILLEGAL 0))

/-- What comes before the next instruction at a boundary: an admission (R406, R419, R422), else a REFUSED trap of the frame on top
(R453). -/
def State.beforeIssue (s : State) : Option State :=
  if !s.boundary s.cur then none
  else match bestCand (s.candidates s.cur) with
    | some c => some (s.admitCand s.cur c)
    | none => s.trapOf s.cur

/-- The turn of the core `s.cur`: an admission or a trap, idle, a wait, or fetch and decode. Frames of a frozen context issue
nothing (R462). -/
def State.coreTurn (s : State) : TurnRes :=
  match s.beforeIssue with
  | some s => .state s
  | none =>
    match s.top with
    | none => .state s
    | some w =>
      if s.frozen w.fr.ctx then .state s
      else match w.park with
        | some .fetch =>
          if s.blocked (.fetch s.cur w.wid) then .state s else s.fetchTurn w
        | some (.service n) => .state (s.runService w n)
        | some p =>
          match wakeEvent s.cur p with
          | some i => .run i s
          | none => .state s
        | none => s.fetchTurn w

end Sys2Proof.Machine
end

