-- ==== Sys2Proof/Machine/Step.lean ====
section
/-! DEFINITION. Step.lean: one step of the module: the turn the schedule names (log 1). -/

namespace Sys2Proof.Machine

/-- The turn of the core `s.cur`. -/
def coreStep (s : State) : Host.Outcome State Fault Refusal :=
  match s.coreTurn with
  | .run i s' => exec i s'
  | .state s' => .next s'
  | .fault f => .fault f

/-- One step: the first turn of the agenda, or the core `s.cur` where the agenda is empty. -/
def step (s : State) : Host.Outcome State Fault Refusal :=
  match s.agenda with
  | [] => coreStep s
  | .core c :: r => coreStep { s with agenda := r, cur := c }
  | .event i :: r => exec i { s with agenda := r }
  | .arena o bs :: r => .next ({ s with agenda := r }.arenaWrite o bs)
  | .hostMem a bs :: r => .next ({ s with agenda := r }.hostWrite a bs)
  | .ticks n :: r => .next ({ s with agenda := r }.passTicks n)

/-- The instruction whose bits are `w`, where the next step fetches (log 6). -/
def State.withFetchWord (s : State) (_nbits w : Nat) : State := s.placeWord w

end Sys2Proof.Machine
end

