-- ==== Sys2Proof/Safety.lean ====
section
/-! DEFINITION. Safety.lean: the vocabulary of the statements: when a word issues, what it leaves unchanged, and what a
sound state is. -/

namespace Sys2Proof.Machine

/-! ### Sound states -/

/-- Memory stands in canonical form: addresses strictly rising, no listed zero. -/
def State.canonical (s : State) : Prop := Memory.wf s.mem = true

/-- A step runs: it answers a next state. -/
def State.runs (s : State) : Prop := ∃ t, step s = .next t

/-- The turn of a core: `u` is the state in which the core that moves next takes its turn. -/
def State.moves (s u : State) : Prop :=
  (s.agenda = [] ∧ u = s) ∨ ∃ (c : Nat) (r : List Turn), s.agenda = .core c :: r ∧ u = { s with agenda := r, cur := c }

/-! ### A word that issues (R207, R209) -/

/-- The window `w` runs on the core whose turn it is, no switch marker holds its word back, and the guard of the word
holds. `forced` is the marker that R209 gives END, RET, CALL, CALLI, SVC, TRAP, BRK and ERET. -/
structure Issues (s : State) (w : Window) (h : Hdr) (forced : Bool) : Prop where
  top : s.top = some w
  free : (h.sw || forced) = true → s.me.outstanding w.fr = false
  guard : w.guard h = true

/-- The window of a word that issues: it waits for nothing. -/
def Window.begun (w : Window) : Window := { w with park := none, fresh := false }

/-- The state in which the effect of a word begins: results that still travel toward a register that the word names as
its destination will be discarded (R211). -/
def State.begun (s : State) (w : Window) (dst : List Dst) : State :=
  (s.setTop w.begun).modMe fun k =>
    { k with pend := k.pend.map fun p => dst.foldl (fun p d => p.discard w.wid d) p }

/-- The state after a word whose running window becomes `w'` and that raises the flags `fl` (R225). -/
def State.after (s : State) (w : Window) (dst : List Dst) (w' : Window) (fl : Flags) : State :=
  (s.begun w dst).retire w'.advance fl

/-- The state after a word that writes `v` to a scalar register and raises the flags `fl`. -/
def State.wrote (s : State) (w : Window) (d : SReg) (v : W64) (fl : Flags) : State :=
  s.after w [.s d] (w.begun.wrS d v) fl

/-- The state after a word whose running window becomes `w'`, without flags. -/
def State.put (s : State) (w : Window) (dst : List Dst) (w' : Window) : State := (s.begun w dst).setTop w'.advance

/-- The state in which the running frame has taken a local fault (R448 to R451). -/
def State.took (s : State) (w : Window) (f : FaultInfo) : State := (s.setTop w.begun).takeFault f

/-- The state after a vector word whose running window becomes `w'` and that raises the flags `fl`: the vector unit has been
used in this tick (R288). -/
def State.vafter (s : State) (w : Window) (dst : List Dst) (w' : Window) (fl : Flags) : State :=
  ((s.begun w dst).modMe fun k => { k with vidle := s.tick.toNat }).retire w'.advance fl

/-! ### Frames -/

/-- Nothing but the cores table differs, and in it only the core whose turn it is: every byte of memory and of every other
core's buffers, every register of every other agent, and the clock stand as before. -/
def SameElse (s t : State) : Prop := t = { s with cores := t.cores } ∧ ∀ c, c ≠ s.cur → t.core c = s.core c

/-- Nothing of a core but its windows, its outstanding results and its per-context registers differs: buffers, journal, L1,
rings, jobs, THR and every other register of the core stand as before. -/
def SameCore (k l : Core) : Prop := l = { k with wins := l.wins, pend := l.pend, ctxs := l.ctxs }

/-- Nothing of a context's registers on a core but CFLG differs. -/
def SameCx (a b : CtxCore) : Prop := b = { a with cflg := b.cflg }

/-- Outstanding results differ in nothing but whether their value is discarded (R211). -/
def SamePend (a b : List Pend) : Prop :=
  b.map (fun p => { p with dead := false, deadLanes := 0 }) = a.map (fun p => { p with dead := false, deadLanes := 0 })

/-- The frame of a word whose effect is on its own window: the running window `w` becomes `v`, flags may rise in CFLG of the
frame's context, results under way may be discarded, and nothing else of the module changes. -/
structure OwnFrame (s t : State) (w v : Window) : Prop where
  rest : SameElse s t
  core : SameCore s.me t.me
  wins : t.me.wins = v :: s.me.wins.tail
  ctx : ∀ x, SameCx (s.me.cx x) (t.me.cx x)
  other : ∀ x, x ≠ w.fr.ctx → t.me.cx x = s.me.cx x
  pend : SamePend s.me.pend t.me.pend

/-- What a word of the register families may write, and the flags that its rules name. -/
structure Writes where
  h : Hdr
  s : List SReg
  p : List PReg
  m : List MReg
  k : List KReg
  fl : Flags

/-- The registers of `v` are those of `w` outside the word's destinations, the PC has advanced, and no flag falls; only the
named flags rise, and they rise in FLG and in CFLG alike. -/
structure RegFrame (s t : State) (w v : Window) (o : Writes) : Prop where
  own : OwnFrame s t w v
  win : v = { w with s := v.s, p := v.p, m := v.m, k := v.k, flg := v.flg, pc := w.pc + 12, park := none, fresh := false }
  sregs : ∀ r, r ∉ o.s → v.rdS r = w.rdS r
  pregs : ∀ r, r ∉ o.p → v.rdP r = w.rdP r
  mregs : ∀ r, r ∉ o.m → v.rdM r = w.rdM r
  kregs : ∀ r, r ∉ o.k → v.rdK r = w.rdK r
  flags : ∃ fl : Flags, fl &&& ~~~o.fl = 0 ∧ v.flg = w.flg ||| fl ∧
    (t.me.cx w.fr.ctx).cflg = (s.me.cx w.fr.ctx).cflg ||| fl

/-- The words whose whole effect is on registers of their own window and that never fault: integer arithmetic and logic,
moves, selection, predicates, floating point, masks, and the readers KGET, KTST and JRD; NOP writes none. -/
def regWord : Instr → Option Writes
  | .add h o | .sub h o => some ⟨h, [o.d], [], [], [], fSAT⟩
  | .div h o | .divz h o | .rem h o | .remz h o => some ⟨h, [o.d], [], [], [], fDZ⟩
  | .mul h o | .mulh h o | .mulhz h o | .and h o | .or h o | .xor h o | .andn h o | .orn h o | .shl h o | .shr h o
  | .sar h o | .rol h o | .min h o | .max h o | .minz h o | .maxz h o => some ⟨h, [o.d], [], [], [], 0⟩
  | .clz h o | .ctz h o | .popc h o | .brev h o => some ⟨h, [o.d], [], [], [], 0⟩
  | .abs h _ o => some ⟨h, [o.d], [], [], [], fSAT⟩
  | .bfx h _ d _ _ | .bfi h d _ _ | .sel h _ _ d _ _ | .movi h d _ | .movh h d _ | .mkpop h d _ | .kget h _ d _
  | .jrd h _ d _ => some ⟨h, [d], [], [], [], 0⟩
  | .mov h q => match q with
    | .ss d _ | .si d _ | .sp d _ | .sm d _ => some ⟨h, [d], [], [], [], 0⟩
    | .ps d _ | .pp d _ | .pi d _ => some ⟨h, [], [d], [], [], 0⟩
    | .ms d _ | .mm d _ => some ⟨h, [], [], [d], [], 0⟩
    | .kk d _ => some ⟨h, [], [], [], [d], 0⟩
  | .cmp h _ _ d _ _ | .plog h _ d _ _ | .ktst h _ d _ _ => some ⟨h, [], [d], [], [], 0⟩
  | .scvt h _ _ _ _ d _ => some ⟨h, [d], [], [], [], BitVec.allOnes 7⟩
  | .fadd h o | .fsub h o | .fmul h o | .fma h o | .fdiv h o => some ⟨h, [o.d], [], [], [], BitVec.allOnes 7⟩
  | .fsqrt h _ _ d _ | .fmin h _ d _ _ | .fmax h _ d _ _ => some ⟨h, [d], [], [], [], BitVec.allOnes 7⟩
  | .fcmp h _ _ d _ _ => some ⟨h, [], [d], [], [], fNV⟩
  | .mkand h d _ _ | .mkor h d _ _ | .mkxor h d _ _ | .mknot h d _ | .mkset h _ d _ => some ⟨h, [], [], [d], [], 0⟩
  | .nop h => some ⟨h, [], [], [], [], 0⟩
  | _ => none

/-- The header of a word, and whether R209 gives it the switch marker whatever the bit holds (LPUT and MROWDONE end their frame
as END does: R339, R385); events have none. -/
def wordHdr : Instr → Option (Hdr × Bool)
  | .add h .. | .sub h .. | .mul h .. | .mulh h .. | .mulhz h .. | .div h .. | .divz h .. | .rem h .. | .remz h ..
  | .and h .. | .or h .. | .xor h .. | .andn h .. | .orn h .. | .shl h .. | .shr h .. | .sar h .. | .rol h ..
  | .clz h .. | .ctz h .. | .popc h .. | .brev h .. | .bfx h .. | .bfi h .. | .min h .. | .max h .. | .minz h ..
  | .maxz h .. | .abs h .. | .sel h .. | .mov h .. | .movi h .. | .movh h .. | .cmp h .. | .plog h .. | .scvt h ..
  | .fadd h .. | .fsub h .. | .fmul h .. | .fma h .. | .fdiv h .. | .fsqrt h .. | .fmin h .. | .fmax h ..
  | .fcmp h .. | .br h .. | .bri h .. | .loop h .. | .nop h | .mfs h .. | .mts h .. | .ld h .. | .ldc h .. | .st h ..
  | .ldaq h .. | .strl h .. | .ldb h .. | .stb h .. | .ldk h .. | .stk h .. | .kder h .. | .kprm h .. | .kadr h ..
  | .kget h .. | .ktst h .. | .kseal h .. | .amo h .. | .cas h .. | .ldsc h .. | .stsc h .. | .fence h ..
  | .fenr h .. | .phase h .. | .rgset h .. | .rgclr h .. | .rgrd h .. | .pref h .. | .jrd h .. | .jack h ..
  | .vadd h .. | .vsub h .. | .vmul h .. | .vma h .. | .vmin h .. | .vmax h .. | .vabs h .. | .vneg h .. | .vand h ..
  | .vor h .. | .vxor h .. | .vshl h .. | .vshr h .. | .vsar h .. | .vcmp h .. | .vsel h .. | .vcvt h .. | .vred h ..
  | .vdot h .. | .vscan h .. | .vperm h .. | .vshf h .. | .vbc h .. | .vext h .. | .vins h .. | .vld h .. | .vst h ..
  | .vldx h .. | .vstx h .. | .vldg h .. | .vstg h .. | .vexp h .. | .vlog h .. | .vrcp h .. | .vrsq h ..
  | .vcmul h .. | .vcma h .. | .vclmp h .. | .mkand h .. | .mkor h .. | .mkxor h .. | .mknot h .. | .mkpop h ..
  | .mkset h .. | .mzero h .. | .mpass h .. | .mpassc h .. | .mpassr h .. | .mscale h .. | .mdrain h .. | .mpack h ..
  | .mtrn h .. | .mcopy h .. | .mstat h .. | .mclr h .. | .mcfg h .. | .mcancel h | .spawn h ..
  | .chit h .. | .claim h .. | .unclaim h .. | .bari h .. | .bara h .. | .tlset h .. | .tladd h .. | .tlwatch h ..
  | .ask h .. | .crinit h .. | .copy h .. | .copyc h .. | .bbinit h .. | .rcfg h .. | .rget h .. | .rgetFill h ..
  | .rput h .. | .rputFill h .. | .psub h .. | .pdrop h .. | .ctxsave h .. | .ctxload h .. | .nispill h ..
  | .succ h .. => some (h, false)
  | .call h .. | .calli h .. | .ret h | .endT h | .trap h .. | .brk h .. | .svc h .. | .eret h | .mrowdone h | .lput h => some (h, true)
  | _ => none

/-! ### Windows that a word starts -/

/-- The start of a CALL window over `w` (R246). -/
structure CallStart (s : State) (w v : Window) (n : Nat) (t : W64) : Prop where
  args : ∀ i : Fin 8, v.rdS ⟨i.val, by omega⟩ = w.rdS ⟨i.val + 8, by omega⟩
  zero : ∀ i : Fin 8, v.rdS ⟨i.val + 8, by omega⟩ = 0
  keys : ∀ i : Fin 4, v.rdK ⟨i.val, by omega⟩ = w.rdK ⟨i.val + 4, by omega⟩
  nokeys : ∀ i : Fin 4, v.rdK ⟨i.val + 4, by omega⟩ = Key.zero
  preds : v.p = 0
  masks : v.m = Vector.replicate 8 0
  vecs : v.v = List.replicate n 0
  copied : v.drg = w.drg ∧ v.nxt = w.nxt ∧ v.byt = w.byt ∧ v.hnde = w.hnde ∧ v.flg = w.flg ∧ v.fr = w.fr
  saved : v.pthr = s.me.thr ∧ v.rpc = w.pc + 12 ∧ v.callw = true ∧ v.svc = false ∧ v.adm = false
  pc : v.pc = t
  runs : v.park = none

/-- What a load, an atomic or a prefetch leaves when it issues: its result is outstanding under the id that was next, its
frame goes on at the next word, no register is written, and no byte of memory changes. -/
structure Fetching (s t : State) (w : Window) (a : Acc) (kind : PendKind → Prop) : Prop where
  pend : ∃ p ∈ t.me.pend, p.id = s.nextId ∧ p.wid = w.wid ∧ kind p.kind ∧ p.region = a.region ∧ p.off = a.off ∧ p.n = a.n
  wins : t.me.wins = w.begun.advance :: s.me.wins.tail
  mem : t.mem = s.mem
  bufs : t.me.bufW = s.me.bufW ∧ t.me.bufA = s.me.bufA ∧ t.me.bufS = s.me.bufS
  other : ∀ c, c ≠ s.cur → t.core c = s.core c

/-! ### Words that start a job -/

/-- The job that a matrix word puts at the end of the engine's list, and what its issue leaves (R317, R324, R325): the
operation, the physical tile, the tile that a renaming left behind; the successor, bytebar and handler entry captured from
the window; and the context's tile registers after it. -/
structure MatrixJob (s t : State) (w : Window) (op : MOp) (tile : Nat) (old : Option Nat) (cx : CtxCore → CtxCore) : Prop where
  job : ∃ j : MJob, t.me.mjobs = s.me.mjobs ++ [j] ∧ j.op = op ∧ j.tile = tile ∧ j.old = old ∧
    j.fr = w.fr ∧ j.ctx = w.fr.ctx ∧ j.nxt = w.nxt ∧ j.byt = w.byt ∧ j.hnde = w.hnde ∧
    j.act = false ∧ j.cancel = false ∧ j.cur = 0
  regs : t.me.cx w.fr.ctx = { cx (s.me.cx w.fr.ctx) with seqmIssued := (s.me.cx w.fr.ctx).seqmIssued + 1 }
  others : ∀ x, x ≠ w.fr.ctx → t.me.cx x = s.me.cx x
  wins : t.me.wins = w.begun.advance :: s.me.wins.tail
  bufs : t.me.bufW = s.me.bufW ∧ t.me.bufA = s.me.bufA ∧ t.me.bufS = s.me.bufS ∧ t.me.bufC = s.me.bufC
  rest : t.mem = s.mem ∧ t.me.pend = s.me.pend ∧ t.me.rings = s.me.rings ∧ t.me.copies = s.me.copies
  cores : ∀ c, c ≠ s.cur → t.core c = s.core c

/-- The frame goes on: the running window becomes `w'`, and no byte of memory, of the host, of another core or of this core's
W, A and C buffers changes. -/
structure GoesOn (s t : State) (w' : Window) : Prop where
  wins : t.me.wins = w' :: s.me.wins.tail
  mem : t.mem = s.mem ∧ t.host = s.host
  bufs : t.me.bufW = s.me.bufW ∧ t.me.bufA = s.me.bufA ∧ t.me.bufC = s.me.bufC
  others : ∀ c, c ≠ s.cur → t.core c = s.core c

/-- A word queues a message: behind the ticket's earlier entries where `wait` holds (R264, R397). -/
structure Sends (s t : State) (w : Window) (wait : Bool) (what : Send) : Prop where
  on : GoesOn s t w.begun.advance
  queued : t.me.defer = s.me.defer ++ [⟨w.fr.serial, w.fr.ctx, s.me.stamp, wait, what, w.fr, []⟩]
  bufS : t.me.bufS = s.me.bufS
  closed : wait = true → ∀ e ∈ t.me.jrn, e.ofTicket w.fr = true → e.st ≠ .opened

/-! ### Effects of other agents -/

/-- A context that the device knows and that is not dead. -/
def State.live (s : State) (x : Ctx) : Prop := ∃ r, s.ctxRec x = some r ∧ ∀ c, r.st ≠ .dead c

/-- A context that a fault of this code has ended (R456). -/
def State.died (t : State) (x : Ctx) (code : Nat) : Prop := ∃ r, t.ctxRec x = some r ∧ r.st = .dead (BitVec.ofNat 8 code)

/-- Part `i` of the outstanding access `id` of core `c`. -/
def State.hasPart (t : State) (c id i : Nat) (p : Part → Prop) : Prop :=
  ∃ r ∈ (t.core c).pend, r.id = id ∧ ∃ q, r.parts[i]? = some q ∧ p q

/-- The home slice of an access holds its line, dirty, with these bytes put over those it held before (R94, R97). -/
def State.wroteLine (s t : State) (sl : Nat) (x : Ctx) (region : BitVec 8) (off e : Nat) (bs : List (Option Byte)) : Prop :=
  ∃ l ∈ (t.slice sl).lines, l.ctx = x ∧ l.line = vaOf region off / 128 ∧ l.dirty = true ∧
    l.data = putAt (s.useLine sl x region off e).2.data (off % 128) bs

/-- A command of queue `n` has left it and its CMDDONE waits among the queue's events (R489, R491). -/
def CmdEnds (s t : State) (n : Nat) (c : Cmd) (status : Nat) : Prop :=
  (t.queue n).cmds = (s.queue n).cmds.tail ∧ (t.queue n).events = (s.queue n).events ++ [Event.mk0 5 c.hseq status]

/-! ### Reference values in Lean's own bitvector operations (R228) -/

/-- The low `w` bits of an operand. -/
def Wid.cut (i : Wid) (v : W64) : BitVec (Wid.bits i) := v.setWidth _

/-- Kind S. -/
def Wid.sx {i : Wid} (v : BitVec (Wid.bits i)) : W64 := v.signExtend 64

/-- Kind Z. -/
def Wid.zx {i : Wid} (v : BitVec (Wid.bits i)) : W64 := v.setWidth 64

/-- Clamp of R229 and the SAT flag of a clamp that changes its value. -/
def clampSat (x lo hi : Int) : W64 × Flags :=
  let y := max lo (min hi x)
  (BitVec.ofInt 64 y, if y = x then 0 else fSAT)

/-! ### Floating values as rational numbers -/

/-- The value of a finite operand. -/
def FV.rat : FV → Rat
  | .num neg m e => (if neg then -1 else 1) * m * (2 : Rat) ^ e
  | _ => 0

/-- A finite number. -/
def FV.finite : FV → Bool
  | .num _ _ _ => true
  | _ => false

end Sys2Proof.Machine
end

