-- ==== Sys2Proof/Certificates/Slice0/Obligations.lean ====
section
/-! DEFINITION. Obligations.lean: the statements for the provers. Each names the rule of spec/ that it formalises. -/

open Sys2Proof Sys2Proof.Machine

/-! ### Scalar words (R224 to R243) -/

/-- R229: each two-source integer instruction writes the result of the table's row, extended by its kind, and raises the
flags the rule gives; R230's corners are a statement of their own. -/
def Obligations.IntegerResults : Prop :=
  ∀ (s : State) (w : Window) (h : Hdr), Issues s w h false →
    (∀ o : IntS,
      let x := Wid.cut o.wid (w.rdS o.a)
      let y := Wid.cut o.wid (w.si o.b)
      (o.satm = .wrap →
        exec (.add h o) s = .next (s.wrote w o.d (Wid.sx (x + y)) 0) ∧
        exec (.sub h o) s = .next (s.wrote w o.d (Wid.sx (x - y)) 0)) ∧
      (o.satm = .ss →
        let lo : Int := -2 ^ (Wid.bits o.wid - 1)
        let hi : Int := 2 ^ (Wid.bits o.wid - 1) - 1
        (let r := clampSat (x.toInt + y.toInt) lo hi
         exec (.add h o) s = .next (s.wrote w o.d r.1 r.2)) ∧
        (let r := clampSat (x.toInt - y.toInt) lo hi
         exec (.sub h o) s = .next (s.wrote w o.d r.1 r.2))) ∧
      (o.satm = .us →
        let hi : Int := 2 ^ Wid.bits o.wid - 1
        (let r := clampSat (x.toNat + y.toNat) 0 hi
         exec (.add h o) s = .next (s.wrote w o.d r.1 r.2)) ∧
        (let r := clampSat ((x.toNat : Int) - y.toNat) 0 hi
         exec (.sub h o) s = .next (s.wrote w o.d r.1 r.2)))) ∧
    (∀ o : Int3,
      let x := Wid.cut o.wid (w.rdS o.a)
      let y := Wid.cut o.wid (w.si o.b)
      let n := y.toNat % Wid.bits o.wid
      let out (v : W64) : Host.Outcome State Fault Refusal := .next (s.wrote w o.d v 0)
      exec (.mul h o) s = out (Wid.sx (x * y)) ∧
      exec (.mulh h o) s = out (BitVec.ofInt 64 (x.toInt * y.toInt / 2 ^ Wid.bits o.wid)) ∧
      exec (.mulhz h o) s = out (BitVec.ofNat 64 (x.toNat * y.toNat / 2 ^ Wid.bits o.wid)) ∧
      (y ≠ 0 →
        exec (.div h o) s = out (Wid.sx (x.sdiv y)) ∧
        exec (.divz h o) s = out (Wid.zx (x / y)) ∧
        exec (.rem h o) s = out (Wid.sx (x.srem y)) ∧
        exec (.remz h o) s = out (Wid.zx (x % y))) ∧
      exec (.and h o) s = out (Wid.sx (x &&& y)) ∧
      exec (.or h o) s = out (Wid.sx (x ||| y)) ∧
      exec (.xor h o) s = out (Wid.sx (x ^^^ y)) ∧
      exec (.andn h o) s = out (Wid.sx (x &&& ~~~y)) ∧
      exec (.orn h o) s = out (Wid.sx (x ||| ~~~y)) ∧
      exec (.shl h o) s = out (Wid.sx (x <<< n)) ∧
      exec (.shr h o) s = out (Wid.zx (x >>> n)) ∧
      exec (.sar h o) s = out (Wid.sx (x.sshiftRight n)) ∧
      exec (.rol h o) s = out (Wid.sx (x.rotateLeft n)) ∧
      exec (.min h o) s = out (Wid.sx (if x.sle y then x else y)) ∧
      exec (.max h o) s = out (Wid.sx (if x.sle y then y else x)) ∧
      exec (.minz h o) s = out (Wid.zx (if x ≤ y then x else y)) ∧
      exec (.maxz h o) s = out (Wid.zx (if x ≤ y then y else x))) ∧
    (∀ o : Int2,
      let x := Wid.cut o.wid (w.rdS o.a)
      let out (v : W64) : Host.Outcome State Fault Refusal := .next (s.wrote w o.d v 0)
      exec (.clz h o) s = out (Wid.zx x.clz) ∧
      exec (.ctz h o) s = out (Wid.zx x.ctz) ∧
      exec (.popc h o) s = out (Wid.zx x.cpop) ∧
      exec (.brev h o) s = out (Wid.sx x.reverse) ∧
      exec (.abs h false o) s = out (Wid.sx x.abs) ∧
      (let r := clampSat x.toInt.natAbs 0 (2 ^ (Wid.bits o.wid - 1) - 1)
       exec (.abs h true o) s = .next (s.wrote w o.d r.1 r.2)))

/-- R230: the divisions complete for a zero divisor with the values of the table, DZ where the dividend is not zero; the
most negative number divided by -1 gives itself and remainder 0, without a flag. R231, bit by bit: BFX takes `len` bits of
A from `pos`, zeros above bit 63, extended by the top bit of the field where SX is set; BFI replaces the bits `pos` to
`pos + len - 1` of D, those above bit 63 lost. -/
def Obligations.DivisionAndBitFields : Prop :=
  (∀ (s : State) (w : Window) (h : Hdr) (o : Int3), Issues s w h false →
     let x := Wid.cut o.wid (w.rdS o.a)
     let y := Wid.cut o.wid (w.si o.b)
     let out (v : W64) (fl : Flags) : Host.Outcome State Fault Refusal := .next (s.wrote w o.d v fl)
     let dz : Flags := if x = 0 then 0 else fDZ
     (y = 0 →
       exec (.div h o) s = out (Wid.sx (BitVec.allOnes (Wid.bits o.wid))) dz ∧
       exec (.divz h o) s = out (Wid.zx (BitVec.allOnes (Wid.bits o.wid))) dz ∧
       exec (.rem h o) s = out (Wid.sx x) dz ∧
       exec (.remz h o) s = out (Wid.zx x) dz) ∧
     (x = BitVec.intMin (Wid.bits o.wid) → y = BitVec.allOnes (Wid.bits o.wid) →
       exec (.div h o) s = out (Wid.sx (BitVec.intMin (Wid.bits o.wid))) 0 ∧
       exec (.rem h o) s = out 0 0)) ∧
  (∀ (s : State) (w : Window) (h : Hdr) (d a : SReg) (b : SI), Issues s w h false →
     let pos := (w.si b).toNat % 64
     let len := (w.si b).toNat / 64 % 64 + 1
     (∀ sx, ∃ v : W64, exec (.bfx h sx d a b) s = .next (s.wrote w d v 0) ∧
       ∀ i < 64, v.getLsbD i = if i < len then (w.rdS a).getLsbD (pos + i)
         else (sx && (w.rdS a).getLsbD (pos + len - 1))) ∧
     (∃ v : W64, exec (.bfi h d a b) s = .next (s.wrote w d v 0) ∧
       ∀ i < 64, v.getLsbD i = if pos ≤ i ∧ i < pos + len then (w.rdS a).getLsbD (i - pos) else (w.rdS d).getLsbD i))

/-- R232 to R235, R249: MOV copies each accepted pair, MOVI and MOVH build a constant, SEL chooses by a predicate, and NOP
does nothing. R236 and R237: CMP writes the condition of its operands to a predicate, and PLOG the bit of its truth table;
p0 stays as it is (R162). -/
def Obligations.MoveAndPredicateResults : Prop :=
  (∀ (s : State) (w : Window) (h : Hdr), Issues s w h false →
     let w1 := w.begun
     exec (.nop h) s = .next (s.put w [] w1) ∧
     (∀ d b : SReg, exec (.mov h (.ss d b)) s = .next (s.put w [.s d] (w1.wrS d (w.rdS b)))) ∧
     (∀ (d : SReg) (v : BitVec 18), exec (.mov h (.si d v)) s = .next (s.put w [.s d] (w1.wrS d (v.signExtend 64)))) ∧
     (∀ (d : SReg) (b : PReg), exec (.mov h (.sp d b)) s =
       .next (s.put w [.s d] (w1.wrS d (if w.rdP b then 1 else 0)))) ∧
     (∀ (d : SReg) (b : MReg), exec (.mov h (.sm d b)) s = .next (s.put w [.s d] (w1.wrS d (w.rdM b)))) ∧
     (∀ (d : PReg) (b : SReg), exec (.mov h (.ps d b)) s = .next (s.put w [] (w1.wrP d (w.rdS b != 0)))) ∧
     (∀ d b : PReg, exec (.mov h (.pp d b)) s = .next (s.put w [] (w1.wrP d (w.rdP b)))) ∧
     (∀ (d : PReg) (v : BitVec 18), exec (.mov h (.pi d v)) s = .next (s.put w [] (w1.wrP d (v != 0)))) ∧
     (∀ (d : MReg) (b : SReg), exec (.mov h (.ms d b)) s = .next (s.put w [] (w1.wrM d (w.rdS b)))) ∧
     (∀ d b : MReg, exec (.mov h (.mm d b)) s = .next (s.put w [] (w1.wrM d (w.rdM b)))) ∧
     (∀ d b : KReg, exec (.mov h (.kk d b)) s = .next (s.put w [.k d] (w1.wrK d (w.rdK b)))) ∧
     (∀ (d : SReg) (v : BitVec 18), exec (.movi h d (.short v)) s = .next (s.wrote w d (v.signExtend 64) 0)) ∧
     (∀ (d : SReg) (v : BitVec 39), exec (.movi h d (.long v)) s = .next (s.wrote w d (v.signExtend 64) 0)) ∧
     (∀ (d : SReg) (v : BitVec 18), exec (.movh h d (.short v)) s =
       .next (s.wrote w d ((v.signExtend 32) ++ (w.rdS d).extractLsb' 0 32) 0)) ∧
     (∀ (d : SReg) (v : BitVec 39), exec (.movh h d (.long v)) s =
       .next (s.wrote w d ((v.setWidth 32) ++ (w.rdS d).extractLsb' 0 32) 0)) ∧
     (∀ (q : PReg) (neg : Bool) (d a : SReg) (b : SI), exec (.sel h q neg d a b) s =
       .next (s.wrote w d (if w.rdP q = !neg then w.rdS a else w.si b) 0))) ∧
  (∀ (s : State) (w : Window) (h : Hdr), Issues s w h false →
     (∀ (i : Wid) (c : Cond) (d : PReg) (a : SReg) (b : SI),
       let x := Wid.cut i (w.rdS a)
       let y := Wid.cut i (w.si b)
       let v := match c with
         | .eq => x == y
         | .ne => x != y
         | .lt => x.slt y
         | .le => x.sle y
         | .gt => y.slt x
         | .ge => y.sle x
         | .ltu => x.ult y
         | .leu => x.ule y
         | .gtu => y.ult x
         | .geu => y.ule x
         | .tst => (x &&& y) != 0
         | .ntst => (x &&& y) == 0
       exec (.cmp h i c d a b) s = .next (s.put w [] (w.begun.wrP d v))) ∧
     (∀ (tt : BitVec 4) (d a b : PReg),
       let i := (if w.rdP a then 2 else 0) + (if w.rdP b then 1 else 0)
       exec (.plog h tt d a b) s = .next (s.put w [] (w.begun.wrP d (tt.getLsbD i)))))

/-- R162: p0 reads 1 and m0 reads all ones; a write of either is discarded, while the word completes; any other predicate
or mask then reads what was written, and the others stay. -/
def Obligations.HardwiredRegisters : Prop :=
  (∀ w : Window, w.rdP 0 = true ∧ w.rdM 0 = BitVec.allOnes 64) ∧
  (∀ (s : State) (w : Window) (h : Hdr) (b : SReg) (x : BitVec 18), Issues s w h false →
    exec (.mov h (.ps 0 b)) s = .next (s.put w [] w.begun) ∧
    exec (.mov h (.pi 0 x)) s = .next (s.put w [] w.begun) ∧
    exec (.mov h (.ms 0 b)) s = .next (s.put w [] w.begun)) ∧
  (∀ (w : Window) (p q : PReg) (v : Bool), p ≠ 0 → (w.wrP p v).rdP q = if q = p then v else w.rdP q) ∧
  (∀ (w : Window) (p q : MReg) (v : W64), p ≠ 0 → (w.wrM p v).rdM q = if q = p then v else w.rdM q)

/-- R238 to R243: the floating words complete. A NaN operand gives the canonical NaN, with NV where one of them signals;
FMIN and FMAX answer one of their operands and FCMP compares by value. R239 where no rounding is needed: when an encoding
of the format has exactly the value of the sum, difference or product of two finite operands and that value is not zero,
the word gives this encoding in every mode and raises no flag. -/
def Obligations.FloatResults : Prop :=
  (∀ (s : State) (w : Window) (h : Hdr), Issues s w h false →
     (∀ o : F3,
       let f := fmtOf o.dbl
       let x := w.rdF o.dbl o.a
       let y := w.rdF o.dbl o.b
       let z := w.rdF o.dbl o.d
       let out (r : Nat × Flags) : Host.Outcome State Fault Refusal := .next (s.wrote w o.d (BitVec.ofNat 64 r.1) r.2)
       exec (.fadd h o) s = out (f.add o.rm x y) ∧ exec (.fsub h o) s = out (f.sub o.rm x y) ∧
       exec (.fmul h o) s = out (f.mul o.rm x y) ∧ exec (.fdiv h o) s = out (f.div o.rm x y) ∧
       exec (.fma h o) s = out (f.fma o.rm x y z) ∧
       exec (.fmin h o.dbl o.d o.a o.b) s = out (f.minmax false x y) ∧
       exec (.fmax h o.dbl o.d o.a o.b) s = out (f.minmax true x y) ∧
       exec (.fsqrt h o.rm o.dbl o.d o.a) s = out (f.sqrt o.rm x) ∧
       (∀ (c : FCond) (d : PReg), exec (.fcmp h o.dbl c d o.a o.b) s =
         .next (s.after w [] (w.begun.wrP d (f.holds c x y).1) (f.holds c x y).2)) ∧
       ((f.decode x).isNan = true ∨ (f.decode y).isNan = true →
         let nan := out (f.nan, if (f.decode x).isSig || (f.decode y).isSig then fNV else 0)
         exec (.fadd h o) s = nan ∧ exec (.fsub h o) s = nan ∧ exec (.fmul h o) s = nan ∧ exec (.fdiv h o) s = nan ∧
         exec (.fmin h o.dbl o.d o.a o.b) s = nan ∧ exec (.fmax h o.dbl o.d o.a o.b) s = nan) ∧
       ((f.decode x).isNan = false → (f.decode y).isNan = false →
         ((f.minmax false x y = (x, 0) ∧ f.minmax true x y = (y, 0)) ∨
           (f.minmax false x y = (y, 0) ∧ f.minmax true x y = (x, 0))))) ∧
     (∀ (rm : Rm) (ty sty : Ty) (uns : Bool) (d a : SReg),
       let r := convert ty sty uns rm ((w.rdS a).toNat % 2 ^ sty.width)
       exec (.scvt h rm ty sty uns d a) s = .next (s.wrote w d
         (if Ty.isInt ty && !uns then BitVec.ofInt 64 (sextInt ty.width (r.1 % 2 ^ ty.width)) else BitVec.ofNat 64 r.1) r.2))) ∧
  (∀ (dbl : Bool) (rm : Rm) (x y v : Nat),
     let f := fmtOf dbl
     x < 2 ^ f.width → y < 2 ^ f.width → v < 2 ^ f.width →
     (f.decode x).finite = true → (f.decode y).finite = true → (f.decode v).finite = true → (f.decode v).rat ≠ 0 →
     ((f.decode v).rat = (f.decode x).rat + (f.decode y).rat → f.add rm x y = (v, 0)) ∧
     ((f.decode v).rat = (f.decode x).rat - (f.decode y).rat → f.sub rm x y = (v, 0)) ∧
     ((f.decode v).rat = (f.decode x).rat * (f.decode y).rat → f.mul rm x y = (v, 0)))

/-- R162, R199, R200, R225: a word of the register families completes whenever it issues. It writes no register but its
destination, raises no flag its rules do not name, advances the PC by 12, and changes no byte of any memory or buffer and
no other register of the module. -/
def Obligations.RegisterWordFrames : Prop :=
  ∀ (s : State) (w : Window) (i : Instr) (o : Writes), regWord i = some o → Issues s w o.h false →
    ∃ (t : State) (v : Window), exec i s = .next t ∧ RegFrame s t w v o

/-- R207, R209: every word whose guard is false changes nothing but its PC, whatever it is: no register, byte, engine,
count or flag; results under way toward a register that it names may be discarded (R211). Every word that is marked, and
END, RET, CALL, CALLI, SVC, TRAP, BRK and ERET in any case, with LPUT and MROWDONE, which end their frame as END does
(R339, R385), waits while a result of its frame is outstanding. -/
def Obligations.GuardAndMarker : Prop :=
  ∀ (s : State) (w : Window) (i : Instr) (h : Hdr) (forced : Bool), wordHdr i = some (h, forced) → s.top = some w →
    (w.guard h = false → ((h.sw || forced) = true → s.me.outstanding w.fr = false) →
      ∃ (t : State), exec i s = .next t ∧ OwnFrame s t w { w with pc := w.pc + 12, park := none, fresh := false } ∧
        ∀ x, t.me.cx x = s.me.cx x) ∧
    ((h.sw || forced) = true → s.me.outstanding w.fr = true →
      exec i s = .next (s.setTop { w with park := some .marker }))

/-! ### Control words and exceptions (R244 to R251, R379, R380, R448 to R456) -/

/-- R244 and R245: BR and LOOP go to PC + 12 × imm and BRI to its register when the target is a multiple of 4 below 2^48;
LOOP decrements its register modulo 2^64 and falls through when it reaches zero. R244 and R245: a taken branch to a target
that is not a multiple of 4 takes ALIGN, and one whose target lies outside region 0x02 takes ADDR; the frame's registers,
LOOP's among them, and its PC are unchanged when the fault is taken. -/
def Obligations.BranchResults : Prop :=
  (∀ (s : State) (w : Window) (h : Hdr) (v : LImm), Issues s w h false →
     let t : Int := (w.pc.toNat : Int) + 12 * (match v with
       | .short x => x.toInt
       | .long x => x.toInt)
     let go (dst : List Dst) (w' : Window) (t : Int) : Host.Outcome State Fault Refusal :=
       .next ((s.begun w dst).setTop { w' with pc := BitVec.ofInt 64 t })
     (t % 4 = 0 → 0 ≤ t → t < 2 ^ 48 →
       exec (.br h v) s = go [] w.begun t ∧
       ∀ d : SReg, w.rdS d ≠ 1 → exec (.loop h d v) s = go [.s d] (w.begun.wrS d (w.rdS d - 1)) t) ∧
     (∀ d : SReg, w.rdS d = 1 → exec (.loop h d v) s = .next (s.put w [.s d] (w.begun.wrS d 0))) ∧
     (∀ b : SReg, (w.rdS b).toNat % 4 = 0 → (w.rdS b).toNat < 2 ^ 48 → exec (.bri h b) s = go [] w.begun (w.rdS b).toNat)) ∧
  (∀ (s : State) (w : Window) (h : Hdr) (v : LImm), Issues s w h false →
     let t : Int := (w.pc.toNat : Int) + 12 * (match v with
       | .short x => x.toInt
       | .long x => x.toInt)
     let fault (code : Nat) (t : Int) : Host.Outcome State Fault Refusal := .next (s.took w ⟨code, 0, 2, (t % 2 ^ 64).toNat⟩)
     (t % 4 ≠ 0 →
       exec (.br h v) s = fault cALIGN t ∧
       ∀ d : SReg, w.rdS d ≠ 1 → exec (.loop h d v) s = fault cALIGN t) ∧
     (t % 4 = 0 → (t < 0 ∨ 2 ^ 48 ≤ t) →
       exec (.br h v) s = fault cADDR t ∧
       ∀ d : SReg, w.rdS d ≠ 1 → exec (.loop h d v) s = fault cADDR t) ∧
     (∀ b : SReg,
       ((w.rdS b).toNat % 4 ≠ 0 → exec (.bri h b) s = fault cALIGN (w.rdS b).toNat) ∧
       ((w.rdS b).toNat % 4 = 0 → 2 ^ 48 ≤ (w.rdS b).toNat → exec (.bri h b) s = fault cADDR (w.rdS b).toNat)))

/-- R246, R164, R167: CALL and CALLI push a window that starts as the rule's table says and continue at the target; the
caller's window stays below it, unchanged. Where the window fits among the resident ones nothing is spilled. Where the
spill would leave the area the word takes STACK and the stack is unchanged. R247, R200: RET copies the callee's s0 to s7
into the caller's s8 to s15, its k0 to k3 into k4 to k7 and its FLG, pops the window and continues at RPC; THR and every
other register of the caller are unchanged. A caller that is resident is the next window of the stack, and one that was
spilled is filled by the pop. Without a CALL window it takes STACK, with a claim left at its depth CLAIM, and with an RPC
that is not a multiple of 4 ALIGN. -/
def Obligations.CallAndReturnResults : Prop :=
  (∀ (s : State) (w : Window) (h : Hdr) (vw : Fin 4), Issues s w h true →
     let n := match vw with
       | 0 => w.v.length
       | 1 => 0
       | 2 => 8
       | 3 => 16
     let s1 := s.begun w []
     let call (t : W64) (o : Host.Outcome State Fault Refusal) : Prop :=
       ∃ v : Window, CallStart s w v n t ∧
         (∀ k, s1.me.push v = some k → o = .next { s1.setCore s.cur k with nextId := s.nextId + 1 }) ∧
         (s1.me.push v = none → o = .next (s.took w ⟨cSTACK, 0, 0, spillTop s.me.spilled⟩)) ∧
         (fitsResident n s.me.wins = true → spillTop s.me.spilled ≤ 0x10000 →
           s1.me.push v = some { s1.me with wins := v :: s1.me.wins })
     (∀ v : LImm,
       let t : Int := (w.pc.toNat : Int) + 12 * (LImm.val v).toInt
       t % 4 = 0 → 0 ≤ t → t < 2 ^ 48 → call (BitVec.ofInt 64 t) (exec (.call h vw v) s)) ∧
     (∀ b : SReg, (w.rdS b).toNat % 4 = 0 → (w.rdS b).toNat < 2 ^ 48 → call (w.rdS b) (exec (.calli h vw b) s))) ∧
  (∀ (s : State) (w : Window) (h : Hdr), Issues s w h true →
     (∀ (c : Window) (r : List Window), s.me.pop.wins = c :: r → w.callw = true → w.svc = false →
       (∀ q ∈ s.me.claims, q.wid ≠ w.wid) → w.rpc.toNat % 4 = 0 →
       ∃ (t : State) (v : Window), exec (.ret h) s = .next t ∧
         t = { s with cores := t.cores } ∧
         t.me = { s.me.pop with wins := v :: r } ∧
         v = { c with s := v.s, k := v.k, flg := w.flg, pc := w.rpc } ∧
         (∀ i : Fin 8, v.rdS ⟨i.val, by omega⟩ = c.rdS ⟨i.val, by omega⟩ ∧
           v.rdS ⟨i.val + 8, by omega⟩ = w.rdS ⟨i.val, by omega⟩) ∧
         (∀ i : Fin 4, v.rdK ⟨i.val, by omega⟩ = c.rdK ⟨i.val, by omega⟩ ∧
           v.rdK ⟨i.val + 4, by omega⟩ = w.rdK ⟨i.val, by omega⟩)) ∧
     (∀ (c : Window) (r : List Window), s.me.wins = w :: c :: r → s.me.pop = { s.me with wins := c :: r }) ∧
     (w.callw = true → w.svc = false → (∀ q ∈ s.me.claims, q.wid ≠ w.wid) → w.rpc.toNat % 4 ≠ 0 →
       exec (.ret h) s = .next (s.took w ⟨cALIGN, 0, 2, w.rpc.toNat⟩)) ∧
     (w.callw = false ∨ w.svc = true → exec (.ret h) s = .next (s.took w ⟨cSTACK, 0, 0, spillTop s.me.spilled⟩)) ∧
     (w.callw = true → w.svc = false → (∃ q ∈ s.me.claims, q.wid = w.wid) →
       ∃ d, exec (.ret h) s = .next (s.took w ⟨cCLAIM, 0, 0, d⟩)))

/-- R379, R380 and R495: SVC pushes a service window that starts as the rule's list says, with s0 to s7 of the caller, as
a frame of a SYS ticket at priority, level and THR 7. At its turn, with no admission or trap before it at the boundary
(R419, R453) and its context not frozen (R462), the service puts its result into s0: the bundle's version for service 0,
and all ones for a number with no service and for a queue that the context does not own; ERET comes next. ERET copies s0
to s7 back, pops the window, restores THR from PTHR and continues after the SVC. SVC with a number above 255 takes
ILLEGAL, and one whose window finds no room STACK; ERET outside a service window takes ILLEGAL, and with a claim left
CLAIM. R250, R251 and R6: TRAP takes the fault 0x20 + imm. BRK posts a stop message, with its core, window, context,
ticket, PC and tag, to the service core of its die and parks its frame until the reply; nothing else changes. A value
outside their ranges takes ILLEGAL. -/
def Obligations.ServiceTrapAndBreak : Prop :=
  (∀ (s : State) (w : Window) (h : Hdr),
     (Issues s w h true →
       (∀ n : BitVec 18, n.toNat < 256 → ∃ v : Window,
         (let s1 := s.begun w []
          (∀ k, s1.me.push v = some k → exec (.svc h n) s = .next { s1.setCore s.cur { k with thr := 7 } with nextId := s.nextId + 1 }) ∧
          (s1.me.push v = none → exec (.svc h n) s = .next (s.took w ⟨cSTACK, 0, 0, spillTop s.me.spilled⟩)) ∧
          (fitsResident 0 s.me.wins = true → spillTop s.me.spilled ≤ 0x10000 →
            s1.me.push v = some { s1.me with wins := v :: s1.me.wins })) ∧
         v.pc = Config.serviceEntry n.toNat ∧ v.rpc = (w.pc + 12) ||| 1 ∧ v.pthr = s.me.thr ∧ v.callw = true ∧
         v.sys = true ∧ v.fr.ctx = w.fr.ctx ∧ v.fr.pri = 7 ∧ v.fr.lvl = 7 ∧ v.p = 0 ∧ v.v = [] ∧
         v.m = Vector.replicate 8 0 ∧ v.k = Vector.replicate 8 Key.zero ∧
         v.drg = 0 ∧ v.nxt = 0 ∧ v.byt = 0 ∧ v.hnde = 0 ∧ v.flg = 0 ∧ v.park = some (.service n.toNat) ∧
         (∀ i : Fin 8, v.rdS ⟨i.val, by omega⟩ = w.rdS ⟨i.val, by omega⟩) ∧
         (∀ i : Fin 8, v.rdS ⟨i.val + 8, by omega⟩ = 0)) ∧
       (∀ n : BitVec 18, 256 ≤ n.toNat → exec (.svc h n) s = .next (s.took w ⟨cILLEGAL, 0, 0, 0⟩)) ∧
       (∀ (c : Window) (r : List Window), s.me.pop.wins = c :: r → w.rpc.getLsbD 0 = true → (w.rpc - 1).toNat % 4 = 0 →
         (∀ q ∈ s.me.claims, q.wid ≠ w.wid) →
         ∃ (t : State) (v : Window), exec (.eret h) s = .next t ∧
           t = { s with cores := t.cores } ∧
           t.me = { s.me.pop with wins := v :: r, thr := w.pthr } ∧
           v = { c with s := v.s, pc := w.rpc - 1 } ∧
           (∀ i : Fin 8, v.rdS ⟨i.val, by omega⟩ = w.rdS ⟨i.val, by omega⟩ ∧
             v.rdS ⟨i.val + 8, by omega⟩ = c.rdS ⟨i.val + 8, by omega⟩)) ∧
       (w.rpc.getLsbD 0 = true → (∃ q ∈ s.me.claims, q.wid = w.wid) →
         ∃ d, exec (.eret h) s = .next (s.took w ⟨cCLAIM, 0, 0, d⟩)) ∧
       (w.rpc.getLsbD 0 = false → exec (.eret h) s = .next (s.took w ⟨cILLEGAL, 0, 0, 0⟩))) ∧
     (∀ n : Nat, s.top = some w → w.sys = true → w.park = some (.service n) →
       (n = 0 ∨ 3 ≤ n ∨ (w.rdS 1).toNat = 0 ∨ 16 ≤ (w.rdS 1).toNat ∨ (s.queue (w.rdS 1).toNat).ctx ≠ w.fr.ctx) →
       s.beforeIssue = none → s.frozen w.fr.ctx = false →
       coreStep s = .next (s.setTop { w.wrS 0 (if n = 0 then BitVec.ofNat 64 (s.flash.major % 2 ^ 32 * 2 ^ 32 + s.flash.minor % 2 ^ 32)
         else BitVec.allOnes 64) with park := some .serviceEnd })) ∧
     (s.top = some w → w.sys = true → w.park = some .serviceEnd → s.beforeIssue = none → s.frozen w.fr.ctx = false →
       coreStep s = exec (.eret ⟨false, 0, false, 0, false, false, false⟩) s)) ∧
  (∀ (s : State) (w : Window) (h : Hdr) (v : BitVec 18), Issues s w h true →
     (v.toNat < 32 → exec (.trap h v) s = .next (s.took w ⟨0x20 + v.toNat, 0, 0, v.toNat⟩)) ∧
     (32 ≤ v.toNat → exec (.trap h v) s = .next (s.took w ⟨cILLEGAL, 0, 0, 0⟩)) ∧
     (v.toNat < 2 ^ 17 → exec (.brk h v) s =
       .next (((s.begun w []).setTop { w.begun with park := some (.brk v.toNat) }).mailTo (dieOf s.cur)
         (.brk s.cur w.wid w.fr.ctx w.fr.tkt w.pc v.toNat))) ∧
     (2 ^ 17 ≤ v.toNat → exec (.brk h v) s = .next (s.took w ⟨cILLEGAL, 0, 0, 0⟩)))

/-- R248, R170: END, once no result of its frame is outstanding, no claim of its task is left and the ticket's journal
entries are acknowledged or refused, pops the windows of the task, down to its admission window, whose PTHR becomes THR,
and fills a spilled window that the pop exposes. A task of one window over another resident window leaves that window on
top. With entries under way END parks, and the drain's end then pops the task; with a claim left it takes CLAIM. No byte
of memory changes. -/
def Obligations.EndResults : Prop :=
  ∀ (s : State) (w : Window) (h : Hdr),
    (Issues s w h true →
      (s.me.taskClaim = none →
        (s.me.drained w.fr = true → ∃ t, exec (.endT h) s = .next t ∧ t.mem = s.mem ∧
          t.me = { s.me with wins := w.begun :: s.me.wins.tail }.popTask (s.me.depth + 1)) ∧
        (s.me.drained w.fr = false →
          exec (.endT h) s = .next ((s.begun w []).setTop { w.begun with park := some .endWait }))) ∧
      (∀ c, s.me.taskClaim = some c → ∃ d, exec (.endT h) s = .next (s.took w ⟨cCLAIM, 0, 0, d⟩))) ∧
    (s.top = some w → w.adm = true →
      (s.me.taskClaim = none ↔ ∀ q ∈ s.me.claims, q.wid ≠ w.wid) ∧
      ∀ (c : Window) (r : List Window), s.me.wins = w :: c :: r →
        { s.me with wins := w.begun :: s.me.wins.tail }.popTask (s.me.depth + 1) = { s.me with wins := c :: r, thr := w.pthr }) ∧
    (∀ c : Nat, s.topOf c = some w → w.park = some .endWait → (s.core c).drained w.fr = true →
      ∃ t, exec (.endDrainDone c) s = .next t ∧ t.mem = s.mem ∧ t.core c = (s.core c).popTask ((s.core c).depth + 1))

/-- R448, R450: a local fault in a frame of a ticket that is not a SYS ticket, in a context with a handler, pushes a fault
window. It saves the faulting instruction's PC in s9, DETAIL in s10, the ticket in s11, TIME in s12 and THR in PTHR, and
continues at the handler's entry; the faulting window, THR and all of memory are unchanged. -/
def Obligations.FaultEntry : Prop :=
  ∀ (s : State) (w : Window) (f : FaultInfo) (r : CtxRec), s.top = some w → w.fr.sys = false → w.svc = false →
    s.ctxRec w.fr.ctx = some r → r.vec.toNat % 2 = 1 →
    fitsResident 0 s.me.wins = true → spillTop s.me.spilled ≤ 0x10000 →
    ∃ (t : State) (v : Window), s.took w f = t ∧
      t = { s with cores := t.cores, nextId := s.nextId + 1 } ∧
      t.me = { s.me with wins := v :: w.begun :: s.me.wins.tail } ∧
      (∀ i : Fin 8, v.rdS ⟨i.val, by omega⟩ = w.rdS ⟨i.val + 8, by omega⟩) ∧
      v.rdS 8 = recordHead f w.fr.ctx s.dev s.cur false false ∧
      v.rdS 9 = w.pc ∧ v.rdS 10 = BitVec.ofNat 64 f.detail ∧ v.rdS 11 = w.fr.tkt ∧ v.rdS 12 = s.tick ∧
      v.rdS 13 = w.fr.serial.setWidth 64 ∧ v.rdS 14 = 0 ∧ v.rdS 15 = 0 ∧
      (∀ i : Fin 4, v.rdK ⟨i.val, by omega⟩ = w.rdK ⟨i.val + 4, by omega⟩ ∧ v.rdK ⟨i.val + 4, by omega⟩ = Key.zero) ∧
      v.p = 0 ∧ v.m = Vector.replicate 8 0 ∧ v.v = [] ∧
      v.drg = w.drg ∧ v.nxt = w.nxt ∧ v.byt = w.byt ∧ v.hnde = w.hnde ∧ v.flg = w.flg ∧
      v.pthr = s.me.thr ∧ v.rpc = w.pc + 12 ∧ v.callw = true ∧ v.fr = w.fr ∧
      v.pc.toNat = r.vec.toNat % 2 ^ 48 / 4 * 4

/-- R451, R456: a local fault in a SYS frame, or in a context without a handler, puts the context under the context-fatal
treatment with the fault's code: the context is dead with that code, no journal entry and no L1 line of it is left on any
core, and, where no core had spilled a window, no window of it stays. -/
def Obligations.FaultUnhandled : Prop :=
  ∀ (s : State) (w : Window) (f : FaultInfo) (r : CtxRec), s.top = some w →
    s.ctxRec w.fr.ctx = some r → (∀ c, r.st ≠ .dead c) →
    (w.fr.sys = true ∨ w.svc = true ∨ r.vec.toNat % 2 = 0) →
    ∃ r' : CtxRec, (s.took w f).ctxRec w.fr.ctx = some r' ∧ r'.st = .dead (BitVec.ofNat 8 f.code) ∧
      ∀ p ∈ (s.took w f).cores,
        (∀ e ∈ p.2.jrn, e.ctx ≠ w.fr.ctx) ∧ (∀ l ∈ p.2.l1, l.ctx ≠ w.fr.ctx) ∧
        ((∀ q ∈ s.cores, q.2.spilled = []) → s.me.spilled = [] → ∀ q ∈ p.2.wins, q.fr.ctx ≠ w.fr.ctx)

/-! ### System registers and memory words (R252 to R282) -/

/-- R252, R253, R216, R7, R18, R24: MFS of every assigned number completes. A register of fixed latency is read at issue:
its value is that of the core, the context on the core, the frame or the window, as R216's table says. TIME, SEQC and SEQM
become outstanding results of the frame instead. MTS writes DRG (8 bits), NXT, BYT and HNDE, clears bits of FLG and CFLG
by ones with nothing else of the module changed, and takes ILLEGAL for any other number. -/
def Obligations.SystemRegisters : Prop :=
  ∀ (s : State) (w : Window) (h : Hdr), Issues s w h false →
    (∀ d : SReg,
      let rd (n : BitVec 12) (v : W64) : Prop := exec (.mfs h d n) s = .next (s.wrote w d v 0)
      let late (n : BitVec 12) : Prop := ∃ (t : State) (p : Pend), exec (.mfs h d n) s = .next t ∧
        t.me = { (s.begun w [.s d]).me with
          wins := w.begun.advance :: s.me.wins.tail
          pend := (s.begun w [.s d]).me.pend ++ [p]
          stamp := s.me.stamp + 1 } ∧
        p.kind = .mfs n.toNat d ∧ p.wid = w.wid ∧ p.id = s.nextId ∧ p.fr = w.fr ∧ p.parts = [] ∧ t.mem = s.mem
      rd 0x00 (BitVec.ofNat 64 s.me.thr) ∧ rd 0x01 (BitVec.ofNat 64 w.fr.pri) ∧ rd 0x02 (w.fr.ctx.setWidth 64) ∧
      rd 0x03 w.fr.tkt ∧ rd 0x04 (w.fr.rank.setWidth 64) ∧ rd 0x05 (w.fr.fansz.setWidth 64) ∧
      rd 0x06 (BitVec.ofNat 64 (s.cur % 192)) ∧ rd 0x07 (BitVec.ofNat 64 (s.cur / 192)) ∧
      rd 0x08 (BitVec.ofNat 64 (s.dev % 2 ^ 11)) ∧ rd 0x09 (BitVec.ofNat 64 (2 ^ classOf s.cur)) ∧
      rd 0x10 w.drg ∧ rd 0x11 w.nxt ∧ rd 0x12 w.byt ∧ rd 0x13 w.hnde ∧ rd 0x14 (BitVec.ofNat 64 w.pthr) ∧
      rd 0x20 (w.flg.setWidth 64) ∧ rd 0x21 ((s.me.cx w.fr.ctx).cflg.setWidth 64) ∧
      (∀ i < 4, rd (BitVec.ofNat 12 (0x24 + i)) (vget 0 (s.me.cx w.fr.ctx).mxc i)) ∧
      late 0x30 ∧ late 0x31 ∧ late 0x32 ∧ rd 0x33 (s.me.jst w.fr) ∧
      rd 0x34 (BitVec.ofNat 64 (spillTop s.me.spilled + s.me.spilled.length * 2 ^ 17)) ∧
      (∀ i < 16,
        rd (BitVec.ofNat 12 (0x40 + i)) (BitVec.ofNat 64 ((s.me.slot i).cnt % 65536
          + (if (s.me.slot i).v then 1 else 0) * 2 ^ 16 + (s.me.slot i).ctx.toNat * 2 ^ 32)) ∧
        rd (BitVec.ofNat 12 (0x50 + i)) (s.me.ring i).rdc ∧ rd (BitVec.ofNat 12 (0x60 + i)) (s.me.ring i).rdp)) ∧
    (∀ b : SL,
      let v := w.sl b
      let put (n : BitVec 12) (w' : Window) : Prop := exec (.mts h n b) s = .next (s.put w [] w')
      put 0x10 { w.begun with drg := v &&& 0xFF } ∧ put 0x11 { w.begun with nxt := v } ∧
      put 0x12 { w.begun with byt := v } ∧ put 0x13 { w.begun with hnde := v } ∧
      put 0x20 { w.begun with flg := w.flg &&& ~~~(v.setWidth 7) } ∧
      (∃ t, exec (.mts h 0x21 b) s = .next t ∧ OwnFrame s t w w.begun.advance ∧
        (t.me.cx w.fr.ctx).cflg = (s.me.cx w.fr.ctx).cflg &&& ~~~(v.setWidth 7)) ∧
      ∀ n : BitVec 12, n ∉ [0x10, 0x11, 0x12, 0x13, 0x20, 0x21] →
        exec (.mts h n b) s = .next (s.took w ⟨cILLEGAL, 0, 0, 0⟩))

/-- R46, in its order, for an access of `n` bytes at offset `o` through a key of a region that exists; PRIV carries no
region and no offset (R446). -/
def Obligations.KeyChecks : Prop :=
  ∀ (k : Key) (need : Nat) (o : Int) (n acc : Nat) (sys : Bool),
    let f (code : Nat) : Except FaultInfo Unit := .error ⟨code, acc, k.region.toNat, (o % 2 ^ 64).toNat⟩
    let c := k.check need o n acc sys
    (k.tag = false → c = f cTAG) ∧
    (k.tag = true → k.sealed = true → c = f cPERM) ∧
    (k.tag = true → k.sealed = false →
      (3 < k.region.toNat → k.region ≠ 0xFE → k.region ≠ 0xFF → c = f cADDR) ∧
      (k.region = 0xFF → sys = false → c = .error ⟨cPRIV, acc, 0, 0⟩) ∧
      ((k.region.toNat ≤ 3 ∨ k.region = 0xFE ∨ (k.region = 0xFF ∧ sys = true)) →
        (k.perm &&& need ≠ need → c = f cPERM) ∧
        (k.perm &&& need = need →
          (k.bounds = none → c = f cBOUNDS) ∧
          (∀ b t, k.bounds = some (b, t) →
            (o < b ∨ (t : Int) < o + n → c = f cBOUNDS) ∧
            ((b : Int) ≤ o → o + n ≤ t → c = .ok ())))))

/-- R22, R23, R25, R257: the address of an access through DRG. The offset is base + B without loss; outside 64 bits it
takes ADDR, a reserved region takes ADDR, region 0xFF takes PRIV in a frame that is not SYS, and an access past 2^48 in
regions 0 to 3 takes ADDR (one that starts below 2^48 and ends above it by the model's choice, log 63); otherwise the
access goes to that region and offset, on this device unless region 0x01 has another owner. Through a key, the checks of
R46 come first, then the same limit of 2^48. R23, R257, R354, R355, R362: through DRG an object's address outside 64 bits
takes ADDR, an atomic's object in region 0xFF takes PRIV in a frame that is not SYS, any other region that the word does
not name takes ADDR, and one inside takes ALIGN where it is not aligned. -/
def Obligations.AddressRules : Prop :=
  (∀ (s : State) (w : Window) (r : SReg) (b : Int) (n need acc : Nat),
     let region : BitVec 8 := w.drg.setWidth 8
     let o : Int := (w.rdS r).toNat + b
     let f (code : Nat) : Except FaultInfo Acc := .error ⟨code, acc, region.toNat, (o % 2 ^ 64).toNat⟩
     let a := formAddr s w (.s r) b n need acc
     (o < 0 ∨ 2 ^ 64 ≤ o → a = f cADDR) ∧
     (0 ≤ o → o < 2 ^ 64 →
       (3 < region.toNat → region ≠ 0xFE → region ≠ 0xFF → a = f cADDR) ∧
       (region = 0xFF → w.sys = false → a = .error ⟨cPRIV, acc, 0, 0⟩) ∧
       (region.toNat ≤ 3 →
         (2 ^ 48 < o + n → a = f cADDR) ∧
         (o + n ≤ 2 ^ 48 → a = .ok ⟨region, o.toNat, n, if region = 1 then s.ownerOf w.fr.ctx o.toNat none else s.dev,
           false, none⟩)) ∧
       (region = 0xFF → w.sys = true → a = .ok ⟨region, o.toNat, n, s.dev, false, none⟩)) ∧
     (∀ q : KReg,
       let k := w.rdK q
       let ok : Int := k.off + b
       let x := formAddr s w (.k q) b n need acc
       (∀ e, k.check need ok n acc w.sys = .error e → x = .error e) ∧
       (k.check need ok n acc w.sys = .ok () → s.reachable (accDev s w.fr.ctx k.region (ok % 2 ^ 64).toNat (some k.peer)) = true →
         k.region.toNat ≤ 3 →
         (2 ^ 48 < (ok % 2 ^ 64).toNat + n → x = .error ⟨cADDR, acc, k.region.toNat, (ok % 2 ^ 64).toNat⟩) ∧
         ((ok % 2 ^ 64).toNat + n ≤ 2 ^ 48 → x = .ok ⟨k.region, (ok % 2 ^ 64).toNat, n,
           accDev s w.fr.ctx k.region (ok % 2 ^ 64).toNat (some k.peer), true, some k.peer⟩)))) ∧
  (∀ (s : State) (w : Window) (r : SReg) (b : Int) (n need acc al : Nat) (regs : List Nat),
     let region : BitVec 8 := w.drg.setWidth 8
     let o : Int := (w.rdS r).toNat + b
     let f (code : Nat) : Except FaultInfo Acc := .error ⟨code, acc, region.toNat, (o % 2 ^ 64).toNat⟩
     let a := objAddr s w (.s r) b n need acc al regs
     let priv : Prop := need = pATOM ∧ region = 0xFF ∧ w.sys = false
     (o < 0 ∨ 2 ^ 64 ≤ o → a = f cADDR) ∧
     (0 ≤ o → o < 2 ^ 64 → priv → a = .error ⟨cPRIV, acc, 0, 0⟩) ∧
     (0 ≤ o → o < 2 ^ 64 → ¬priv → region.toNat ∉ regs → a = f cADDR) ∧
     (region.toNat ∈ regs → region.toNat ≤ 3 → 0 ≤ o → o < 2 ^ 64 →
       (2 ^ 48 < o + n → a = f cADDR) ∧
       (o + n ≤ 2 ^ 48 →
         (o.toNat % al ≠ 0 → a = f cALIGN) ∧
         (o.toNat % al = 0 →
           a = .ok ⟨region, o.toNat, n, if region = 1 then s.ownerOf w.fr.ctx o.toNat none else s.dev,
             false, none⟩))))

/-- R208, R257, R259, R260, R263, R265, R272, R280: a load whose address passes its checks becomes outstanding and the
frame goes on: LD, LDC, LDK and LDAQ when no earlier acquire holds the frame's accesses back, LDSC when every earlier
access of the ticket is also done. LDAQ, LDSC and LDK need an aligned address. PREF completes whatever its address is. -/
def Obligations.LoadResults : Prop :=
  ∀ (s : State) (w : Window) (h : Hdr), Issues s w h false → s.me.held w.fr = false →
    (∀ (o : LdA) (a : Acc), formAddr s w o.a (w.siInt o.b) (Ty.bytes o.ty) pREAD 1 = .ok a →
      let kind (k : PendKind) : Prop := k = .load o.ty o.uns o.d
      (∃ t, exec (.ld h o) s = .next t ∧ Fetching s t w a kind) ∧
      (∃ t, exec (.ldc h o) s = .next t ∧ Fetching s t w a kind) ∧
      (a.off % Ty.bytes o.ty = 0 →
        (∀ sc, ∃ t, exec (.ldaq h sc o) s = .next t ∧ Fetching s t w a kind) ∧
        (a.region ≠ 3 → (a.region = 1 ∨ a.dev = s.dev) → s.me.scReady w.fr = true →
          ∃ t, exec (.ldsc h o) s = .next t ∧ Fetching s t w a kind)) ∧
      (a.off % Ty.bytes o.ty ≠ 0 →
        (∀ sc, exec (.ldaq h sc o) s = .next (s.took w ⟨cALIGN, 1, a.region.toNat, a.off⟩)) ∧
        exec (.ldsc h o) s = .next (s.took w ⟨cALIGN, 1, a.region.toNat, a.off⟩))) ∧
    (∀ (d : KReg) (x : SK) (b : SI) (a : Acc), formAddr s w x (w.siInt b) 16 pREAD 1 = .ok a →
      (a.off % 16 = 0 → ∃ t, exec (.ldk h d x b) s = .next t ∧ Fetching s t w a fun k => k = .key d) ∧
      (a.off % 16 ≠ 0 → exec (.ldk h d x b) s = .next (s.took w ⟨cALIGN, 1, a.region.toNat, a.off⟩))) ∧
    (∀ (l2 : Bool) (x : SK) (b : SI), ∃ t, exec (.pref h l2 x b) s = .next t ∧
      t.me.wins = w.begun.advance :: s.me.wins.tail ∧ t.mem = s.mem)

/-- R208, R211, R269 to R271: an AMO or CAS whose address passes its checks and is aligned, outside region 0xFE, with no
range slot at its limit, becomes outstanding with the operands it read; an SC form also needs every earlier access of the
ticket done, and one to region 0xFF that releases the ticket's earlier accesses settled. In region 0xFF the old value is
taken and the new one written as the word issues (the model's choice, log 15). -/
def Obligations.AtomicResults : Prop :=
  ∀ (s : State) (w : Window) (h : Hdr) (sc : Scope) (ord : Order) (ty : Ty) (d : SReg) (x : SK) (b : SI) (a : Acc),
    Issues s w h false → s.me.held w.fr = false →
    formAddr s w x (w.siInt b) (Ty.bytes ty) pATOM 3 = .ok a → a.off % Ty.bytes ty = 0 → a.region ≠ 0xFE →
    (∀ i : Nat, i < 16 → (s.me.slot i).cnt < 65535) →
    (ord = .sc → a.region ≠ 3 ∧ (a.region = 1 ∨ a.dev = s.dev) ∧ s.me.scReady w.fr = true) →
    (a.region = 0xFF → (Order.rel ord && Scope.wide sc) = true → s.me.settled w.fr s.me.stamp = true) →
    let old := leNat (s.sysBytes a.off a.n)
    let put (t : State) (v : Nat) : Prop := t.sysMem = hostMask s.sysMem a.off ((natBytes (Ty.bytes ty) v).map some)
    (∀ opc, ∃ t, exec (.amo h sc ord ty opc d x b) s = .next t ∧
      Fetching s t w a (fun k => k = .amo opc ty d (w.rdS d)) ∧
      (a.region ≠ 0xFF → t.sysMem = s.sysMem) ∧ (a.region = 0xFF → put t (amoNew opc ty old (w.rdS d).toNat).1)) ∧
    (∃ t, exec (.cas h sc ord ty d x b) s = .next t ∧
      Fetching s t w a (fun k => k = .cas ty d (w.rdS d) (w.rdS (d + 1))) ∧
      (a.region ≠ 0xFF → t.sysMem = s.sysMem) ∧
      (a.region = 0xFF → if old = (w.rdS d).toNat % 2 ^ ty.width then put t ((w.rdS (d + 1)).toNat % 2 ^ ty.width)
        else t.sysMem = s.sysMem))

/-- R103, R107, R261, R264, R265, R272: a store whose address passes its checks, outside the core's own buffers and region
0xFF, enters the journal when two entries are free and no range slot is at its limit: every byte of its data operand
stands, at its place of the block, in an entry of the ticket, and no byte of memory changes. STRL at scope ISSUE or wider,
and STSC, to the core's own buffers wait at the buffer port instead (R103), STRL with the ticket's open entries closed. A
store to region 0xFF puts its bytes there (the model's choice, log 15), one of STRL at scope ISSUE or wider once the
ticket's earlier accesses are settled. STRL and STSC take ALIGN at an address that is not aligned, as STK does. -/
def Obligations.StoreResults : Prop :=
  ∀ (s : State) (w : Window) (h : Hdr), Issues s w h false → s.me.held w.fr = false →
    let quiet (t : State) : Prop := t.me.wins = w.begun.advance :: s.me.wins.tail ∧ t.mem = s.mem ∧
      t.me.bufW = s.me.bufW ∧ t.me.bufA = s.me.bufA ∧ t.me.bufS = s.me.bufS
    let stored (i : Instr) (a : Acc) (bs : List Byte) : Prop :=
      (∀ i : Nat, i < 16 → (s.me.slot i).cnt < 65534) → 2 ≤ s.me.freeIdx.length → (s.me.jrn.map JEntry.idx).Nodup →
      ∃ t, exec i s = .next t ∧ quiet t ∧
        ∀ i, (hi : i < bs.length) → ∃ e ∈ t.me.jrn, e.ofTicket w.fr = true ∧ e.region = a.region ∧
          e.blk = (a.off + i) / 64 ∧ e.byte ((a.off + i) % 64) = some bs[i]
    let waits (i : Instr) (a : Acc) (bs : List Byte) (rel sc : Bool) : Prop :=
      ∃ t, exec i s = .next t ∧ quiet t ∧ (rel = true → ∀ e ∈ t.me.jrn, e.ofTicket w.fr = true → e.st ≠ .opened) ∧
        ∃ p ∈ t.me.pend, p.id = s.nextId ∧ p.kind = .ownStore (bs.map some) ∧ p.rel = rel ∧ p.sc = sc ∧ p.fr = w.fr ∧
          p.parts.map (fun q => (q.off, q.n, q.st)) = [(a.off, a.n, .queued)]
    let system (i : Instr) (a : Acc) (bs : List Byte) : Prop :=
      ∃ t, exec i s = .next t ∧ quiet t ∧ t.sysMem = hostMask s.sysMem a.off (bs.map some)
    (∀ (o : StA) (a : Acc), formAddr s w o.a (w.siInt o.b) (Ty.bytes o.ty) pWRITE 2 = .ok a →
      let bs := natBytes (Ty.bytes o.ty) (w.si o.d).toNat
      let place (i : Instr) : Prop :=
        (a.region = 0xFF → system i a bs) ∧ (a.region ≠ 0xFF → a.own s = false → stored i a bs)
      place (.st h o) ∧
      (a.off % Ty.bytes o.ty = 0 →
        (∀ sc, ((a.region = 0xFF → Scope.wide sc = true → s.me.settled w.fr s.me.stamp = true) → place (.strl h sc o)) ∧ (a.own s = true → sc ≠ .task → waits (.strl h sc o) a bs true false)) ∧
        (a.region ≠ 3 → (a.region = 1 ∨ a.dev = s.dev) → s.me.scReady w.fr = true →
          place (.stsc h o) ∧ (a.own s = true → waits (.stsc h o) a bs false true))) ∧
      (a.off % Ty.bytes o.ty ≠ 0 →
        (∀ sc, exec (.strl h sc o) s = .next (s.took w ⟨cALIGN, 2, a.region.toNat, a.off⟩)) ∧
        exec (.stsc h o) s = .next (s.took w ⟨cALIGN, 2, a.region.toNat, a.off⟩))) ∧
    (∀ (d : KReg) (x : SK) (b : SI) (a : Acc), formAddr s w x (w.siInt b) 16 pWRITE 2 = .ok a →
      let bs := natBytes 16 (w.rdK d).bits.toNat
      (a.off % 16 = 0 → (a.region = 0xFF → system (.stk h d x b) a bs) ∧
        (a.region ≠ 0xFF → a.own s = false → stored (.stk h d x b) a bs)) ∧
      (a.off % 16 ≠ 0 → exec (.stk h d x b) s = .next (s.took w ⟨cALIGN, 2, a.region.toNat, a.off⟩)))

/-- R256, R261, R262, R265, R44: LDB and STB move the operand's bytes between a register and the core's own buffer,
little-endian, extended by the type. A store changes exactly the bytes from its place on, in that buffer alone; ST, STRL
at scope TASK and STK to the core's own window do the same. In an S buffer the tags of the units a store touches are
cleared, and STK leaves its key's tag on its unit. -/
def Obligations.BufferResults : Prop :=
  ∀ (s : State) (w : Window) (h : Hdr), Issues s w h false → s.me.held w.fr = false →
    let wrote (t : State) (buf o : Nat) (bs : List Byte) (key : Bool) : Prop :=
      t = { s with cores := t.cores } ∧ t.me.wins = w.begun.advance :: s.me.wins.tail ∧
      (∀ c, c ≠ s.cur → t.core c = s.core c) ∧
      (∀ q ∈ [0, 1, 3], q ≠ buf → t.me.buf q = s.me.buf q) ∧
      (buf = 3 → ∀ i < bs.length, (o + i) / 16 ∈ t.me.stags ↔ key = true) ∧
      (∀ x, x < o ∨ o + bs.length ≤ x → memGet (t.me.buf buf) x = memGet (s.me.buf buf) x) ∧
      (∀ i, (hi : i < bs.length) → memGet (t.me.buf buf) (o + i) = bs[i])
    (∀ (ty : Ty) (uns : Bool) (d : SReg) (x : BuS) (b : SI) (buf o : Nat),
      formBuf s w x (w.siInt b) (Ty.bytes ty) 1 = .ok (buf, o) →
      let n := memNat (s.me.buf buf) o (Ty.bytes ty)
      exec (.ldb h ty uns d x b) s = .next (s.wrote w d
        (if Ty.isInt ty && !uns then BitVec.ofInt 64 (sextInt ty.width (n % 2 ^ ty.width))
          else BitVec.ofNat 64 (n % 2 ^ ty.width)) 0)) ∧
    (∀ (ty : Ty) (d : SI) (x : BuS) (b : SI) (buf o : Nat), buf ≠ 2 →
      formBuf s w x (w.siInt b) (Ty.bytes ty) 2 = .ok (buf, o) →
      ∃ t, exec (.stb h ty d x b) s = .next t ∧ wrote t buf o (natBytes (Ty.bytes ty) (w.si d).toNat) false) ∧
    (∀ (o : StA) (a : Acc), formAddr s w o.a (w.siInt o.b) (Ty.bytes o.ty) pWRITE 2 = .ok a → a.own s = true →
      winBuf a.off ≠ 2 →
      let to' (i : Instr) : Prop := ∃ t, exec i s = .next t ∧
        t.me.jrn.map (fun e => { e with st := .closed }) = s.me.jrn.map (fun e => { e with st := .closed }) ∧
        wrote t (winBuf a.off) (winOff a.off) (natBytes (Ty.bytes o.ty) (w.si o.d).toNat) false
      to' (.st h o) ∧ (a.off % Ty.bytes o.ty = 0 → to' (.strl h .task o))) ∧
    (∀ (d : KReg) (x : SK) (b : SI) (a : Acc), formAddr s w x (w.siInt b) 16 pWRITE 2 = .ok a → a.own s = true →
      winBuf a.off ≠ 2 → a.off % 16 = 0 →
      ∃ t, exec (.stk h d x b) s = .next t ∧
        wrote t (winBuf a.off) (winOff a.off) (natBytes 16 (w.rdK d).bits.toNat) ((w.rdK d).tag && decide (winBuf a.off = 3)))

/-- R266 to R268: the key words. An untagged A takes TAG and a sealed one PERM, except that KSEAL copies it. KPRM masks
the permissions, KSEAL seals, KADR moves the offset and keeps the tag only where it stays representable, and KDER derives
the smallest representable bounds around [offset, offset + B), which lie inside A's or the word takes BOUNDS. KGET and
KTST read any key. -/
def Obligations.KeyResults : Prop :=
  ∀ (s : State) (w : Window) (h : Hdr) (pm : BitVec 6) (set : Bool) (d a : KReg) (b : SI), Issues s w h false →
    let k := w.rdK a
    let put (i : Instr) (p : Key → Prop) : Prop := ∃ q : Key, exec i s = .next (s.put w [.k d] (w.begun.wrK d q)) ∧ p q
    let stop (i : Instr) (f : FaultInfo) : Prop := exec i s = .next (s.took w f)
    let same (q : Key) : Prop := q.peer = k.peer ∧ q.region = k.region ∧ q.e = k.e ∧ q.b = k.b ∧ q.t = k.t
    (k.tag = false →
      stop (.kder h pm d a b) ⟨cTAG, 0, 0, 0⟩ ∧ stop (.kprm h pm d a) ⟨cTAG, 0, 0, 0⟩ ∧
      stop (.kadr h set d a b) ⟨cTAG, 0, 0, 0⟩ ∧ stop (.kseal h d a) ⟨cTAG, 0, 0, 0⟩) ∧
    (k.tag = true → k.sealed = true →
      stop (.kder h pm d a b) ⟨cPERM, 0, 0, 0⟩ ∧ stop (.kprm h pm d a) ⟨cPERM, 0, 0, 0⟩ ∧
      stop (.kadr h set d a b) ⟨cPERM, 0, 0, 0⟩) ∧
    (k.tag = true →
      put (.kseal h d a) fun q => same q ∧ q.off = k.off ∧ q.perm = k.perm ∧ q.sealed = true ∧ q.tag = true) ∧
    (k.tag = true → k.sealed = false →
      (put (.kprm h pm d a) fun q =>
        same q ∧ q.off = k.off ∧ q.perm = k.perm &&& pm.toNat ∧ q.sealed = false ∧ q.tag = true) ∧
      (put (.kadr h set d a b) fun q =>
        let o : Int := if set then (w.si b).toInt else k.off + (w.si b).toInt
        same q ∧ q.off = (o % 2 ^ 64).toNat ∧ q.perm = k.perm ∧ q.sealed = false ∧
        (q.tag = true ↔ 0 ≤ o ∧ o < 2 ^ 64 ∧ boundsAt k.e k.b k.t q.off = k.bounds)) ∧
      (k.perm &&& pDERIVE = 0 → stop (.kder h pm d a b) ⟨cPERM, 0, 0, 0⟩) ∧
      (k.perm &&& pDERIVE ≠ 0 →
        let n := (w.si b).toNat
        let fits (e : Nat) : Prop := (k.off + n + 2 ^ e - 1) / 2 ^ e - k.off / 2 ^ e ≤ 2 ^ 15
        (k.bounds = none → stop (.kder h pm d a b) ⟨cBOUNDS, 0, k.region.toNat, k.off⟩) ∧
        (∀ kb kt e, k.bounds = some (kb, kt) → fits e → (∀ e' < e, ¬fits e') → e ≤ 48 →
          let base := k.off / 2 ^ e * 2 ^ e
          let top := (k.off + n + 2 ^ e - 1) / 2 ^ e * 2 ^ e
          (base < kb ∨ kt < top → stop (.kder h pm d a b) ⟨cBOUNDS, 0, k.region.toNat, k.off⟩) ∧
          (kb ≤ base → top ≤ kt → put (.kder h pm d a b) fun q =>
            q.peer = k.peer ∧ q.region = k.region ∧ q.off = k.off ∧ q.e = e ∧ q.b = base / 2 ^ e % 2 ^ 16 ∧
            q.t = top / 2 ^ e % 2 ^ 16 ∧ q.perm = k.perm &&& pm.toNat ∧ q.sealed = false ∧ q.tag = true)))) ∧
    (∀ d' : SReg,
      exec (.kget h .off d' a) s = .next (s.wrote w d' (k.bits.setWidth 64) 0) ∧
      exec (.kget h .hi d' a) s = .next (s.wrote w d' ((k.bits >>> 64).setWidth 64) 0) ∧
      (k.bounds = none →
        exec (.kget h .base d' a) s = .next (s.wrote w d' 0 0) ∧ exec (.kget h .len d' a) s = .next (s.wrote w d' 0 0)) ∧
      (∀ kb kt, k.bounds = some (kb, kt) →
        exec (.kget h .base d' a) s = .next (s.wrote w d' (BitVec.ofNat 64 kb) 0) ∧
        exec (.kget h .len d' a) s = .next (s.wrote w d' (BitVec.ofNat 64 (min (kt - kb) (2 ^ 64 - 1))) 0)) ∧
      exec (.kget h .attr d' a) s = .next (s.wrote w d' (BitVec.ofNat 64 (k.perm + (if k.sealed then 2 ^ 6 else 0)
        + (if k.tag then 2 ^ 7 else 0) + k.region.toNat * 2 ^ 8 + k.peer * 2 ^ 16)) 0)) ∧
    (∀ p : PReg,
      let pass := (k.check pm.toNat k.off (w.si b).toNat 7 w.sys).toBool
        && s.reachable (accDev s w.fr.ctx k.region k.off (some k.peer))
      exec (.ktst h pm p a b) s = .next (s.put w [] (w.begun.wrP p pass)))

/-- R43, R45, R266, R267: no key word widens. Each of KDER, KPRM, KADR and KSEAL takes a local fault, or writes a key
that, if it is tagged, comes from a tagged key of the same region and peer, has no permission that key lacks, stays sealed
if that key was, and has bounds within that key's. -/
def Obligations.KeysNeverWiden : Prop :=
  ∀ (s : State) (w : Window) (h : Hdr) (pm : BitVec 6) (set : Bool) (d a : KReg) (b : SI) (i : Instr),
    Issues s w h false → i ∈ [Instr.kder h pm d a b, .kprm h pm d a, .kadr h set d a b, .kseal h d a] →
    let k := w.rdK a
    (∃ f, exec i s = .next (s.took w f)) ∨
    ∃ q : Key, exec i s = .next (s.put w [.k d] (w.begun.wrK d q)) ∧
      (q.tag = true →
        k.tag = true ∧ q.region = k.region ∧ q.peer = k.peer ∧ q.perm &&& k.perm = q.perm ∧
        (k.sealed = true → q.sealed = true) ∧
        ∀ b t, q.bounds = some (b, t) → ∃ kb kt, k.bounds = some (kb, kt) ∧ kb ≤ b ∧ t ≤ kt)

/-- R273 to R275: FENCE, PHASE and FENR complete at once when nothing they wait for is under way, and park their frame
otherwise; the step that ends such a wait takes effect when the wait is over, and the frame goes on after the word. -/
def Obligations.FenceResults : Prop :=
  ∀ (s : State) (w : Window) (h : Hdr),
    (Issues s w h false →
      (∀ bw ba bs : Bool,
        let busy := ∃ t ∈ s.me.trestle, t.fr.same w.fr = true ∧ ∃ g ∈ t.reads ++ t.writes,
          (bw = true ∧ g.buf = 0) ∨ (ba = true ∧ g.buf = 1) ∨ (bs = true ∧ g.buf = 3)
        (¬busy → exec (.fence h bw ba bs) s = .next (s.put w [] w.begun)) ∧
        (busy → exec (.fence h bw ba bs) s = .next (s.setTop { w with park := some (.fence bw ba bs) }))) ∧
      (∀ sc : Scope, s.me.outstanding w.fr = false → s.me.phaseReady w.fr = true →
        ∃ t, exec (.phase h sc) s = .next t ∧ t = { s with cores := t.cores } ∧
          t.me.wins = w.begun.advance :: s.me.wins.tail ∧
          (sc ≠ .task → ∀ l ∈ t.me.l1, l.ctx ≠ w.fr.ctx) ∧ (sc = .task → t.me.l1 = s.me.l1)) ∧
      (∀ sc : Scope, s.me.outstanding w.fr = false → s.me.phaseReady w.fr = false →
        ∃ t, exec (.phase h sc) s = .next t ∧ t.top = some { w with park := some (.phase sc) } ∧
          ∀ e ∈ t.me.jrn, e.ofTicket w.fr = true → e.st ≠ .opened) ∧
      (∀ (sc : Scope) (ord : Order) (b : SI),
        let m : BitVec 16 := (w.si b).setWidth 16
        ((∃ i < 16, m.getLsbD i = true ∧ (s.me.slot i).v = true ∧ (s.me.slot i).ctx ≠ w.fr.ctx) →
          exec (.fenr h sc ord b) s = .next (s.took w ⟨cPERM, 0, 0, 0⟩)) ∧
        ((∀ i < 16, m.getLsbD i = true → (s.me.slot i).v = true → (s.me.slot i).ctx = w.fr.ctx) →
          ((ord = .rlx ∨ ord = .acq ∨ ∀ i < 16, m.getLsbD i = true → (s.me.slot i).cnt = 0) →
            ∃ t, exec (.fenr h sc ord b) s = .next t ∧ t.top = some w.begun.advance ∧ t.mem = s.mem) ∧
          ((ord = .rel ∨ ord = .ar) → (∃ i < 16, m.getLsbD i = true ∧ (s.me.slot i).cnt ≠ 0) →
            ∃ t, exec (.fenr h sc ord b) s = .next t ∧ t.top = some { w.begun with park := some (.fenr m sc ord) } ∧
              ∀ e ∈ t.me.jrn, e.ctx = w.fr.ctx → e.slots &&& m ≠ 0 → e.st ≠ .opened)))) ∧
    (∀ c : Nat, s.topOf c = some w →
      let on (o : Host.Outcome State Fault Refusal) : Prop :=
        ∃ t, o = .next t ∧ t.topOf c = some { w with park := none, fresh := false, pc := w.pc + 12 } ∧ t.mem = s.mem
      (∀ bw ba bs, w.park = some (.fence bw ba bs) → (s.core c).fenceReady w.fr bw ba bs = true →
        on (exec (.fenceDone c) s)) ∧
      (∀ sc, w.park = some (.phase sc) → (s.core c).phaseReady w.fr = true → on (exec (.phaseDone c) s)) ∧
      (∀ m sc ord, w.park = some (.fenr m sc ord) → (∀ i < 16, m.getLsbD i = true → ((s.core c).slot i).cnt = 0) →
        on (exec (.fenrDone c) s)) ∧
      (w.park = some .marker → (s.core c).outstanding w.fr = false →
        ∃ t, exec (.swMarkerResume c) s = .next t ∧ t.topOf c = some { w with park := none } ∧ t.mem = s.mem) ∧
      (w.park = some .stall ∨ w.park = some .acquire →
        ∃ t, exec (.issueStallRelease c) s = .next t ∧ t.topOf c = some { w with park := none } ∧ t.mem = s.mem))

/-- R278, R279, R281, R282, R171: RGSET makes a slot valid for the frame's context with the range its operands name, in
the scalar form with a register or an immediate length and in the key form, and tags the journal entries under way in that
range; it completes whenever the slot's count and what is under way together stay within 65,535. RGCLR clears V of the
named slots and RGRD reads a field. JRD reads each field of a refused entry of the context, 0 of any other, and JACK
dismisses it and does nothing to any other. A slot that is valid for another context takes PERM; an untagged key TAG, a
sealed one PERM, a negative length ILLEGAL and a range past 2^64 ADDR. -/
def Obligations.RangeSlotResults : Prop :=
  ∀ (s : State) (w : Window) (h : Hdr), Issues s w h false →
    (∀ (i : Fin 16),
      let own := (s.me.slot i.val).v = true → (s.me.slot i.val).ctx = w.fr.ctx
      let room := (s.me.slot i.val).cnt + s.me.jrn.length + s.me.pend.length
        + (s.me.copies.map fun j => ceilDiv j.len 256).foldr (· + ·) 0 ≤ 65535
      let sets (x : RgArg) (region : BitVec 8) (dev base len : Nat) : Prop :=
        ∃ t, exec (.rgset h i x) s = .next t ∧ GoesOn s t w.begun.advance ∧ t.me.bufS = s.me.bufS ∧
          (let r := t.me.slot i.val
           r.v = true ∧ r.ctx = w.fr.ctx ∧ r.region = region ∧ r.dev = dev ∧ r.base = base ∧ r.len = len ∧
           (s.me.slot i.val).cnt ≤ r.cnt) ∧
          (∀ j < 16, j ≠ i.val → t.me.slot j = s.me.slot j) ∧
          ∀ e ∈ s.me.jrn, e.live = true → e.ctx = w.fr.ctx → e.region = region → (region = 1 ∨ e.dev = dev) →
            (∃ b < 64, e.mask.getLsbD b = true ∧ base ≤ e.blk * 64 + b ∧ e.blk * 64 + b < base + len) →
            ∃ e' ∈ t.me.jrn, e'.idx = e.idx ∧ e'.slots.getLsbD i.val = true
      let stop (x : RgArg) (f : FaultInfo) : Prop := exec (.rgset h i x) s = .next (s.took w f)
      (∀ (a : SReg) (b : SI), (∀ v, b = .imm v → v.msb = false) →
        ((w.rdS a).toNat + (w.si b).toNat ≤ 2 ^ 64 →
          (own → room → sets (.range a b) (w.drg.setWidth 8) s.dev (w.rdS a).toNat (w.si b).toNat) ∧
          (¬own → stop (.range a b) ⟨cPERM, 0, 0, 0⟩)) ∧
        (2 ^ 64 < (w.rdS a).toNat + (w.si b).toNat →
          stop (.range a b) ⟨cADDR, 0, (w.drg.setWidth 8 : BitVec 8).toNat, (w.rdS a).toNat⟩)) ∧
      (∀ (a : SReg) (v : BitVec 18), v.msb = true → stop (.range a (.imm v)) ⟨cILLEGAL, 0, 0, 0⟩) ∧
      (∀ (q : KReg),
        let k := w.rdK q
        let bt := k.bounds.getD (0, 0)
        (k.tag = true → k.sealed = false →
          (own → room → sets (.key q) k.region (if k.region = 0xFE then winDev k.off else k.peer) bt.1 (bt.2 - bt.1)) ∧
          (¬own → stop (.key q) ⟨cPERM, 0, 0, 0⟩)) ∧
        (k.tag = false → stop (.key q) ⟨cTAG, 0, 0, 0⟩) ∧
        (k.tag = true → k.sealed = true → stop (.key q) ⟨cPERM, 0, 0, 0⟩)) ∧
      (∀ (f : RField) (d : SReg),
        (own → exec (.rgrd h i f d) s = .next (s.wrote w d (if (s.me.slot i.val).v then
            match f with
            | .base => BitVec.ofNat 64 (s.me.slot i.val).base
            | .len => BitVec.ofNat 64 (min (s.me.slot i.val).len (2 ^ 64 - 1))
            | .attr => BitVec.ofNat 64 ((s.me.slot i.val).region.toNat + (s.me.slot i.val).dev % 2 ^ 11 * 2 ^ 8 + 2 ^ 19)
          else 0) 0)) ∧
        (¬own → exec (.rgrd h i f d) s = .next (s.took w ⟨cPERM, 0, 0, 0⟩)))) ∧
    (∀ b : SI,
      let m : BitVec 16 := (w.si b).setWidth 16
      let idx := (w.si b).toNat % 128
      ((∀ i < 16, m.getLsbD i = true → (s.me.slot i).v = true → (s.me.slot i).ctx = w.fr.ctx) →
        ∃ t, exec (.rgclr h b) s = .next t ∧ t = { s with cores := t.cores } ∧ GoesOn s t w.begun.advance ∧
          t.me = { s.me with wins := t.me.wins, slots := t.me.slots } ∧
          ∀ i < 16, t.me.slot i = if m.getLsbD i then { s.me.slot i with v := false } else s.me.slot i) ∧
      ((∃ i < 16, m.getLsbD i = true ∧ (s.me.slot i).v = true ∧ (s.me.slot i).ctx ≠ w.fr.ctx) →
        exec (.rgclr h b) s = .next (s.took w ⟨cPERM, 0, 0, 0⟩)) ∧
      (s.me.refused w.fr.ctx idx = none →
        (∀ (f : JField) (d : SReg), exec (.jrd h f d b) s = .next (s.wrote w d 0 0)) ∧
        exec (.jack h b) s = .next (s.put w [] w.begun)) ∧
      (∀ e : JEntry, s.me.refused w.fr.ctx idx = some e →
        (e ∈ s.me.jrn ∧ e.idx = idx ∧ e.st = .refused ∧ e.ctx = w.fr.ctx) ∧
        (∀ d : SReg,
          exec (.jrd h .off d b) s = .next (s.wrote w d (BitVec.ofNat 64 (e.blk * 64)) 0) ∧
          exec (.jrd h .mask d b) s = .next (s.wrote w d e.mask 0) ∧
          exec (.jrd h .attr d b) s = .next (s.wrote w d
            (BitVec.ofNat 64 (e.region.toNat + e.dev % 2 ^ 11 * 2 ^ 8 + 2 ^ 19)) 0) ∧
          ∀ i : Fin 8, ∃ v : W64, exec (.jrd h (.d i) d b) s = .next (s.wrote w d v 0) ∧
            ∀ j < 8, v.extractLsb' (8 * j) 8 = (e.byte (8 * i.val + j)).getD 0) ∧
        ∃ t, exec (.jack h b) s = .next t ∧ t = { s with cores := t.cores } ∧ GoesOn s t w.begun.advance ∧
          t.me = { s.me with wins := t.me.wins, jrn := t.me.jrn, traps := t.me.traps, waiting := t.me.waiting } ∧
          (∀ x, x ∈ t.me.jrn ↔ x ∈ s.me.jrn ∧ x.idx ≠ idx) ∧ (∀ x, x ∈ t.me.traps ↔ x ∈ s.me.traps ∧ x.idx ≠ idx)))

/-! ### Vector words (R283 to R312) -/

/-- R285, R290, R292, R295, R301: the integer lane words, on a core whose vector unit holds its reservation. An active
lane of D takes the lane's result modulo its width, an inactive lane stays or, with ZR, becomes zero; D's other bits do
not exist. The modular words raise no flag. -/
def Obligations.VectorIntegerLanes : Prop :=
  ∀ (s : State) (w : Window) (h : Hdr) (o : V3), Issues s w h false → s.vecHeld s.cur = true → o.ty.isVInt = true →
    let e := o.ty.width
    let on (j : Nat) : Bool := (w.rdM o.msk).getLsbD (j * e / 32)
    let a (j : Nat) : Nat := laneOf (w.rdV o.a).toNat e j
    let d (j : Nat) : Nat := laneOf (w.rdV o.d).toNat e j
    let x (j : Nat) : Nat := w.bc o.b e j
    let sx (v : Nat) : Int := sextInt e v
    let lanes (i : Instr) (f : Nat → Int) (flags : Flags → Prop) : Prop :=
      ∃ (dst : List Dst) (v : VReg) (fl : Flags), exec i s = .next (s.vafter w dst (w.begun.wrV o.d v) fl) ∧ flags fl ∧
        ∀ j < 2048 / e, laneOf v.toNat e j = if on j then (f j % 2 ^ e).toNat else if o.zr then 0 else d j
    let none' (fl : Flags) : Prop := fl = 0
    let sat (f : Nat → Int) (lo hi : Int) (fl : Flags) : Prop :=
      fl = if ∃ j < 2048 / e, on j = true ∧ (f j < lo ∨ hi < f j) then fSAT else 0
    let clamp (f : Nat → Int) (lo hi : Int) (j : Nat) : Int := max lo (min hi (f j))
    let lo : Int := -2 ^ (e - 1)
    let hi : Int := 2 ^ (e - 1) - 1
    let top : Int := 2 ^ e - 1
    lanes (.vadd h .wrap o) (fun j => a j + x j) none' ∧
    lanes (.vsub h .wrap o) (fun j => a j - x j) none' ∧
    (let f := fun j => sx (a j) + sx (x j); lanes (.vadd h .ss o) (clamp f lo hi) (sat f lo hi)) ∧
    (let f := fun j => sx (a j) - sx (x j); lanes (.vsub h .ss o) (clamp f lo hi) (sat f lo hi)) ∧
    (let f := fun j => (a j : Int) + x j; lanes (.vadd h .us o) (clamp f 0 top) (sat f 0 top)) ∧
    (let f := fun j => (a j : Int) - x j; lanes (.vsub h .us o) (clamp f 0 top) (sat f 0 top)) ∧
    lanes (.vmul h o) (fun j => a j * x j) none' ∧
    lanes (.vma h o) (fun j => d j + a j * x j) none' ∧
    lanes (.vmin h true o) (fun j => min (a j) (x j)) none' ∧
    lanes (.vmax h true o) (fun j => max (a j) (x j)) none' ∧
    lanes (.vmin h false o) (fun j => min (sx (a j)) (sx (x j))) none' ∧
    lanes (.vmax h false o) (fun j => max (sx (a j)) (sx (x j))) none' ∧
    lanes (.vand h o) (fun j => (a j &&& x j : Nat)) none' ∧
    lanes (.vor h o) (fun j => (a j ||| x j : Nat)) none' ∧
    lanes (.vxor h o) (fun j => (a j ^^^ x j : Nat)) none' ∧
    lanes (.vshl h o) (fun j => (a j * 2 ^ (x j % e) : Nat)) none' ∧
    lanes (.vshr h o) (fun j => (a j / 2 ^ (x j % e) : Nat)) none' ∧
    lanes (.vsar h o) (fun j => sx (a j) / 2 ^ (x j % e)) none' ∧
    (let o2 : V2 := ⟨o.msk, o.ty, o.zr, o.d, o.a⟩
     lanes (.vabs h false o2) (fun j => (sx (a j)).natAbs) none' ∧
     lanes (.vneg h false o2) (fun j => -sx (a j)) none' ∧
     (let f := fun j => ((sx (a j)).natAbs : Int); lanes (.vabs h true o2) (clamp f lo hi) (sat f lo hi)) ∧
     (let f := fun j => -sx (a j); lanes (.vneg h true o2) (clamp f lo hi) (sat f lo hi)) ∧
     ∀ b : SReg,
      let l : Nat := (w.rdS b).toNat % 2 ^ e
      let u : Nat := (w.rdS b).toNat / 2 ^ 32 % 2 ^ e
      lanes (.vclmp h true o2 b) (fun j => (max (min (a j) u) l : Nat)) none' ∧
      lanes (.vclmp h false o2 b) (fun j => max (min (sx (a j)) (sx u)) (sx l)) none')

/-- R286, R293, R295, R303 to R307: the floating lane words complete on a core whose vector unit holds its reservation.
Each active lane takes the operation of its format in round to nearest even: the scalar sum, difference, product, fused
product, minimum or maximum; the sign cleared or inverted, with a NaN made canonical; the clamp between the two bounds;
and for VEXP, VLOG, VRCP and VRSQ the algorithm of R304 to R307 on the lane as FP32, rounded once to the format, with the
named results at 0, 1, the infinities and NaN. The flags are the union over the active lanes, and an inactive lane stays
or, with ZR, becomes zero. -/
def Obligations.VectorFloatLanes : Prop :=
  (∀ (s : State) (w : Window) (h : Hdr) (o : V3) (f : Fmt), Issues s w h false → s.vecHeld s.cur = true →
    o.ty.isVNum = true → Ty.fmt o.ty = some f →
    let e := o.ty.width
    let on (j : Nat) : Bool := (w.rdM o.msk).getLsbD (j * e / 32)
    let a (j : Nat) : Nat := laneOf (w.rdV o.a).toNat e j
    let d (j : Nat) : Nat := laneOf (w.rdV o.d).toNat e j
    let x (j : Nat) : Nat := w.bc o.b e j
    let lanes (i : Instr) (g : Nat → Nat × Flags) : Prop :=
      ∃ (dst : List Dst) (v : VReg) (fl : Flags), exec i s = .next (s.vafter w dst (w.begun.wrV o.d v) fl) ∧
        (∀ b < 7, fl.getLsbD b = true ↔ ∃ j < 2048 / e, on j = true ∧ (g j).2.getLsbD b = true) ∧
        ∀ j < 2048 / e, laneOf v.toNat e j = if on j then (g j).1 % 2 ^ e else if o.zr then 0 else d j
    let o2 : V2 := ⟨o.msk, o.ty, o.zr, o.d, o.a⟩
    let clear (j : Nat) : Nat := a j % 2 ^ (e - 1)
    let signed (g : Nat → Nat) (j : Nat) : Nat × Flags :=
      if (f.decode (a j)).isNan then (f.nan, if (f.decode (a j)).isSig then fNV else 0) else (g j, 0)
    lanes (.vadd h .wrap o) (fun j => f.add .rne (a j) (x j)) ∧
    lanes (.vsub h .wrap o) (fun j => f.sub .rne (a j) (x j)) ∧
    lanes (.vmul h o) (fun j => f.mul .rne (a j) (x j)) ∧
    lanes (.vma h o) (fun j => f.fma .rne (a j) (x j) (d j)) ∧
    lanes (.vmin h false o) (fun j => f.minmax false (a j) (x j)) ∧
    lanes (.vmax h false o) (fun j => f.minmax true (a j) (x j)) ∧
    lanes (.vabs h false o2) (signed clear) ∧
    lanes (.vneg h false o2) (signed fun j => clear j + if clear j = a j then 2 ^ (e - 1) else 0) ∧
    lanes (.vexp h o2) (fun j => transLane o.ty vexp32 (a j)) ∧
    lanes (.vlog h o2) (fun j => transLane o.ty vlog32 (a j)) ∧
    lanes (.vrcp h o2) (fun j => transLane o.ty vrcp32 (a j)) ∧
    lanes (.vrsq h o2) (fun j => transLane o.ty vrsq32 (a j)) ∧
    ∀ b : SReg, lanes (.vclmp h false o2 b) (fun j =>
      let low := f.minmax false (a j) ((w.rdS b).toNat / 2 ^ 32 % 2 ^ e)
      let r := f.minmax true low.1 ((w.rdS b).toNat % 2 ^ e)
      (r.1, low.2 ||| r.2))) ∧
  (∀ x : Nat, x < 2 ^ 32 →
    ((fmtF32.decode x).isNan = true → ∀ g ∈ [vexp32, vlog32, vrcp32, vrsq32],
      g x = (fmtF32.nan, if (fmtF32.decode x).isSig then fNV else 0)) ∧
    (x % 2 ^ 31 = 0 → vexp32 x = (0x3F800000, 0) ∧ vlog32 x = (0xFF800000, fDZ ||| fNX) ∧
      vrcp32 x = (x + 0x7F800000, fDZ ||| fNX) ∧ vrsq32 x = (x + 0x7F800000, fDZ ||| fNX)) ∧
    (x = 0x3F800000 → vlog32 x = (0, 0) ∧ vrcp32 x = (x, 0) ∧ vrsq32 x = (x, 0)) ∧
    (x = 0x7F800000 → vexp32 x = (x, 0) ∧ vlog32 x = (x, 0) ∧ vrcp32 x = (0, 0) ∧ vrsq32 x = (0, 0)) ∧
    (x = 0xFF800000 → vexp32 x = (0, 0) ∧ vlog32 x = (fmtF32.nan, fNV) ∧ vrcp32 x = (0x80000000, 0) ∧
      vrsq32 x = (fmtF32.nan, fNV)) ∧
    (2 ^ 31 < x → x < 0xFF800000 → vlog32 x = (fmtF32.nan, fNV ||| fNX) ∧ vrsq32 x = (fmtF32.nan, fNV ||| fNX)))

/-- R302: VCMUL and VCMA on a core whose vector unit holds its reservation. For a floating type the mask bit of lane 2j
governs the pair of lanes 2j and 2j + 1, real and imaginary; for CI8 and CI4 each lane holds one element. Inactive lanes
stay or, with ZR, become zero. -/
def Obligations.VectorComplexLanes : Prop :=
  ∀ (s : State) (w : Window) (h : Hdr) (o : VC) (ma : Bool), Issues s w h false → s.vecHeld s.cur = true →
    let e := o.ty.width
    let on (j : Nat) : Bool := (w.rdM o.msk).getLsbD (j * e / 32)
    let a (j : Nat) : Nat := laneOf (w.rdV o.a).toNat e j
    let b (j : Nat) : Nat := laneOf (w.rdV o.b).toNat e j
    let d (j : Nat) : Nat := laneOf (w.rdV o.d).toNat e j
    let rest (j : Nat) : Nat := if o.zr then 0 else d j
    ∃ (dst : List Dst) (v : VReg) (fl : Flags),
      exec (if ma then .vcma h o else .vcmul h o) s = .next (s.vafter w dst (w.begun.wrV o.d v) fl) ∧
      (∀ f, Ty.fmt o.ty = some f → o.ty.isVFlt = true → ∀ j < 1024 / e,
        let p := cplxPair f ma o.cj (a (2 * j)) (a (2 * j + 1)) (b (2 * j)) (b (2 * j + 1)) (d (2 * j)) (d (2 * j + 1))
        laneOf v.toNat e (2 * j) = (if on (2 * j) then p.1 % 2 ^ e else rest (2 * j)) ∧
        laneOf v.toNat e (2 * j + 1) = if on (2 * j) then p.2.1 % 2 ^ e else rest (2 * j + 1)) ∧
      (o.ty = .ci8 ∨ o.ty = .ci4 → ∀ j < 2048 / e,
        let p := cplxInt (e / 2) o.sh.val ma o.cj (a j) (b j) (d j)
        laneOf v.toNat e j = if on j then p.1 % 2 ^ e else rest j)

/-- R294, R295, R301, R312: mask words, comparison into a mask, and the words that move lanes, on a core whose vector unit
holds its reservation (the mask words need none). R288: without the reservation a vector word does not issue: its frame
waits, and the unit has a request for the current at the frame's priority standing at its cluster's arbiter. Here for the
words of one shape each. -/
def Obligations.VectorMovesAndReservation : Prop :=
  (∀ (s : State) (w : Window) (h : Hdr), Issues s w h false →
     (∀ d a b : MReg,
       exec (.mkand h d a b) s = .next (s.put w [] (w.begun.wrM d (w.rdM a &&& w.rdM b))) ∧
       exec (.mkor h d a b) s = .next (s.put w [] (w.begun.wrM d (w.rdM a ||| w.rdM b))) ∧
       exec (.mkxor h d a b) s = .next (s.put w [] (w.begun.wrM d (w.rdM a ^^^ w.rdM b))) ∧
       exec (.mknot h d a) s = .next (s.put w [] (w.begun.wrM d (~~~w.rdM a)))) ∧
     (∀ (d : SReg) (a : MReg), exec (.mkpop h d a) s = .next (s.put w [.s d] (w.begun.wrS d (w.rdM a).cpop))) ∧
     (∀ (d : MReg) (b : SI),
       exec (.mkset h false d b) s = .next (s.put w [] (w.begun.wrM d (w.si b))) ∧
       ∃ v : W64, exec (.mkset h true d b) s = .next (s.put w [] (w.begun.wrM d v)) ∧
         ∀ j < 64, v.getLsbD j = decide (j < (w.si b).toNat)) ∧
     (s.vecHeld s.cur = true → ∀ (msk : MReg) (ty : Ty) (zr : Bool) (d a b : VIdx), ty.isVWd = true →
       let e := ty.width
       let n := 2048 / e
       let on (j : Nat) : Bool := (w.rdM msk).getLsbD (j * e / 32)
       let la (r : VIdx) (j : Nat) : Nat := laneOf (w.rdV r).toNat e j
       let lanes (i : Instr) (f : Nat → Nat) : Prop :=
         ∃ (dst : List Dst) (v : VReg), exec i s = .next (s.vafter w dst (w.begun.wrV d v) 0) ∧
           ∀ j < n, laneOf v.toNat e j = if on j then f j else if zr then 0 else la d j
       lanes (.vperm h ⟨msk, ty, zr, d, a⟩ b) (fun j => la a (la b j % n)) ∧
       (∀ x : SI,
         let c := (w.si x).toNat
         lanes (.vshf h .dn ⟨msk, ty, zr, d, a⟩ x) (fun j => if j + c < n then la a (j + c) else 0) ∧
         lanes (.vshf h .up ⟨msk, ty, zr, d, a⟩ x) (fun j => if c ≤ j then la a (j - c) else 0) ∧
         lanes (.vshf h .rot ⟨msk, ty, zr, d, a⟩ x) (fun j => la a ((j + c) % n)) ∧
         lanes (.vbc h msk ty zr d x) (fun _ => c % 2 ^ e) ∧
         (∀ (uns : Bool) (r : SReg), ∃ u : W64,
           exec (.vext h ty uns r a x) s = .next (s.vafter w [.s r] (w.begun.wrS r u) 0) ∧
           u.toNat % 2 ^ e = la a (c % n) ∧ ((uns = true ∨ ty.isScalarInt = false) → u.toNat = la a (c % n))) ∧
         ∀ r : SReg, ∃ (dst : List Dst) (v : VReg),
           exec (.vins h ty d r x) s = .next (s.vafter w dst (w.begun.wrV d v) 0) ∧
           ∀ j < n, laneOf v.toNat e j = if j = c % n then (w.rdS r).toNat % 2 ^ e else la d j) ∧
       (∀ x : Bc, ∃ (dst : List Dst) (v : VReg),
         exec (.vsel h msk ty d a x) s = .next (s.vafter w dst (w.begun.wrV d v) 0) ∧
         ∀ j < n, laneOf v.toNat e j = if on j then la a j else w.bc x e j) ∧
       (∀ (any : Bool) (c : Cond) (m : MReg) (x : Bc), ty.isVInt = true → ∃ v : W64,
         exec (.vcmp h msk ty any (.int c) m a x) s = .next (s.vafter w [] (w.begun.wrM m v) 0) ∧
         ∀ g < 64,
           let hold (j : Nat) : Bool :=
             let p : BitVec e := BitVec.ofNat e (la a j)
             let q : BitVec e := BitVec.ofNat e (w.bc x e j)
             match c with
             | .eq => p == q
             | .ne => p != q
             | .lt => p.slt q
             | .le => p.sle q
             | .gt => q.slt p
             | .ge => q.sle p
             | .ltu => p.ult q
             | .leu => p.ule q
             | .gtu => q.ult p
             | .geu => q.ule p
             | .tst => (p &&& q) != 0
             | .ntst => (p &&& q) == 0
           v.getLsbD g = ((w.rdM msk).getLsbD g &&
             if any then decide (∃ j < 32 / e, hold (g * (32 / e) + j) = true)
             else decide (∀ j < 32 / e, hold (g * (32 / e) + j) = true))) ∧
       (∀ (any : Bool) (c : FCond) (m : MReg) (x : Bc) (f : Fmt), Ty.fmt ty = some f → ∃ (v : W64) (fl : Flags),
         exec (.vcmp h msk ty any (.flt c) m a x) s = .next (s.vafter w [] (w.begun.wrM m v) fl) ∧
         (∀ b < 7, fl.getLsbD b = true ↔ ∃ j < n, on j = true ∧ (f.holds c (la a j) (w.bc x e j)).2.getLsbD b = true) ∧
         ∀ g < 64,
           let hold (j : Nat) : Bool := (f.holds c (la a j) (w.bc x e j)).1
           v.getLsbD g = ((w.rdM msk).getLsbD g &&
             if any then decide (∃ j < 32 / e, hold (g * (32 / e) + j) = true)
             else decide (∀ j < 32 / e, hold (g * (32 / e) + j) = true))))) ∧
  (∀ (s : State) (w : Window) (h : Hdr) (o : V3) (i : Instr), Issues s w h false → s.vecHeld s.cur = false →
     i ∈ [Instr.vadd h .wrap o, .vsub h .wrap o, .vmul h o, .vma h o, .vand h o, .vor h o, .vxor h o, .vshl h o, .vshr h o,
       .vsar h o] →
     ∃ t, exec i s = .next t ∧ t.top = some { w with park := some .stall } ∧ t.mem = s.mem ∧
       (∃ r ∈ (t.cluster (clusterOf s.cur)).reqs, r.pos = posOf s.cur ∧ r.unit = .vector) ∧
       ((∀ r ∈ (s.cluster (clusterOf s.cur)).reqs, ¬(r.pos = posOf s.cur ∧ r.unit = .vector)) →
         (t.cluster (clusterOf s.cur)).reqs =
           (s.cluster (clusterOf s.cur)).reqs ++ [⟨posOf s.cur, .vector, .macroOp, w.fr.lvl, w.fr.ctx, s.tick.toNat⟩]))

/-- R296 to R300, R189: conversion, reduction, scan and dot product complete on a core whose vector unit holds its
reservation. An integer VRED.ADD is the exact sum of the active lanes modulo 2^64, MIN and MAX give an active lane that
bounds the others, and no active lane gives 0; an active lane of an integer VSCAN.ADD is the sum of the active lanes up to
it. VDOT over no active lane gives zero. VCVT converts each active element of its part and leaves the others or, with ZR,
clears them; its EF form also moves the level's position by the number of active elements, modulo 32. -/
def Obligations.VectorReductions : Prop :=
  ∀ (s : State) (w : Window) (h : Hdr) (msk : MReg) (ty : Ty) (a : VIdx), Issues s w h false → s.vecHeld s.cur = true →
    let e := ty.width
    let on (j : Nat) : Bool := (w.rdM msk).getLsbD (j * e / 32)
    let la (j : Nat) : Nat := laneOf (w.rdV a).toNat e j
    (∀ (opc : RedOp) (uns : Bool) (d : SReg), ∃ (v : W64) (fl : Flags),
      exec (.vred h msk ty opc uns d a) s = .next (s.vafter w [.s d] (w.begun.wrS d v) fl) ∧
      (ty.isVInt = true →
        let x (j : Nat) : Int := if uns then la j else sextInt e (la j)
        fl = 0 ∧
        (opc = .add → v = BitVec.ofInt 64 (((List.range (2048 / e)).map fun j => if on j then x j else 0).foldr (· + ·) 0)) ∧
        ((∀ j < 2048 / e, on j = false) → v = 0) ∧
        (opc = .min → (∃ j < 2048 / e, on j = true) →
          ∃ j < 2048 / e, on j = true ∧ v = BitVec.ofInt 64 (x j) ∧ ∀ q < 2048 / e, on q = true → x j ≤ x q) ∧
        (opc = .max → (∃ j < 2048 / e, on j = true) →
          ∃ j < 2048 / e, on j = true ∧ v = BitVec.ofInt 64 (x j) ∧ ∀ q < 2048 / e, on q = true → x q ≤ x j))) ∧
    (∀ (opc : RedOp) (uns zr : Bool) (d : VIdx), ∃ (dst : List Dst) (v : VReg) (fl : Flags),
      exec (.vscan h opc uns ⟨msk, ty, zr, d, a⟩) s = .next (s.vafter w dst (w.begun.wrV d v) fl) ∧
      (ty.isVInt = true → opc = .add → fl = 0 ∧ ∀ j < 2048 / e,
        laneOf v.toNat e j = if on j then
            ((List.range (j + 1)).map fun q => if on q then la q else 0).foldr (· + ·) 0 % 2 ^ e
          else if zr then 0 else laneOf (w.rdV d).toNat e j)) ∧
    (∀ (acc : Bool) (d : SReg) (b : VIdx), ∃ (hi lo : W64) (fl : Flags),
      exec (.vdot h msk ty acc d a b) s = .next (s.vafter w [.s d, .s (d + 1)] ((w.begun.wrS d hi).wrS (d + 1) lo) fl) ∧
      ((∀ j < 2048 / e, on j = false) → acc = false → hi = 0 ∧ lo = 0 ∧ fl = 0)) ∧
    (∀ (sty : Ty) (zr ef cont : Bool) (d : VIdx) (part : BitVec 18),
      let n := 2048 / max sty.width e
      let act (j : Nat) : Bool := (w.rdM msk).getLsbD (j * 64 / n)
      let src (j : Nat) : Nat := laneOf (w.rdV a).toNat sty.width (if sty.width < e then part.toNat * n + j else j)
      let at' (j : Nat) : Nat := if e < sty.width then part.toNat * n + j else j
      part.toNat * n + n ≤ 2048 / min sty.width e →
      (ef = false → ∃ (dst : List Dst) (v : VReg) (fl : Flags),
        exec (.vcvt h msk ty sty zr false cont d a part) s = .next (s.vafter w dst (w.begun.wrV d v) fl) ∧
        ∀ j < n, laneOf v.toNat e (at' j) = if act j then (convertLane ty sty (src j)).1 % 2 ^ e
          else if zr then 0 else laneOf (w.rdV d).toNat e (at' j)) ∧
      (ef = true → w.fr.lvl < 8 → ∃ (t : State) (v : VReg) (fl : Flags),
        exec (.vcvt h msk ty sty zr true cont d a part) s = .next t ∧
        t.top = some { (w.begun.wrV d v).advance with flg := w.flg ||| fl } ∧ t.mem = s.mem ∧
        t.me.bufW = s.me.bufW ∧ t.me.bufA = s.me.bufA ∧ t.me.bufS = s.me.bufS ∧
        (t.me.level w.fr.lvl).bpos = ((if cont then (s.me.level w.fr.lvl).bpos else 0) + ((List.range n).filter act).length) % 32 ∧
        ∀ j < n, act j = false → laneOf v.toNat e (at' j) = if zr then 0 else laneOf (w.rdV d).toNat e (at' j)))

/-- R308 to R311, R285: vector loads and stores on a core whose vector unit holds its reservation and whose frame no
earlier acquire holds back. VLD and VLDX put the buffer's little-endian elements into the active lanes; VST writes exactly
the bytes of the active lanes, and VSTX each active element at its place, the higher one last. VLDG becomes outstanding
for the active lanes; its shaped form also moves VCUR on, and past the rank's last tile gives zeros at once. VSTG puts the
bytes of the active lanes into the journal, or into the core's own buffer, or to region 0xFF (the model's choice, log 15). -/
def Obligations.VectorMemory : Prop :=
  ∀ (s : State) (w : Window) (h : Hdr) (msk : MReg) (ty : Ty) (zr : Bool) (d : VIdx),
    Issues s w h false → s.vecHeld s.cur = true → s.me.held w.fr = false →
    ty.width = 8 ∨ ty.width = 16 ∨ ty.width = 32 →
    let e := ty.width
    let on (j : Nat) : Bool := (w.rdM msk).getLsbD (j * e / 32)
    let bytes (q : VIdx) (i : Nat) : Byte := BitVec.ofNat 8 (laneOf (w.rdV q).toNat 8 i)
    let goes (t : State) : Prop := t.me.wins = w.begun.advance :: s.me.wins.tail ∧ t.mem = s.mem
    let row (t : State) (buf o : Nat) : Prop := (∀ q ∈ [0, 1, 3], q ≠ buf → t.me.buf q = s.me.buf q) ∧
      ∀ x, memGet (t.me.buf buf) x =
        if o ≤ x ∧ x < o + 256 ∧ on ((x - o) * 8 / e) then bytes d (x - o) else memGet (s.me.buf buf) x
    let lanes (k : PendKind) : Prop := ∃ l : VReg, k = .vec d zr l ∧ ∀ b < 2048, l.getLsbD b = (w.rdM msk).getLsbD (b / 32)
    (∀ (a : BuS) (b : SI) (buf o : Nat), formBufA s w a (w.siInt b) 256 16 1 = .ok (buf, o) →
      ∃ (dst : List Dst) (v : VReg), exec (.vld h msk ty zr d a b) s = .next (s.vafter w dst (w.begun.wrV d v) 0) ∧
        ∀ j < 2048 / e, laneOf v.toNat e j = if on j then memNat (s.me.buf buf) (o + j * (e / 8)) (e / 8)
          else if zr then 0 else laneOf (w.rdV d).toNat e j) ∧
    (∀ (a : BuS) (b : SI) (buf o : Nat), formBufA s w a (w.siInt b) 256 16 2 = .ok (buf, o) →
      ∃ t, exec (.vst h msk ty d a b) s = .next t ∧ goes t ∧ row t buf o) ∧
    (∀ (part : Fin 8) (a : BuS) (b : VIdx),
      let place (acc j : Nat) : Except FaultInfo (Nat × Nat) := formBuf s w a (sextInt 32 (laneOf (w.rdV b).toNat 32 j)) (e / 8) acc
      let act (j : Nat) : Prop := j < 64 ∧ (w.rdM msk).getLsbD j = true
      (part.val * 64 + 64 ≤ 2048 / e → ∀ g : Nat → Nat × Nat, (∀ j, act j → place 1 j = .ok (g j)) →
        ∃ (dst : List Dst) (v : VReg), exec (.vldx h msk ty zr part d a b) s = .next (s.vafter w dst (w.begun.wrV d v) 0) ∧
          ∀ j < 64, laneOf v.toNat e (part.val * 64 + j) =
            if (w.rdM msk).getLsbD j then memNat (s.me.buf (g j).1) (g j).2 (e / 8)
            else if zr then 0 else laneOf (w.rdV d).toNat e (part.val * 64 + j)) ∧
      (part.val * 64 + 64 ≤ 2048 / e → ∀ g : Nat → Nat × Nat, (∀ j, act j → place 2 j = .ok (g j)) →
        ∃ t, exec (.vstx h msk ty part d a b) s = .next t ∧ goes t ∧
          (∀ q ∈ [0, 1, 3], ∀ x, (∀ j, act j → (g j).1 = q → x < (g j).2 ∨ (g j).2 + e / 8 ≤ x) →
            memGet (t.me.buf q) x = memGet (s.me.buf q) x) ∧
          ∀ j, act j →
            (∀ i, act i → j < i → (g i).1 = (g j).1 → (g i).2 + e / 8 ≤ (g j).2 ∨ (g j).2 + e / 8 ≤ (g i).2) →
            memNat (t.me.buf (g j).1) (g j).2 (e / 8) = laneOf (w.rdV d).toNat e (part.val * 64 + j))) ∧
    (∀ (a : SK) (b : SI) (x : Acc), formAddr s w a (w.siInt b) 256 pREAD 1 = .ok x →
      ∃ t, exec (.vldg h msk ty zr d (.plain a b)) s = .next t ∧ Fetching s t w x lanes) ∧
    (∀ (a : SK) (buf : Fin 4) (off : BitVec 16),
      let o := off.toNat * 16
      let t := Shape.ofNat (memNat s.me.bufS o 64)
      let i := Instr.vldg h msk ty zr d (.shp a buf off)
      let sound := buf = 3 ∧ o % 64 = 0 ∧ s.me.bufOk w.fr.ctx 3 o 64 = true ∧ t.valid = true ∧ t.tileBytes % 256 = 0
      let chunk := chunkBytes t w.fr.rank.toNat w.fr.fansz.toNat t.vcur
      (¬sound → exec i s = .next (s.took w ⟨cBUFFER, 1, 0, o⟩)) ∧
      (sound → chunk = none → ∃ (dst : List Dst) (v : VReg), exec i s = .next (s.vafter w dst (w.begun.wrV d v) 0) ∧
        ∀ j < 2048 / e, laneOf v.toNat e j = if on j then 0 else if zr then 0 else laneOf (w.rdV d).toNat e j) ∧
      (∀ bs, sound → chunk = some bs → (∀ v, some v ∈ bs → ∃ x, formAddr s w a v 1 pREAD 1 = .ok x) →
        ∃ u, exec i s = .next u ∧ goes u ∧ memNat u.me.bufS (o + 52) 4 = (t.vcur + 1) % 2 ^ 32 ∧
          u.me.bufW = s.me.bufW ∧ u.me.bufA = s.me.bufA ∧
          ∃ p ∈ u.me.pend, p.id = s.nextId ∧ p.wid = w.wid ∧ lanes p.kind)) ∧
    (∀ (a : SK) (b : SI) (x : Acc), formAddr s w a (w.siInt b) 256 pWRITE 2 = .ok x →
      let i := Instr.vstg h msk ty d a b
      (x.region = 0xFF → ∃ t, exec i s = .next t ∧ goes t ∧ t.sysMem = hostMask s.sysMem x.off
        ((List.range 256).map fun i => if on (i * 8 / e) then some (bytes d i) else none)) ∧
      (x.own s = true → winBuf x.off ≠ 2 → ∃ t, exec i s = .next t ∧ goes t ∧ row t (winBuf x.off) (winOff x.off)) ∧
      (x.region ≠ 0xFF → x.own s = false → 5 ≤ s.me.freeIdx.length → (∀ i : Nat, i < 16 → (s.me.slot i).cnt < 65531) →
        (s.me.jrn.map JEntry.idx).Nodup →
        ∃ t, exec i s = .next t ∧ goes t ∧ t.me.bufW = s.me.bufW ∧ t.me.bufA = s.me.bufA ∧ t.me.bufS = s.me.bufS ∧
          ∀ i < 256, on (i * 8 / e) = true → ∃ q ∈ t.me.jrn, q.ofTicket w.fr = true ∧ q.region = x.region ∧
            q.blk = (x.off + i) / 64 ∧ q.byte ((x.off + i) % 64) = some (bytes d i)))

/-! ### Matrix words (R313 to R346) -/

/-- R314, R315, R317, R318, R329, R335, R337, R340, R343: with its descriptor, tiles, buffers and captured registers in
order a free trestle entry and no earlier store to the core's own buffers that still waits (R394), each matrix word puts
one job into the engine's list, counts it in SEQM, and goes on; no cell and no byte of a buffer changes at issue. R318: a
tile at or above L takes BUFFER, and R315: a descriptor with a bit above its width takes ILLEGAL. Here for the words whose
operands are tiles alone. -/
def Obligations.MatrixIssue : Prop :=
  (∀ (s : State) (w : Window) (h : Hdr), Issues s w h false → captureCheck s w true = .ok () → s.me.trestle.length < 64 →
     s.me.ownWaits w.fr = false →
     let x := w.fr.ctx
     let c := s.me.cx x
     let desc (b : SI) : Nat := (w.si b).toNat % 2 ^ 18
     let room (buf off n : Nat) : Prop := s.me.bufOk x buf off n = true
     let enters (i : Instr) (op : MOp) (tile : Nat) (old : Option Nat) (cx : CtxCore → CtxCore) : Prop :=
       ∃ t, exec i s = .next t ∧ MatrixJob s t w op tile old cx
     (∀ (cm : CellMode) (d : SI), desc d < 8 → desc d < c.tileL →
       let r := s.me.rename x (desc d)
       enters (.mzero h (some cm) d) .zero r.1 r.2 fun c =>
         { c with tileMap := c.tileMap.set (desc d) r.1, lmode := c.lmode.set (desc d) cm }) ∧
     (∀ (d : SI), desc d < 8 → desc d < c.tileL →
       let r := s.me.rename x (desc d)
       enters (.mzero h none d) .zero r.1 r.2 fun c =>
         { c with tileMap := c.tileMap.set (desc d) r.1, lmode := c.lmode.set (desc d) (s.me.level w.fr.lvl).dmode }) ∧
     (∀ (o : MP) (cj : Bool) (aoff boff : Nat),
       let v := desc o.d
       let t := v % 8
       let k := (v / 2 ^ 3 % 2 ^ 9 + 1) * 8
       let p := v / 2 ^ 12 % 2 ^ 4
       let m := 64 / 2 ^ (v / 2 ^ 16)
       let r := s.me.rename x t
       let ren (c : CtxCore) : CtxCore := { c with tileMap := c.tileMap.set t r.1 }
       v / 2 ^ 16 < 3 → p ≤ Ty.planes o.bty → t < c.tileL → c.mode t = passMode o.ty →
       w.buS o.a = some (1, aoff) → room 1 aoff (m * (k * o.ty.width / 8)) →
       w.buS o.b = some (0, boff) → boff % 64 = 0 → room 0 boff (k / 8 * Ty.slabBytes o.bty) →
       enters (.mpass h o) (.pass o.ty o.bty (Ty.isCplx o.ty) false k (if p = 0 then Ty.planes o.bty else p) m aoff boff)
         r.1 r.2 ren ∧
       enters (.mpassc h cj o) (.pass o.ty o.bty (Ty.isCplx o.ty) cj k (if p = 0 then Ty.planes o.bty else p) m aoff boff)
         r.1 r.2 ren) ∧
     (∀ (ty bty : Ty) (d : SI) (a : KReg) (b : BuS) (boff : Nat),
       let v := desc d
       let t := v % 8
       let k := (v / 2 ^ 3 % 2 ^ 9 + 1) * 8
       let p := v / 2 ^ 12 % 2 ^ 4
       let m := 64 / 2 ^ (v / 2 ^ 16)
       let r := s.me.rename x t
       v / 2 ^ 16 < 3 → p ≤ Ty.planes bty → t < c.tileL → c.mode t = passMode ty →
       operandKey s w (w.rdK a) (m * (k * ty.width / 8)) = .ok () →
       w.buS b = some (0, boff) → boff % 64 = 0 → room 0 boff (k / 8 * Ty.slabBytes bty) →
       enters (.mpassr h ty bty d a b) (.passr ty bty k (if p = 0 then Ty.planes bty else p) m boff (w.rdK a)) r.1 r.2 fun c =>
         { c with tileMap := c.tileMap.set t r.1 }) ∧
     (∀ (d : SI) (a b : BuS) (ab ao bb bo : Nat),
       let tgt := desc d % 8
       let src := desc d / 8
       desc d < 64 → tgt < c.tileL → src < c.tileL → c.mode src ≠ .ci32 → c.mode tgt = .f2 →
       w.buS a = some (ab, ao) → ab = 1 ∨ ab = 3 → room ab ao 256 → w.buS b = some (bb, bo) → bb = 1 ∨ bb = 3 → room bb bo 256 →
       enters (.mscale h d a b) (.scale (c.phys src) (decide (c.mode src = .i64)) ab ao bb bo) (c.phys tgt) none id) ∧
     (∀ (ty : Ty) (ef hd : Bool) (hpri : Fin 8) (d : BuS) (a : SI) (buf off : Nat),
       let t := desc a % 8
       let row0 := desc a / 2 ^ 3 % 2 ^ 6
       let rows := desc a / 2 ^ 9 + 1
       desc a < 2 ^ 15 → row0 + rows ≤ 64 → t < c.tileL → drainSuits (c.mode t) ty ef = true →
       w.buS d = some (buf, off) → buf = 1 ∨ buf = 3 → off % 16 = 0 → room buf off (rows * (64 * ty.width / 8)) →
       (hd = true → hpri.val ≤ w.fr.pri) →
       enters (.mdrain h ty ef hd hpri d a) (.drain ty (c.mode t) ef hd hpri.val row0 rows buf off t) (c.phys t) none id) ∧
     (∀ (ty : Ty) (d a b : BuS) (at' ao doff : Nat),
       w.buS b = some (3, at') → at' % 64 = 0 → room 3 at' 64 →
       let r := memNat s.me.bufS at' 64
       let k := r / 2 ^ 448 % 2 ^ 16
       let str := r / 2 ^ 464 % 2 ^ 16
       let base := ao + w.fr.rank.toNat * 16 * (r / 2 ^ 480 % 2 ^ 16)
       r / 2 ^ 496 % 2 ^ 16 = 0 → k % 8 = 0 → 8 ≤ k → k ≤ 4096 → 64 * ty.width / 8 ≤ str →
       w.buS a = some (1, ao) → room 1 base ((k - 1) * str + 64 * ty.width / 8) →
       w.buS d = some (0, doff) → doff % 64 = 0 → room 0 doff (k / 8 * Ty.slabBytes ty) →
       enters (.mpack h ty d a b) (.pack ty k str base doff) 0 none id) ∧
     (∀ (ty : Ty) (d a : BuS) (b : SI) (ao doff : Nat),
       let rows := (desc b % 8 + 1) * 8
       let cols := (desc b / 8 + 1) * 8
       let n := rows * cols * (ty.width / 8)
       desc b < 64 → w.buS a = some (1, ao) → room 1 ao n → w.buS d = some (1, doff) → room 1 doff n →
       (doff + n ≤ ao ∨ ao + n ≤ doff) →
       enters (.mtrn h ty d a b) (.trn (ty.width / 8) rows cols ao doff) 0 none id) ∧
     (∀ (d a : SI), desc d < 8 → desc d < c.tileL → desc a < 8 → desc a < c.tileL →
       enters (.mcopy h d a) (.copy (c.phys (desc a))) (c.phys (desc d)) none fun c =>
         { c with lmode := c.lmode.set (desc d) (c.mode (desc a)) })) ∧
  (∀ (s : State) (w : Window) (h : Hdr) (cm : Option CellMode) (d a : SI), Issues s w h false → s.me.ownWaits w.fr = false →
     let desc (b : SI) : Nat := (w.si b).toNat % 2 ^ 18
     (8 ≤ desc d →
       exec (.mzero h cm d) s = .next (s.took w ⟨cILLEGAL, 0, 0, 0⟩) ∧
       exec (.mcopy h d a) s = .next (s.took w ⟨cILLEGAL, 0, 0, 0⟩)) ∧
     (desc d < 8 → (s.me.cx w.fr.ctx).tileL ≤ desc d → desc a < 8 →
       exec (.mzero h cm d) s = .next (s.took w ⟨cBUFFER, 0, 0, 0⟩) ∧
       exec (.mcopy h d a) s = .next (s.took w ⟨cBUFFER, 0, 0, 0⟩)))

/-- R344 to R346: MSTAT reads a counter once the ticket's jobs are complete and parks until then; MCLR clears the named
counters; MCFG sets the number of tiles, the renaming table and the modes; MCANCEL takes the level's jobs that have not
started and parks for the one that runs. The steps that end the two waits let the frame go on. R176: a writer takes the
tile's own physical tile unless an MDRAIN reads it; then it takes the lowest physical tile of CMASK that is neither mapped
nor named by a job in the trestle, and where there is none it keeps the tile. -/
def Obligations.MatrixControlAndRenaming : Prop :=
  (∀ (s : State) (w : Window) (h : Hdr),
     let x := w.fr.ctx
     (Issues s w h false →
       (∀ (d : SReg) (n : BitVec 18),
         (3 < n.toNat → exec (.mstat h d n) s = .next (s.took w ⟨cILLEGAL, 0, 0, 0⟩)) ∧
         (n.toNat ≤ 3 → s.me.mstatReady w.fr = true →
           exec (.mstat h d n) s = .next (s.wrote w d (s.me.mxcOf x n.toNat) 0)) ∧
         (n.toNat ≤ 3 → s.me.mstatReady w.fr = false →
           exec (.mstat h d n) s = .next ((s.begun w [.s d]).setTop { w.begun with park := some (.mstat d n.toNat) }))) ∧
       (∀ b : SI, (w.si b).toNat % 2 ^ 18 < 16 →
         ∃ t, exec (.mclr h b) s = .next t ∧ t.top = some w.begun.advance ∧ t.mem = s.mem ∧
           (∀ i < 4, t.me.mxcOf x i = if (w.si b).getLsbD i then 0 else s.me.mxcOf x i) ∧
           (∀ y, y ≠ x → t.me.cx y = s.me.cx y) ∧ t.me.cx x = { s.me.cx x with mxc := (t.me.cx x).mxc }) ∧
       (∀ b : SI,
         let v := (w.si b).toNat % 2 ^ 18
         let l := v % 16
         v < 64 → 1 ≤ l → l ≤ 8 → v / 16 < 3 → (∀ j ∈ s.me.mjobs, j.ctx ≠ x) → l ≤ (s.me.tilesOf x).length →
         ∃ t, exec (.mcfg h b) s = .next t ∧ t.top = some w.begun.advance ∧ t.mem = s.mem ∧ t.me.bufC = s.me.bufC ∧
           (t.me.cx x).tileL = l ∧ (t.me.cx x).tileMap = (s.me.tilesOf x).take l ∧
           (∀ i < l, (t.me.cx x).mode i = if v / 16 = 0 then .f2 else if v / 16 = 1 then .i64 else .ci32)) ∧
       ((∀ j ∈ s.me.mjobs, j.ctx = x → j.fr.lvl = w.fr.lvl → j.bound = false ∧ s.me.mrun ≠ some j.tid) →
         ∃ t, exec (.mcancel h) s = .next t ∧ t.top = some w.begun.advance ∧ t.mem = s.mem ∧ t.me.bufC = s.me.bufC ∧
           (∀ j ∈ t.me.mjobs, j.ctx ≠ x ∨ j.fr.lvl ≠ w.fr.lvl) ∧
           ∀ j ∈ s.me.mjobs, (∀ o ∈ s.me.mjobs, o.tid = j.tid → o.ctx ≠ x ∨ o.fr.lvl ≠ w.fr.lvl) → j ∈ t.me.mjobs) ∧
       (∀ j ∈ s.me.mjobs, j.ctx = x → j.fr.lvl = w.fr.lvl → s.me.mrun = some j.tid →
         ∃ t, exec (.mcancel h) s = .next t ∧ t.top = some { w.begun with park := some .mcancel } ∧ t.mem = s.mem)) ∧
     (∀ c : Nat, s.topOf c = some w →
       (∀ d n, w.park = some (.mstat d n) → (s.core c).mstatReady w.fr = true →
         ∃ t, exec (.mstatDone c) s = .next t ∧
           t.topOf c = some { w.wrS d ((s.core c).mxcOf x n) with park := none, fresh := false, pc := w.pc + 12 } ∧ t.mem = s.mem) ∧
       (w.park = some .mcancel → (∀ j ∈ (s.core c).mjobs, j.ctx = x → j.fr.lvl ≠ w.fr.lvl) →
         ∃ t, exec (.mcancelDone c) s = .next t ∧ t.topOf c = some { w with park := none, fresh := false, pc := w.pc + 12 } ∧ t.mem = s.mem))) ∧
  (∀ (k : Core) (x : Ctx) (t : Nat),
     let p := (k.cx x).phys t
     let drain (j : MJob) : Prop := j.tile = p ∧ ∃ a b c d e f g i m n, j.op = .drain a b c d e f g i m n
     let free (q : Nat) : Prop :=
       q < 8 ∧ (∃ b, k.bal x = some b ∧ b.cmask.getLsbD q = true) ∧ q ∉ (k.cx x).tileMap.take (k.cx x).tileL ∧
       ∀ r ∈ k.trestle, ⟨2, q, q⟩ ∉ r.reads ++ r.writes
     ((¬∃ j ∈ k.mjobs, drain j) → k.rename x t = (p, none)) ∧
     (∀ q, (∃ j ∈ k.mjobs, drain j) → free q → (∀ q' < q, ¬free q') → k.rename x t = (q, some p)) ∧
     ((∃ j ∈ k.mjobs, drain j) → (∀ q, ¬free q) → k.rename x t = (p, none)))

/-! ### Task words (R350 to R370, R385, R457) -/

/-- R351, R359, R360: SUCC writes NXT and BYT; CLAIM takes a free awning of the context, raising THR to its ceiling, and
UNCLAIM gives back the youngest claim if it is its own and the window's, restoring THR. Their faults are those of the
rules. -/
def Obligations.SuccessorsAndClaims : Prop :=
  ∀ (s : State) (w : Window) (h : Hdr), Issues s w h false →
    (∀ b : SL,
      exec (.succ h (.nxt b)) s = .next (s.put w [] { w.begun with nxt := w.sl b }) ∧
      exec (.succ h (.byt b)) s = .next (s.put w [] { w.begun with byt := w.sl b }) ∧
      exec (.succ h (.both b)) s = .next (s.put w [] { w.begun with
        nxt := w.sl b, byt := BitVec.ofNat 64 ((w.sl b).toNat % 2 ^ 18 / 2 * 2 + 1) })) ∧
    exec (.succ h .clr) s = .next (s.put w [] { w.begun with nxt := 0, byt := 0 }) ∧
    (∀ b : SI,
      let id := (w.si b).toNat
      let stop (i : Instr) (f : FaultInfo) : Prop := exec i s = .next (s.took w f)
      (id = 0 ∨ 255 < id → stop (.claim h b) ⟨cILLEGAL, 0, 0, 0⟩ ∧ stop (.unclaim h b) ⟨cILLEGAL, 0, 0, 0⟩) ∧
      (1 ≤ id → id ≤ 255 →
        (s.me.awnIdx w.fr.ctx id = none → stop (.claim h b) ⟨cCLAIM, 0, 0, id⟩) ∧
        (∀ i, s.me.awnIdx w.fr.ctx id = some i →
          ((s.me.awn i).held = true ∨ 32 ≤ s.me.claims.length → stop (.claim h b) ⟨cCLAIM, 0, 0, id⟩) ∧
          ((s.me.awn i).held = false → s.me.claims.length < 32 → (s.me.awn i).ceil = 7 → w.sys = false →
            stop (.claim h b) ⟨cPRIV, 0, 0, 0⟩) ∧
          ((s.me.awn i).held = false → s.me.claims.length < 32 → ((s.me.awn i).ceil = 7 → w.sys = true) →
            ∃ t, exec (.claim h b) s = .next t ∧ GoesOn s t w.begun.advance ∧
              t.me.claims = ⟨i, s.me.thr, w.wid⟩ :: s.me.claims ∧ t.me.thr = max s.me.thr (s.me.awn i).ceil ∧
              (t.me.awn i).held = true ∧ ∀ j, j ≠ i → t.me.awn j = s.me.awn j)) ∧
        (∀ (c : Claim) (r : List Claim), s.me.claims = c :: r →
          (s.me.awnIdx w.fr.ctx id = some c.rcd → c.wid = w.wid →
            ∃ t, exec (.unclaim h b) s = .next t ∧ GoesOn s t w.begun.advance ∧
              t.me.claims = r ∧ t.me.thr = c.thr ∧ (t.me.awn c.rcd).held = false ∧ ∀ j, j ≠ c.rcd → t.me.awn j = s.me.awn j) ∧
          (s.me.awnIdx w.fr.ctx id ≠ some c.rcd ∨ c.wid ≠ w.wid → stop (.unclaim h b) ⟨cCLAIM, 0, 0, id⟩)) ∧
        (s.me.claims = [] → stop (.unclaim h b) ⟨cCLAIM, 0, 0, id⟩)))

/-- R354, R361 to R365: with its object's address in order, CHIT, BARI, BARA, TLSET, TLADD and TLWATCH each queue one
message of their kind to the object's home and go on; a release or barrier chit whose key names region 0xFE or 0xFF, where
no ticket and no barrier lies, sends none (the model's choice, log 46). The message of a release waits for the ticket's
earlier entries. BARI with a count outside 1 to 1,024 takes ILLEGAL. R348, R367, R368, R370: ASK sends one ask to its
crier, the Exchange's of its die or, for .dev, of die 0, with the destination dword and the captured successor; CRINIT
with a sound descriptor parks until every crier of its scope has answered. A channel above 15 takes ILLEGAL. -/
def Obligations.ObjectMessagesAndAsks : Prop :=
  (∀ (s : State) (w : Window) (h : Hdr) (a : SK) (b d : SI) (sc : Scope) (x : Acc), Issues s w h false →
     let lane := w.fr.pri
     let chit (k : ChitKind) (lane : Nat) (arg : W64) : Send := .chit (s.chitTo k lane w.fr.ctx x arg)
     let sends (i : Instr) (wait : Bool) (what : Send) : Prop := ∃ t, exec i s = .next t ∧ Sends s t w wait what
     (∀ (kind : ChitSel) (cp : Fin 8) (cpv : Bool), chitAddr s w kind a b = .ok x →
       (cpv = true → cp.val ≤ w.fr.pri ∧ (cp.val = 7 → w.sys = true)) →
       (kind = .byte ∨ x.region.toNat ≤ 3 → sends (.chit h kind cp cpv d a b) true (chit (match kind with
         | .rel => .release
         | .bar => .barArrive
         | .byte => .byteArrive) (if cpv then cp.val else lane) (w.si d))) ∧
       (kind ≠ .byte → 3 < x.region.toNat → exec (.chit h kind cp cpv d a b) s = .next (s.put w [] w.begun))) ∧
     ((w.si b).toNat = 0 ∨ 1024 < (w.si b).toNat → exec (.bari h a b) s = .next (s.took w ⟨cILLEGAL, 0, 0, 0⟩)) ∧
     (s.me.held w.fr = false →
       (1 ≤ (w.si b).toNat → (w.si b).toNat ≤ 1024 →
         objAddr s w a 0 (32 + 8 * (w.si b).toNat) pATOM 3 32 [0, 1] = .ok x →
         sends (.bari h a b) false (chit .barInit lane (w.si b))) ∧
       (objAddr s w a (w.siInt b) 32 pATOM 3 32 [0, 1] = .ok x → captureCheck s w false = .ok () →
         sends (.bara h sc a b) (Scope.wide sc) (chit .barArrive lane w.nxt)) ∧
       (objAddr s w a (w.siInt b) 8 pATOM 3 8 [0, 1] = .ok x →
         sends (.tlset h sc d a b) (Scope.wide sc) (chit .tlSet lane (w.si d)) ∧
         sends (.tladd h sc d a b) (Scope.wide sc) (chit .tlAdd lane (w.si d)) ∧
         (captureCheck s w false = .ok () →
           sends (.tlwatch h d a b) true (.watch x.dev x.region x.off (w.si d) w.nxt))))) ∧
  (∀ (s : State) (w : Window) (h : Hdr) (dev : Bool) (b : SI), Issues s w h false →
     (16 ≤ (w.si b).toNat → ∀ x : BuS,
       exec (.ask h dev x b) s = .next (s.took w ⟨cILLEGAL, 0, 0, 0⟩) ∧
       exec (.crinit h dev x b) s = .next (s.took w ⟨cILLEGAL, 0, 0, 0⟩)) ∧
     ((w.si b).toNat < 16 →
       (∀ (d : BuS) (o : Nat), formBufA s w d 0 8 8 2 = .ok (3, o) → captureCheck s w false = .ok () →
         ∃ (t : State) (m : AskMsg), exec (.ask h dev d b) s = .next t ∧ t.asks = s.asks ++ [m] ∧
           m.die = (if dev then 0 else dieOf s.cur) ∧ m.ch = (w.si b).toNat ∧ m.core = s.cur ∧ m.ctx = w.fr.ctx ∧
           m.dst = o ∧ m.nxt = w.nxt ∧ m.fr = w.fr ∧ GoesOn s t w.begun.advance ∧ t.me.bufS = s.me.bufS) ∧
       (∀ (a : BuS) (o : Nat), w.buS a = some (3, o) → o % 32 = 0 → s.me.bufOk w.fr.ctx 3 o 32 = true →
         s.me.ownWaits w.fr = false →
         let desc := memNat s.me.bufS o 32
         (descOk desc = true →
           exec (.crinit h dev a b) s = .next ((s.begun w []).setTop { w.begun with
             park := some (.crinit dev (w.si b).toNat (BitVec.ofNat 256 desc) 0) })) ∧
         (descOk desc = false → exec (.crinit h dev a b) s = .next (s.took w ⟨cBUFFER, 0, 0, o⟩)))))

/-- R355, R356: SPAWN checks its address and parks while its ticket is read, and then, where the ticket names one, its
footprint record of 128 bytes. When what it reads has come and passes its checks, the launch is queued behind the ticket's
earlier entries, for this device or the key's, and the frame goes on; where a check fails, of the image or of the shape
record, the frame takes its fault instead. -/
def Obligations.SpawnResults : Prop :=
  ∀ (s : State) (w : Window) (h : Hdr) (d : Option BuS) (a : SK) (b : SI),
    (∀ x : Acc, Issues s w h false → s.me.held w.fr = false → objAddr s w a (w.siInt b) 64 pSPAWN 6 64 [0] = .ok x →
      ∃ (t : State) (p : Pend), exec (.spawn h d a b) s = .next t ∧ p ∈ t.me.pend ∧ p.kind = .spawn ∧ p.wid = w.wid ∧
        p.off = x.off ∧ p.n = 64 ∧ t.me.wins = { w.begun with park := some (.spawn d a b) } :: s.me.wins.tail ∧
        t.mem = s.mem) ∧
    (∀ (c : Nat) (p : Pend) (us : List Pend), s.topOf c = some w → w.park = some (.spawn d a b) →
      ((s.core c).pend.filter fun q => q.kind = .spawn && q.wid = w.wid) = p :: us → us.length ≤ 1 →
      (∀ r ∈ p :: us, ∀ q ∈ r.parts, q.st = .done) →
      let dev := accDev s w.fr.ctx 0 0 ((w.base a).2.2.map Key.peer)
      let s1 := { s with cur := c }.spawnReads c (p :: us)
      let foot : List Byte := (us.map fun u => natBytes 128 u.value).flatten
      let stops (f : FaultInfo) : Prop := ∃ t, exec (.spawnReadDone c) s = .next t ∧
        t = { (s1.setTop { w with park := none }).takeFault f with cur := s.cur }
      (us = [] → footReadable (imgFoot p.value) = true →
        ∃ (t : State) (u : Pend), exec (.spawnReadDone c) s = .next t ∧ t.cur = s.cur ∧ t.topOf c = some w ∧ t.mem = s.mem ∧
          u ∈ (t.core c).pend ∧ u.kind = .spawn ∧ u.wid = w.wid ∧ u.off = imgFoot p.value ∧ u.n = 128) ∧
      (us ≠ [] ∨ footReadable (imgFoot p.value) = false →
        (∀ (rs : List Range) (sh : Option (Nat × List Byte)),
          s1.imageCheck dev p.value w.sys w.fr.ctx foot = .ok rs → shapeOf s1 w d = .ok sh →
          ∃ (t : State) (e : Defer), exec (.spawnReadDone c) s = .next t ∧ t.cur = s.cur ∧
            t.topOf c = some { w with park := none, pc := w.pc + 12 } ∧ e ∈ (t.core c).defer ∧ e.wait = true ∧ e.fr = w.fr ∧
            (dev = s.dev → ∃ m, e.what = .launch m ∧ m.ctx = imgCtx p.value ∧ m.tkt = p.off) ∧
            (dev ≠ s.dev → ∃ m, e.what = .away dev m)) ∧
        (∀ code : Nat, s1.imageCheck dev p.value w.sys w.fr.ctx foot = .error code →
          stops ⟨code, 6, 0, if code = cPERM then p.off else 0⟩) ∧
        (∀ (rs : List Range) (f : FaultInfo), s1.imageCheck dev p.value w.sys w.fr.ctx foot = .ok rs → shapeOf s1 w d = .error f →
          stops f)))

/-- R385, R338, R339: LPUT in a landing handler gives its packet the bytes of v0 and ends the handler, MROWDONE in a row
handler stores its row, once, and ends it, also where the drain has been cancelled since (R346), and takes BUFFER where
the row no longer lies in the allocation (R158); elsewhere both take ILLEGAL. Where entries of the ticket are under way
both park, and the handler ends when they are done, as a task that waits at END does. -/
def Obligations.HandlerEnds : Prop :=
  ∀ (s : State) (w : Window) (h : Hdr),
    (Issues s w h true →
      ((∀ j k, w.fr.kind ≠ .landing j k) → exec (.lput h) s = .next (s.took w ⟨cILLEGAL, 0, 0, 0⟩)) ∧
      ((∀ j m, w.fr.kind ≠ .row j m) → exec (.mrowdone h) s = .next (s.took w ⟨cILLEGAL, 0, 0, 0⟩)) ∧
      (∀ (j k : Nat) (c : Window) (r : List Window), w.fr.kind = .landing j k → w.adm = true →
        (∀ q ∈ s.me.claims, q.wid ≠ w.wid) → s.me.drained w.fr = true → s.me.wins = w :: c :: r →
        ∃ t, exec (.lput h) s = .next t ∧ t.me.wins = c :: r ∧ t.me.thr = w.pthr ∧ t.mem = s.mem ∧
          t.me.copies = s.me.copies.map fun o => if o.tid = j then { o with packets := o.packets.map fun p =>
            if p.k = k ∧ p.st = .handler then { p with
              st := .put
              data := (natBytes 256 (w.rdV 0).toNat).take (w.fr.args.getD 2 0).toNat
                ++ List.replicate ((w.fr.args.getD 2 0).toNat - 256) 0 } else p } else o) ∧
      (∀ (j m : Nat) (c : Window) (r : List Window), w.fr.kind = .row j m → w.adm = true →
        (∀ q ∈ s.me.claims, q.wid ≠ w.wid) → s.me.drained w.fr = true → s.me.wins = w :: c :: r →
        s.me.bufOk w.fr.ctx ((w.fr.args.getD 0 0).toNat / 2 ^ 20) ((w.fr.args.getD 0 0).toNat % 2 ^ 20) (w.fr.args.getD 2 0).toNat
          = true →
        ∃ t, exec (.mrowdone h) s = .next t ∧ t.me.wins = c :: r ∧ t.me.thr = w.pthr ∧ t.mem = s.mem ∧
          (let at' := (w.fr.args.getD 0 0).toNat
           let n := (w.fr.args.getD 2 0).toNat
           let row := (natBytes 256 (w.rdV 0).toNat ++ natBytes 256 (w.rdV 1).toNat).take n
           n ≤ 512 →
           (s.me.mjob j = none →
             (at' / 2 ^ 20 = 1 → t.me.bufA = memWrite s.me.bufA (at' % 2 ^ 20) row) ∧
             (at' / 2 ^ 20 = 3 → t.me.bufS = memWrite s.me.bufS (at' % 2 ^ 20) row)) ∧
           (∀ (g : MJob) (ty : Ty) (mode : CellMode) (ef : Bool) (hp row0 rows buf off tile : Nat),
             s.me.mjob j = some g → g.op = .drain ty mode ef true hp row0 rows buf off tile →
             (m - row0 ∉ g.rows →
               (at' / 2 ^ 20 = 1 → t.me.bufA = memWrite s.me.bufA (at' % 2 ^ 20) row) ∧
               (at' / 2 ^ 20 = 3 → g.byt.toNat % 2 = 0 → t.me.bufS = memWrite s.me.bufS (at' % 2 ^ 20) row)) ∧
             (m - row0 ∈ g.rows → t.me.bufA = s.me.bufA ∧ t.me.bufS = s.me.bufS)))) ∧
      ((∀ q ∈ s.me.claims, q.wid ≠ w.wid) → w.adm = true → s.me.drained w.fr = false →
        (∀ j k, w.fr.kind = .landing j k →
          ∃ t, exec (.lput h) s = .next t ∧ t.top = some { w.begun with park := some .endWait } ∧ t.mem = s.mem) ∧
        (∀ j m, w.fr.kind = .row j m →
          s.me.bufOk w.fr.ctx ((w.fr.args.getD 0 0).toNat / 2 ^ 20) ((w.fr.args.getD 0 0).toNat % 2 ^ 20) (w.fr.args.getD 2 0).toNat
            = true →
          ∃ t, exec (.mrowdone h) s = .next t ∧ t.top = some { w.begun with park := some .endWait } ∧ t.mem = s.mem)) ∧
      (∀ j m, w.fr.kind = .row j m → s.me.mjob j = none → s.me.taskClaim = none →
        let at' := (w.fr.args.getD 0 0).toNat
        s.me.bufOk w.fr.ctx (at' / 2 ^ 20) (at' % 2 ^ 20) (w.fr.args.getD 2 0).toNat = false →
        exec (.mrowdone h) s = .next (s.took w ⟨cBUFFER, 2, 0, at' % 2 ^ 20⟩))) ∧
    (∀ (i : Nat) (c : Window) (r : List Window), (s.core i).wins = w :: c :: r → w.park = some .endWait → w.adm = true →
      (s.core i).drained w.fr = true →
      ∃ t, exec (.endDrainDone i) s = .next t ∧ (t.core i).wins = c :: r ∧ (t.core i).thr = w.pthr ∧ t.mem = s.mem)

/-! ### Rings, streams and copies (R116 to R155, R371 to R378) -/

/-- R119 to R122, R374: RCFG disables a ring or sets it up empty with the context's own number in its descriptor. A ring
number above 15 takes ILLEGAL, another context's ring PERM, and a ring in use or without room BUFFER. R123 to R128, R375,
R376: with a ring of its context, fewer gets than slots and a free trestle entry, RGET takes the next index, satisfied at
once (its successor waits for the trestle entry, R126) or waiting at the ring, and RPUT, once no store to the core's own
buffers waits (R394), gives back the oldest slot; the fill forms do the same on the far side of a ring whose producer is
software. The pointers and counts move as the rules say, and no other byte changes. R122 to R125: the faults of the ring
words. -/
def Obligations.RingSetupAndUse : Prop :=
  (∀ (s : State) (w : Window) (h : Hdr) (a : SReg) (b : SI), Issues s w h false →
     let n := (w.si b).toNat
     let old := s.me.ring n
     let v := (w.rdS a).toNat
     let rdc : W64 := BitVec.ofNat 64 (v % 2 ^ 48 + w.fr.ctx.toNat * 2 ^ 48)
     let new : Ring := { Ring.zero with rdc := rdc }
     let busy : Prop := old.bound = true ∨ old.gc ≠ 0 ∨ s.me.ringJob n = true
     let stop (f : FaultInfo) : Prop := exec (.rcfg h a b) s = .next (s.took w f)
     let sets (r : Ring) : Prop := ∃ t, exec (.rcfg h a b) s = .next t ∧ GoesOn s t w.begun.advance ∧
       t.me.bufS = s.me.bufS ∧ t.me.ring n = r ∧ ∀ m, m ≠ n → t.me.ring m = s.me.ring m
     (16 ≤ n → stop ⟨cILLEGAL, 0, 0, 0⟩) ∧
     (n < 16 →
       (v / 2 ^ 6 % 4 ≠ 0 ∨ v / 2 ^ 33 % 2 ^ 15 ≠ 0 → stop ⟨cILLEGAL, 0, 0, 0⟩) ∧
       (v / 2 ^ 6 % 4 = 0 → v / 2 ^ 33 % 2 ^ 15 = 0 →
         (old.en = true → old.ctx ≠ w.fr.ctx → stop ⟨cPERM, 0, 0, 0⟩) ∧
         ((old.en = true → old.ctx = w.fr.ctx) →
           (v % 2 = 0 →
             (old.en = true → busy → stop ⟨cBUFFER, 0, 0, 0⟩) ∧
             (old.en = false ∨ ¬busy → sets Ring.zero)) ∧
           (v % 2 = 1 →
             (v / 2 % 4 = 2 ∨ v / 2 ^ 4 % 4 = 3 → stop ⟨cILLEGAL, 0, 0, 0⟩) ∧
             (v / 2 % 4 ≠ 2 → v / 2 ^ 4 % 4 ≠ 3 →
               (ringFits s w n new = false ∨ busy → stop ⟨cBUFFER, 0, 0, 0⟩) ∧
               (ringFits s w n new = true → ¬busy → sets new))))))) ∧
  (∀ (s : State) (w : Window) (h : Hdr) (b : SI), Issues s w h false →
     let n := (w.si b).toNat
     let r := s.me.ring n
     n < 16 → r.en = true → r.ctx = w.fr.ctx → s.me.trestle.length < 64 →
     let moves (i : Instr) (p : Ring → Prop) : Prop := ∃ t, exec i s = .next t ∧ GoesOn s t w.begun.advance ∧
       t.me.bufS = s.me.bufS ∧ (t.me.ring n).rdc = r.rdc ∧ p (t.me.ring n) ∧ ∀ m, m ≠ n → t.me.ring m = s.me.ring m
     (r.gc < r.size → captureCheck s w false = .ok () →
       (r.getOk r.gc = true → moves (.rget h b) fun q =>
         q.gc = r.gc + 1 ∧ q.wp = r.wp ∧ q.rp = r.rp ∧ q.cnt = r.cnt ∧
         ∀ g ∈ q.gets, r.getOk g.g = false) ∧
       (r.getOk r.gc = false → (r.eos = false ∨ r.isOut = true) → r.gets.length < 8 → moves (.rget h b) fun q =>
         q.gc = r.gc + 1 ∧ q.cnt = r.cnt ∧ ∃ g ∈ q.gets, g.g = r.gc ∧ g.nxt = w.nxt ∧ g.fr = w.fr) ∧
       (r.getOk r.gc = false → r.eos = true → r.isOut = false → moves (.rget h b) fun q => q = r)) ∧
     (r.fgc < r.size → r.prod = 2 → captureCheck s w false = .ok () →
       (r.fillOk r.fgc = true ∨ r.fgets.length < 8) → moves (.rgetFill h b) fun q =>
         q.fgc = r.fgc + 1 ∧ q.gc = r.gc ∧ q.cnt = r.cnt ∧ q.wp = r.wp ∧
         (∀ g ∈ q.fgets, r.fillOk g.g = false) ∧
         (r.fillOk r.fgc = false → ∃ g ∈ q.fgets, g.g = r.fgc ∧ g.nxt = w.nxt ∧ g.fr = w.fr)) ∧
     (s.me.ownWaits w.fr = false → 0 < r.gc → r.getOk 0 = true → moves (.rput h b) fun q =>
       q.rp = (r.rp + 1) % r.size ∧ q.gc = r.gc - 1 ∧ q.wp = r.wp ∧
       (r.isOut = false → q.cnt = r.cnt - 1) ∧
       (r.isOut = true → r.eos = false → q.cnt = r.cnt + 1) ∧
       (r.isOut = true → r.eos = true → q.cnt = r.cnt ∧ q.ovf = true)) ∧
     (s.me.ownWaits w.fr = false → 0 < r.fgc → r.prod = 2 → r.fillOk 0 = true → moves (.rputFill h b) fun q =>
       q.wp = (r.wp + 1) % r.size ∧ q.fgc = r.fgc - 1 ∧ q.rp = r.rp ∧ q.gc = r.gc ∧ q.seq = r.seq + 1 ∧
       q.cnt = if r.isOut then r.cnt - 1 else r.cnt + 1)) ∧
  (∀ (s : State) (w : Window) (h : Hdr) (b : SI), Issues s w h false →
     let n := (w.si b).toNat
     let r := s.me.ring n
     let stop (i : Instr) (code : Nat) : Prop := exec i s = .next (s.took w ⟨code, 0, 0, 0⟩)
     let all (code : Nat) : Prop :=
       stop (.rget h b) code ∧ stop (.rgetFill h b) code ∧ stop (.rput h b) code ∧ stop (.rputFill h b) code ∧
       stop (.pdrop h b) code ∧ (s.me.ownWaits w.fr = false → ∀ d a, stop (.psub h d a b) code)
     (16 ≤ n → all cILLEGAL) ∧
     (n < 16 → r.en = false → all cBUFFER) ∧
     (n < 16 → r.en = true → r.ctx ≠ w.fr.ctx → all cPERM) ∧
     (n < 16 → r.en = true → r.ctx = w.fr.ctx →
       (r.gc = r.size → stop (.rget h b) cBUFFER) ∧
       (r.gc = 0 ∨ r.getOk 0 = false → stop (.rput h b) cBUFFER) ∧
       (r.getOk r.gc = false → (r.eos = false ∨ r.isOut = true) → 8 ≤ r.gets.length → stop (.rget h b) cBUFFER) ∧
       (r.prod ≠ 2 ∨ r.fgc = r.size ∨ (r.fillOk r.fgc = false ∧ 8 ≤ r.fgets.length) → stop (.rgetFill h b) cBUFFER) ∧
       (r.prod ≠ 2 ∨ r.fgc = 0 ∨ r.fillOk 0 = false → stop (.rputFill h b) cBUFFER)))

/-- R131 to R136, R377, R378: PSUB with a valid shape record, base and a free stream binds its stream to the ring, or ends
it at once where the rank has no tile; PDROP of a ring without a stream completes at once and one of a bound ring waits at
the ring until the slot under way is whole and, on an out ring, every slot handed over before it is empty, when its end
frees the ring. -/
def Obligations.StreamWords : Prop :=
  ∀ (s : State) (w : Window) (h : Hdr) (b : SI),
    let n := (w.si b).toNat
    let r := s.me.ring n
    (Issues s w h false →
      (∀ (d : BuS) (a : SK) (t : Stream), psubCheck s w d a b = .ok (n, t) → s.me.ownWaits w.fr = false →
        ∃ u, exec (.psub h d a b) s = .next u ∧ GoesOn s u w.begun.advance ∧ u.me.bufS = s.me.bufS ∧
          (t.tile ≠ none → (u.me.ring n).bound = true ∧ (u.me.ring n).stream = some t ∧ (u.me.ring n).eos = false) ∧
          (t.tile = none → (u.me.ring n).bound = false ∧ (u.me.ring n).stream = none ∧ (u.me.ring n).eos = true)) ∧
      (n < 16 → r.en = true → r.ctx = w.fr.ctx → captureCheck s w false = .ok () →
        ∃ u, exec (.pdrop h b) s = .next u ∧ GoesOn s u w.begun.advance ∧ u.me.bufS = s.me.bufS ∧
          (r.bound = false → u.me.ring n = r) ∧
          (r.bound = true → ∃ g : Get, u.me.ring n = { r with drop := r.drop ++ [g], dropLeft := r.cnt } ∧ g.nxt = w.nxt ∧ g.fr = w.fr))) ∧
    (∀ (c m : Nat), m < 16 → ((s.core c).ring m).drop ≠ [] →
      ((s.core c).ring m).midSlot = false →
      (((s.core c).ring m).bound = false ∨ ((s.core c).ring m).isOut = false ∨ ((s.core c).ring m).dropLeft = 0) →
      ∃ t, exec (.pdropDone c m) s = .next t ∧ (t.core c).ring m =
        { (s.core c).ring m with bound := false, stream := none, drop := [], dropLeft := 0 } ∧ t.mem = s.mem)

/-- R139 to R143, R150, R155, R371, R372: COPY puts one job, and COPYC one job for each card of its chain, at the end of
the engine's list, as their cards say and with the captured successor, bytebar and handler; the jobs are counted in SEQC
and the frame goes on. Here where no store to the core's own buffers waits (R394) and the cards pass their checks and the
engine, the trestle and the range slots have room; a card that fails a check faults, and so does a handler priority above
the frame's. R151, R152, R373: BBINIT sets a bytebar to an expected count, nothing arrived, and its successor; a count
outside 40 bits takes ILLEGAL, a successor that is no ticket's address ALIGN or ADDR, and a bytebar outside the allocation
BUFFER. -/
def Obligations.CopyAndBytebarIssue : Prop :=
  (∀ (s : State) (w : Window) (h : Hdr), Issues s w h false → captureCheck s w true = .ok () → s.me.ownWaits w.fr = false →
     let job (c : Card) (j : CopyJob) : Prop :=
       j.len = c.len ∧ j.xf = c.xf ∧ j.hpri = c.hpri ∧ j.nxt = w.nxt ∧ j.byt = w.byt ∧ j.hnde = w.hnde ∧ j.fr = w.fr ∧
       j.ctx = w.fr.ctx ∧ j.started = false ∧ j.issued = 0 ∧ j.counted = 0 ∧ j.packets = [] ∧
       j.dst.kind = c.dst.kind ∧ j.src.kind = c.src.kind ∧ j.dst.off = c.dst.off ∧ j.src.off = c.src.off
     let room (cs : List Card) : Prop :=
       s.me.copies.length + cs.length ≤ 32 ∧ s.me.trestle.length + cs.length ≤ 64 ∧
       s.me.tagsFull (cs.flatMap fun c => packetTags s s.cur w.fr.ctx c) = false
     let enters (i : Instr) (cs : List Card) (chain : Bool) : Prop :=
       ∃ (t : State) (js : List CopyJob), exec i s = .next t ∧ GoesOn s t w.begun.advance ∧ t.me.bufS = s.me.bufS ∧
         t.me.copies = s.me.copies ++ js ∧ js.length = cs.length ∧ (∀ (i : Nat) c j, cs[i]? = some c → js[i]? = some j → job c j) ∧
         (∀ j ∈ js, j.chain = if chain then s.nextId else 0) ∧
         (t.me.cx w.fr.ctx).seqcIssued = (s.me.cx w.fr.ctx).seqcIssued + BitVec.ofNat _ cs.length
     (∀ (dr sr xf : Bool) (hp : Fin 8) (db sb : Bool) (d a : CopyOp) (b : SI),
       let c : Card := ⟨copyEnd w d dr db, copyEnd w a sr sb, (w.si b).toNat, xf, hp.val⟩
       (cardCheck s w c = .ok () → hp.val ≤ w.fr.pri → room [c] → enters (.copy h dr sr xf hp db sb d a b) [c] false) ∧
       (∀ f, cardCheck s w c = .error f → exec (.copy h dr sr xf hp db sb d a b) s = .next (s.took w f)) ∧
       (cardCheck s w c = .ok () → w.fr.pri < hp.val →
         exec (.copy h dr sr xf hp db sb d a b) s = .next (s.took w ⟨cBUFFER, 0, 0, 0⟩))) ∧
     (∀ (a : BuS) (o : Nat) (cs : List Card), w.buS a = some (3, o) → readChain s w 32 o = .ok cs → room cs →
       enters (.copyc h a) cs true) ∧
     (∀ (a : BuS) (o : Nat) (f : FaultInfo), w.buS a = some (3, o) → readChain s w 32 o = .error f →
       exec (.copyc h a) s = .next (s.took w f))) ∧
  (∀ (s : State) (w : Window) (h : Hdr) (d : BuS) (a b : SI) (o : Nat), Issues s w h false →
     w.buS d = some (3, o) →
     (2 ^ 40 ≤ (w.si b).toNat → exec (.bbinit h d a b) s = .next (s.took w ⟨cILLEGAL, 0, 0, 0⟩)) ∧
     ((w.si b).toNat < 2 ^ 40 →
       ((w.si a).toNat % 64 ≠ 0 → exec (.bbinit h d a b) s = .next (s.took w ⟨cALIGN, 0, 0, (w.si a).toNat⟩)) ∧
       ((w.si a).toNat % 64 = 0 →
         (2 ^ 48 ≤ (w.si a).toNat → exec (.bbinit h d a b) s = .next (s.took w ⟨cADDR, 0, 0, (w.si a).toNat⟩)) ∧
         ((w.si a).toNat < 2 ^ 48 → o % 16 ≠ 0 ∨ s.me.bufOk w.fr.ctx 3 o 16 = false →
           exec (.bbinit h d a b) s = .next (s.took w ⟨cBUFFER, 0, 0, o⟩)) ∧
         ((w.si a).toNat < 2 ^ 48 → o % 16 = 0 → s.me.bufOk w.fr.ctx 3 o 16 = true → s.me.ownWaits w.fr = false →
           ∃ t, exec (.bbinit h d a b) s = .next t ∧ GoesOn s t w.begun.advance ∧
             memNat t.me.bufS o 16 = (w.si b).toNat + (w.si a).toNat * 2 ^ 80 ∧
             ∀ q, (q < o ∨ o + 16 ≤ q) → memGet t.me.bufS q = memGet s.me.bufS q))))

/-! ### Events of a core (R98 to R113, R208, R212, R251, R263, R399, R453) -/

/-- R66, R87, R105, R106, R109, R208, R251, R263, R269, R394, R397, R399, R453, R459: what comes back to a core. Each
event, where what it names stands as it must, has its effect: a reply completes its part, or ends the context where its
verdict is a refusal; a complete access gives its register its value and is no longer outstanding; a journal entry closes,
drains, is acknowledged or refused; a deferred message leaves; a REFUSED trap opens a fault window; a BRK goes on; SC
forms are announced and delivered; a window access is performed at its buffer or ends its context with BUFFER; and a part
leaves the egress. -/
def Obligations.CoreEvents : Prop :=
  ∀ (s : State) (c : Nat),
    let k := s.core c
    let does (i : Instr) (p : State → Prop) : Prop := ∃ t, exec i s = .next t ∧ t.mem = s.mem ∧ p t
    let ends (i : Instr) (x : Ctx) (code : Nat) : Prop := s.live x → ∃ t, exec i s = .next t ∧ t.died x code
    (∀ (p : Pend) (i : Nat) (q : Part) (data : List Byte) (tag : Bool), (k.pend.find? fun r => r.id = p.id) = some p →
      p.parts[i]? = some q → q.st = .remote →
      (k.unackedAway p q = false → p.kind ≠ .pref ∨ data ≠ [] →
        does (.loadReply c p.id (some (i, data, tag, 0))) fun t =>
          t.hasPart c p.id i fun r => r.st = .done ∧ r.data = data ∧ r.ktag = tag) ∧
      (p.kind ≠ .pref →
        ends (.loadReply c p.id (some (i, data, tag, 1))) p.ctx cREFUSED ∧
        ends (.loadReply c p.id (some (i, data, tag, 2))) p.ctx (if p.region = 0xFE then cBUFFER else cPAGE) ∧
        ends (.loadReply c p.id (some (i, data, tag, 3))) p.ctx cLINK) ∧
      (p.kind = .pref → ∀ v ≠ 0, does (.loadReply c p.id (some (i, data, tag, v))) fun t => ∀ r ∈ (t.core c).pend, r.id ≠ p.id)) ∧
    (∀ (p : Pend), (k.pend.find? fun r => r.id = p.id) = some p → p.sc = false → p.engine = false → p.kind ≠ .stsc →
      p.kind ≠ .spawn → (∀ q ∈ p.parts, q.st = .done) →
      does (.loadReply c p.id none) fun t =>
        (∀ r ∈ (t.core c).pend, r.id ≠ p.id) ∧
        (p.wide = true → ∀ l ∈ (t.core c).l1, l.ctx ≠ p.ctx) ∧
        ∀ (w : Window), s.topOf c = some w → w.wid = p.wid →
          (p.dead = true → ∃ v, t.topOf c = some v ∧ v.s = w.s ∧ v.k = w.k ∧ v.v = w.v) ∧
          (p.dead = false →
            (∀ ty uns d, p.kind = .load ty uns d → t.topOf c = some (w.wrS d (loadedValue ty uns p.value))) ∧
            (∀ d, p.kind = .key d → t.topOf c = some (w.wrK d ⟨BitVec.ofNat 128 p.value, p.keyTag⟩)) ∧
            (∀ d zr lanes, p.kind = .vec d zr lanes →
              t.topOf c = some (w.wrV d (vldgResult (w.rdV d) zr lanes p.deadLanes (BitVec.ofNat 2048 p.value)))) ∧
            (∀ ty d, (∃ op x, p.kind = .amo op ty d x) ∨ (∃ x y, p.kind = .cas ty d x y) →
              ∃ v, t.topOf c = some v ∧ v.s = (w.wrS d (loadedValue ty false p.value)).s) ∧
            (∀ n d, p.kind = .mfs n d → t.topOf c = some (w.wrS d (lateReg s k p.ctx n))))) ∧
    (∀ (e : JEntry), k.entry e.idx = some e → e.st = .opened → e.opened + openTicks c ≤ s.tick.toNat →
      does (.journalOpenTimeout c e.idx) fun t => ∀ o ∈ (t.core c).jrn, o.idx = e.idx → o.st ≠ .opened) ∧
    (∀ (e : JEntry), k.entry e.idx = some e → s.mayEmit c e = true → s.entryGo c e false = true →
      (e.region = 1 → (s.egressRaw e.ctx (e.blk * 64) (s.entryDev e)).isSome = true) →
      does (.journalEmit c e.idx) fun t => (∀ o ∈ (t.core c).jrn, o.idx = e.idx → o.st = .draining) ∧
        (s.entryDev e = s.dev → t.out = s.out) ∧
        (s.entryDev e ≠ s.dev → ∃ r, t.out = s.out ++ [.request (s.entryDev e) r] ∧ r.off = e.blk * 64 ∧
          r.kind = .store ((List.range 64).map e.byte) (e.stk && e.tag) ∧ r.ctx = e.ctx ∧ r.region = e.region ∧ r.core = c)) ∧
    (∀ (e : JEntry), k.entry e.idx = some e → e.st = .performed ∨ e.away s.dev = true →
      does (.journalAck c e.idx) fun t => (∀ o ∈ (t.core c).jrn, o.idx ≠ e.idx) ∧
        (e.region = 1 ∨ e.dev = s.dev → ∀ l ∈ (t.core c).l1, l.ctx = e.ctx → l.region = e.region →
          l.line * 128 < e.blk * 64 + 64 → l.line * 128 + 128 ≤ e.blk * 64)) ∧
    (∀ (e : JEntry), k.entry e.idx = some e → e.st = .refusing ∨ e.away s.dev = true →
      let had := (k.jrn.filter fun o => o.st = .refused && decide (o.ctx = e.ctx)).length
      let kept (t : State) : Prop :=
        ∃ o ∈ (t.core c).jrn, o.idx = e.idx ∧ o.st = .refused ∧ o.data = e.data ∧ o.mask = e.mask ∧ o.slots = 0
      (e.orphan = true → does (.storeRefused c e.idx) fun t => ∀ o ∈ (t.core c).jrn, o.idx ≠ e.idx) ∧
      (e.orphan = false → had < 16 → k.running e.fr = true →
        does (.storeRefused c e.idx) fun t => ⟨e.idx, e.fr⟩ ∈ (t.core c).traps ∧ kept t) ∧
      (e.orphan = false → had < 16 → k.running e.fr = false → s.handled e.ctx = true →
        does (.storeRefused c e.idx) fun t => kept t ∧
          ∃ w ∈ (t.core c).waiting, w.kind = .faultTicket e.idx ∧ w.ctx = e.ctx ∧ w.prio = e.fr.pri ∧ w.entry = s.hent e.ctx) ∧
      (e.orphan = false → 16 ≤ had ∨ (k.running e.fr = false ∧ s.handled e.ctx = false) → ends (.storeRefused c e.idx) e.ctx cREFUSED)) ∧
    (∀ (n : Nat) (d : Defer), k.defer[n]? = some d → (d.wait = true → k.settled d.fr d.stamp = true) →
      (∀ g ∈ d.gates, (s.core g.core).settled g.fr g.stamp = true) → s.objBusy c n d = false →
      does (.deferredEmit c n) fun t => (t.core c).defer = k.defer.eraseIdx n ∧
        (∀ m : Chit, d.what = .chit m → s.holds? m.ctx = true → m.tdev = s.dev →
          ∃ f : Flying, t.chits = s.chits ++ [f] ∧ f.src = c ∧ f.fr = d.fr ∧ { f.c with colour := m.colour } = m) ∧
        (∀ m : Chit, d.what = .chit m → s.holds? m.ctx = true → m.tdev ≠ s.dev →
          ∃ o : Chit, t.out = s.out ++ [.chit o] ∧ { o with colour := m.colour } = m) ∧
        (∀ dev region off th nxt, d.what = .watch dev region off th nxt →
          (dev = s.dev → t.watchMsgs = s.watchMsgs ++ [⟨dev, c, d.ctx, region, off, th, nxt, d.fr⟩]) ∧
          (dev ≠ s.dev → t.out = s.out ++ [.watch dev d.ctx region off th nxt (Fin.ofNat 8 d.fr.pri)])) ∧
        (∀ m : Creation, d.what = .launch m → s.holds? m.ctx = true → s.ticketDie m.ctx m.tkt < 4 →
          (t.exch (s.ticketDie m.ctx m.tkt)).input = (s.exch (s.ticketDie m.ctx m.tkt)).input ++ [m]) ∧
        (∀ dev l, d.what = .away dev l → t.out = s.out ++ [.launch dev l])) ∧
    (∀ (w : Window) (r : Trap), s.topOf c = some w → (k.traps.find? fun t => t.fr.same w.fr) = some r →
      s.boundary c = true → s.frozen w.fr.ctx = false → bestCand (s.candidates c) = none →
      s.handled w.fr.ctx = true → w.sys = false → fitsResident 0 k.wins = true → spillTop k.spilled ≤ 0x10000 →
      does (.refusedTrapDelivery c) fun t => t.cur = s.cur ∧ r ∉ (t.core c).traps ∧
        ∃ v : Window, t.topOf c = some v ∧ v.callw = true ∧ v.rpc = w.pc ∧ v.rdS 9 = 0 ∧ v.rdS 10 = BitVec.ofNat 64 r.idx ∧
          v.rdS 8 = recordHead ⟨cREFUSED, 2, 0, r.idx⟩ w.fr.ctx s.dev c true false) ∧
    (∀ (wid n : Nat) (w : Window), s.serves (dieOf c) = true → (vget [] s.mail (dieOf c)).any (SvcMsg.stopOf c wid) = true → k.findWin wid = some w →
      w.wid = wid → w.park = some (.brk n) →
      (does (.brkReply ⟨c, wid⟩ true) fun t =>
        (s.topOf c = some w → t.topOf c = some { w with park := none, pc := w.pc + 12 }) ∧
        (dieOf c < s.mail.size → vget [] t.mail (dieOf c) = (vget [] s.mail (dieOf c)).eraseP (SvcMsg.stopOf c wid))) ∧
      ((∃ r, s.ctxRec w.fr.ctx = some r ∧ r.debugger = true) → ends (.brkReply ⟨c, wid⟩ false) w.fr.ctx cBREAK) ∧
      ((∀ r, s.ctxRec w.fr.ctx = some r → r.debugger = false) → exec (.brkReply ⟨c, wid⟩ false) s = exec (.brkReply ⟨c, wid⟩ true) s)) ∧
    does .scAnnounce (fun t => t = { s with scForms := t.scForms } ∧ t.scForms.length = s.scForms.length ∧
      ∀ f ∈ t.scForms, f.window < s.tick.toNat / 8 → f.announced = true) ∧
    (∀ (id : Nat) (f : ScForm) (p : Pend), (s.scForms.find? fun f => decide (f.core = c) && decide (f.id = id)) = some f →
      f.announced = true → 8 * (f.window + 7) ≤ s.tick.toNat → (k.pend.find? fun p => p.id = id) = some p →
      does (.scDeliver c id) fun t => f ∉ t.scForms ∧ (∀ q ∈ (t.core c).pend, q.id ≠ id) ∧
        ∀ l ∈ (t.core c).l1, l.ctx ≠ p.ctx) ∧
    (∀ (r : AccRef) (a : WinAcc), s.winAsk r = some a → a.sc = false → winCore a.off < 768 →
      s.scBusy a.x (vaOf 0xFE a.off / 128) = false →
      let t0 := winCore a.off
      let buf := winBuf a.off
      let there : Prop := s.retained (clusterOf t0) = false ∧ s.flipped t0 a.x = false ∧
        (s.core t0).winOk a.x a.sys buf a.span.1 a.span.2 = true
      (s.holds? a.x = true → a.own = true ∨ there →
        (a.store = none → ∀ id i, r = .pend c id i →
          does (.windowAccess r) fun t => t.hasPart c id i fun q =>
            q.st = .done ∧ q.data = memRead ((s.core t0).buf buf) (winOff a.off) a.n) ∧
        (∀ bs tag, a.store = some (bs, tag) → buf ≠ 2 →
          does (.windowAccess r) fun t =>
            (t.core t0).buf buf = memMask ((s.core t0).buf buf) (winOff a.off) bs ∧
            (∀ i, r = .jrn c i → ∀ e ∈ (t.core c).jrn, e.idx = i → e.st = .performed) ∧
            (∀ id i, r = .pend c id i → ∀ p ∈ (t.core c).pend, p.id ≠ id) ∧
            (∀ q, r = .peer q → t.out = s.out ++ [.reply (backDev q) q.core q.id [] false 0 q.ctx q.ord]))) ∧
      (a.own = false → s.retained (clusterOf t0) = false → s.holds? a.x = true → s.flipped t0 a.x = false →
        (s.core t0).winOk a.x a.sys buf a.span.1 a.span.2 = false → ends (.windowAccess r) a.x cBUFFER)) ∧
    (∀ (p : Pend) (i : Nat) (q : Part), (∀ r ∈ k.pend, r.id = p.id → r = p) → p ∈ k.pend → p.parts[i]? = some q → q.st = .egress →
      let q' : Part := { q with dev := if p.region = 1 then (match s.ownerEntry p.ctx q.off with
        | some o => o.owner
        | none => q.dev) else q.dev }
      s.partGo c p q' = true →
      (q'.dev = s.dev ∨ s.partOrdered c p q' = false ∨ s.pathFree c p.ctx p.region q'.dev q.off = true) →
      (p.region = 1 → (s.egressRaw p.ctx q.off q'.dev).isSome = true) →
      does (.egressRelease (.pend c p.id i)) fun t =>
        (q'.dev = s.dev → (t.hasPart c p.id i fun r => r.st = .queued) ∧ t.out = s.out) ∧
        (q'.dev ≠ s.dev → (t.hasPart c p.id i fun r => r.st = .remote) ∧
          t.out = s.out ++ [.request q'.dev (partReq s c p i q')]))

/-! ### Events of the home slices, of migration and of the fabric (R33, R37 to R42, R54 to R91, R97, R113) -/

/-- R33, R37, R39, R41, R42, R94, R95, R97, R112 to R114, R456: an access that its home slice accepts, translates and lets
pass is performed there, of a core of this device or of a peer: a load takes its line, a store writes it, an atomic does
both in one step. A denied store is refused; a miss takes a pending-fault entry, whose message goes to the service core of
the slice's die, and ends the context of a SYS ticket. One of the first eight walks fills the TLB with the entry it finds;
the verdict on a fault message is kept and acted on; an uncorrectable error, or an agent's own fault, ends the context.
R94, R97: a slice gives an access the line it holds, or else, where its set has room, a clean line of the 128 bytes of
memory behind the entry; memory stays as it was. -/
def Obligations.SliceEvents : Prop :=
  (∀ (s : State),
     (∀ (r : AccRef) (a : Ask) (u : State) (sl e : Nat), s.askOf r = some a →
       s.slicePass (.acc r) a = .ok u sl e → pteKind e = 0 → paExists (ptePa e a.off) = true →
       let line := (u.useLine sl a.x a.region a.off e).2
       (a.kind = .load → a.wr = false → s.progWait r = false →
         ∃ t, exec (.sliceLoad r) s = .next t ∧
           (∀ c id i, r = .pend c id i → t.hasPart c id i fun q =>
             q.st = .done ∧ q.data = line.data ∧ q.base = a.off / 128 * 128) ∧
           (∀ q, r = .peer q → ∃ tag, t.out = s.out ++ [.reply (backDev q) q.core q.id
             (if q.region = 1 then line.data else sliceBytes line.data (a.off - a.off / 128 * 128) a.n) tag 0 q.ctx q.ord])) ∧
       (a.kind = .store → (∀ c idx, r = .jrn c idx → (s.core c).olderDrain idx = false) →
         ∃ t, exec (.sliceStoreDrain r) s = .next t ∧ u.wroteLine t sl a.x a.region a.off e (s.storeOf r).1 ∧
           (∀ c idx, r = .jrn c idx → ∀ o ∈ (t.core c).jrn, o.idx = idx → o.st = .performed) ∧
           (∀ q, r = .peer q → .reply (backDev q) q.core q.id [] false 0 q.ctx q.ord ∈ t.out)) ∧
       (a.kind = .atomic → s.atomicReady r = true → s.home a.x a.region a.off = sl →
         let old := sliceBytes line.data (a.off % 128) a.n
         let done (i : Instr) : Prop := ∃ t, exec i s = .next t ∧
           (∀ c id j, r = .pend c id j → t.hasPart c id j fun q => q.st = .done ∧ q.data = old ∧ q.base = a.off) ∧
           (∀ q, r = .peer q → .reply (backDev q) q.core q.id old false 0 q.ctx q.ord ∈ t.out) ∧
           ∀ n new, s.atomicOp r (leNat old) = some (n, new) →
             u.wroteLine t sl a.x a.region a.off e ((natBytes n new).map some)
         (∀ c id, r = .pend c id 0 → done (.atomicPort sl (some (c, id)) none)) ∧
         (∀ q, r = .peer q → done (.atomicPort sl none (some q))))) ∧
     (∀ (c idx : Nat) (a : Ask) (u : State), s.askOf (.jrn c idx) = some a →
       (s.core c).olderDrain idx = false → s.slicePass (.acc (.jrn c idx)) a = .denied u →
       ∃ t, exec (.sliceStoreDrain (.jrn c idx)) s = .next t ∧ t.mem = s.mem ∧
         ∀ o ∈ (t.core c).jrn, o.idx = idx → o.st = .refusing) ∧
     (∀ (c id i : Nat) (a : Ask) (u : State) (sl : Nat), s.askOf (.pend c id i) = some a → a.kind = .load →
       a.wr = false → a.pref = false → s.progWait (.pend c id i) = false → s.slicePass (.acc (.pend c id i)) a = .missed u sl →
       (a.sys = false → (s.slice sl).joins a.x (pfRange a.region a.off) = false → (s.slice sl).faults.length < 32 →
         ∃ t, exec (.sliceLoad (.pend c id i)) s = .next t ∧ t.mem = s.mem ∧
           (t.slice sl).faults = (s.slice sl).faults ++
             [⟨a.x, pfRange a.region a.off, .load, s.dev, c, none, [.acc (.pend c id i)], false⟩] ∧
           (sl < 192 → .fault sl a.x (pfRange a.region a.off) .load s.dev c ∈ vget [] t.mail (sl / 48))) ∧
       (a.sys = true → s.live a.x → ∃ t, exec (.sliceLoad (.pend c id i)) s = .next t ∧ t.died a.x cPAGE)) ∧
     (∀ (sl k : Nat) (w : Walk) (e : Nat), (s.slice sl).walks[k]? = some w → k < 8 →
       let region : BitVec 8 := BitVec.ofNat 8 (w.va / 2 ^ 64)
       let off := w.va % 2 ^ 64
       walk s.mem (s.trans w.ctx) region off = .hit e →
       ∃ t, exec (.pageWalkDone sl k) s = .next t ∧ t.mem = s.mem ∧ (t.slice sl).walks = (s.slice sl).walks.eraseIdx k ∧
         (t.slice sl).tlb = tlbFill (s.slice sl).tlb (tlbOf w.ctx region off e)) ∧
     (∀ (sl k : Nat) (f : PFault) (v : Bool), (s.slice sl).faults[k]? = some f → f.answered = none → sl < 192 → s.serves (sl / 48) = true →
       (vget [] s.mail (sl / 48)).any (SvcMsg.faultOf sl f) = true →
       ∃ t, exec (.pageFaultMessage sl k v) s = .next t ∧ t.mem = s.mem ∧
         (t.slice sl).faults[k]? = some { f with answered := some v } ∧
         vget [] t.mail (sl / 48) = (vget [] s.mail (sl / 48)).eraseP (SvcMsg.faultOf sl f)) ∧
     (∀ (sl k : Nat) (f : PFault), (s.slice sl).faults[k]? = some f →
       (f.answered = some true ∨ (f.answered = some false ∧ (s.holds? f.ctx = false ∨ s.evicted f.ctx = true ∨ f.stale = true)) →
         ∃ t, exec (.faultReply sl k) s = .next t ∧ t.mem = s.mem ∧ (t.slice sl).faults = (s.slice sl).faults.eraseIdx k ∧
           t.contexts = s.contexts) ∧
       (f.answered = some false → s.live f.ctx → s.holds? f.ctx = true → s.evicted f.ctx = false → f.stale = false →
         ∃ t, exec (.faultReply sl k) s = .next t ∧ t.died f.ctx cPAGE)) ∧
     (∀ (x : Ctx) (e : EccAt), s.live x → ∃ t, exec (.uncorrectableError x e) s = .next t ∧ t.died x cECC) ∧
     (∀ (x : Ctx) (code : BitVec 8) (d : W64), s.live x →
       code.toNat ∈ [0x07, 0x08, 0x09, 0x0B, 0x0D, 0x10, 0x11, 0x12, 0x14] →
       ∃ t, exec (.contextFatal x code d) s = .next t ∧ t.died x code.toNat)) ∧
  (∀ (s : State) (sl : Nat) (x : Ctx) (region : BitVec 8) (off e : Nat),
     let line := vaOf region off / 128
     let pa := ptePa e off / 128 * 128
     let set := (s.slice sl).lines.filter fun m => decide (l2Set m.line = l2Set line)
     (∀ l, ((s.slice sl).lines.find? fun l => decide (l.ctx = x) && decide (l.line = line)) = some l →
       (s.useLine sl x region off e).2 = l ∧ (s.useLine sl x region off e).1.mem = s.mem) ∧
     ((∀ l ∈ (s.slice sl).lines, l.ctx = x → l.line ≠ line) → set.length < 16 →
       let l := (s.useLine sl x region off e).2
       l.ctx = x ∧ l.line = line ∧ l.pa = pa ∧ l.dirty = false ∧ l.data.length = 128 ∧
       (∀ i < 128, l.data[i]? = some (memGet s.mem (pa + i))) ∧ (s.useLine sl x region off e).1.mem = s.mem))

/-- R54 to R71: the steps of a migration. At the old owner the copy's end turns the entry into a stub, lifts the hold and
completes the command; a stub relays requests and sends their replies back as REDIRECT, drains when old, and is gone after
the last acknowledgement. At the new owner the page is installed under a hold, and the notice fills its frame, lifts the
hold and makes the device its owner. At a requester REDIRECT completes an access, REDIRECT-ONLY and MISROUTE hold it, the
directory's answer names its owner, and it is sent again; a fourth MISROUTE ends the context. OWNER-UPDATE writes the
owner cache, and its acknowledgement leaves once nothing of the page is outstanding. -/
def Obligations.MigrationEvents : Prop :=
  ∀ (s : State),
    let owns (t : State) (x : Ctx) (page : Nat) (big : Bool) (owner : Nat) (gen : BitVec 32) : Prop :=
      (∀ o, s.ownerAt x big page = some o → genNewer o.gen gen = false) →
      ∃ o ∈ t.owners, o.ctx = x ∧ o.page = page ∧ o.big = big ∧ o.owner = owner ∧ o.gen = gen
    let mailed (die : Nat) (r : AccRef) : Prop := (vget [] s.mail die).any (SvcMsg.misrouteOf r) = true
    (∀ (k i a e : Nat) (m : Migr), s.migrations[k]? = some m → s.freeStub = some i →
      s.slotOf (s.trans m.ctx) (pageSz m.big) 1 (pageOff m.page) = some (a, e) →
      ∃ t, exec (.migrationCopyDone ⟨k, 0⟩) s = .next t ∧ t.migrations = s.migrations.eraseIdx k ∧
        t.out = s.out ++ [.copyDone m.newOwner m.ctx m.page i] ∧
        (∀ h ∈ t.holds, h.ctx = m.ctx → h.page = m.page → h.big ≠ m.big) ∧
        (t.stub i).st = 1 ∧ (t.stub i).ctx = m.ctx ∧ (t.stub i).big = m.big ∧ (t.stub i).gen = m.gen ∧
        (a + 8 ≤ s.stbase + 32 * i ∨ s.stbase + 32 * i + 32 ≤ a → memNat t.mem a 8 = stubEntry e i % 2 ^ 64) ∧
        (m.queue < s.queues.size → Event.mk0 5 m.hseq 0 ∈ (t.queue m.queue).events)) ∧
    (∀ (k : Nat) (dead : BitVec 8) (m : Migr), s.migrations[k]? = some m → dead ≠ 0 →
      ∃ t, exec (.migrationCopyDone ⟨k, dead⟩) s = .next t ∧ t.mem = s.mem ∧ t.out = s.out ∧
        t.migrations = s.migrations.eraseIdx k ∧ (∀ h ∈ t.holds, h.ctx = m.ctx → h.page = m.page → h.big ≠ m.big) ∧
        (m.queue < s.queues.size → Event.mk0 5 m.hseq dead.toNat ∈ (t.queue m.queue).events)) ∧
    (∀ (x : Ctx) (page : Nat) (big : Bool) (perms : Fin 16) (gen : BitVec 32) (old frame : Nat), s.holds? x = true →
      2 ^ 26 ≤ frame * 2 ^ 16 →
      s.stubOf x (pageOff page) = none → s.mapStatus x 1 (pageOff page) (installEntry big perms frame) = 0 →
      ∃ t, exec (.migrationInstall x page big perms gen old frame) s = .next t ∧ ⟨x, page, big⟩ ∈ t.holds ∧
        t.installs = s.installs ++ [⟨x, page, big, gen⟩]) ∧
    (∀ (o : Owned) (data : List Byte),
      (s.installs.find? fun i => decide (i.ctx = o.ctx) && decide (i.page = o.page) && i.big = o.big) = some o →
      ∃ t, exec (.migrationNotice o.ctx o.page ⟨o.big, data⟩) s = .next t ∧ o ∈ t.owned ∧ owns t o.ctx o.page o.big s.dev o.gen ∧
        (∀ a e, s.slotOf (s.trans o.ctx) (pageSz o.big) 1 (pageOff o.page) = some (a, e) →
          t.mem = memWrite s.mem (pteFrame e * 2 ^ 16) (data.take (2 ^ pageShift (pageSz o.big)))) ∧
        (∀ h ∈ t.holds, h.ctx = o.ctx → h.page = o.page → h.big ≠ o.big) ∧
        ∀ i ∈ t.installs, i.ctx = o.ctx → i.page = o.page → i.big ≠ o.big) ∧
    (∀ (r : PeerReq) (a : Ask) (u : State) (i : Nat), r.region = 1 → s.askOf (.peer r) = some a →
      s.slicePass (.acc (.peer r)) a = .stub u i → (s.stub i).on = true →
      (r.pref = true → ∃ t, exec (.stubRequest r) s = .next t ∧ t.mem = s.mem ∧ t.relays = s.relays ∧
        t.out = s.out ++ [.reply (backDev r) r.core r.id [] false 0 r.ctx r.ord]) ∧
      (r.pref = false → r.fc ≤ 1 → ∃ t o, exec (.stubRequest r) s = .next t ∧ t.relays = s.relays ++ [⟨i, r⟩] ∧
        t.out = s.out ++ o ++ [.request (s.stub i).owner { r with fc := r.fc + 1, ord := true, path := s.dev :: r.path }]) ∧
      (r.pref = false → 2 ≤ r.fc → ∃ t, exec (.stubRequest r) s = .next t ∧ t.relays = s.relays ∧ t.mem = s.mem ∧
        t.out = s.out ++ [.redirectOnly (backDev r) r.core r.id (s.stub i).ctx (s.stub i).page (s.stub i).big (s.stub i).owner
          (s.stub i).gen])) ∧
    (∀ (k : Nat) (y : Relay) (data : List Byte) (tag : Bool) (v : Nat), s.relays[k]? = some y →
      let b := s.stub y.stub
      let to' := backDev y.req
      let rest := s.relays.eraseIdx k
      (to' ≠ s.dev →
        (∃ t, exec (.stubReply k data tag v none) s = .next t ∧ t.relays = rest ∧
          t.out = s.out ++ [.redirect to' y.req.core y.req.id data tag v b.ctx b.page b.big b.owner b.gen]) ∧
        (∀ o g, ∃ t, exec (.stubReply k data tag v (some (o, g, true))) s = .next t ∧ t.relays = rest ∧
          t.out = s.out ++ [.redirectOnly to' y.req.core y.req.id b.ctx b.page b.big o g])) ∧
      (to' = s.dev →
        (s.books (refOf y.req) = true → exec (.stubReply k data tag v none) s =
          exec (.redirect (refOf y.req) data tag v b.owner b.gen b.big) { s with relays := rest }) ∧
        (s.books (refOf y.req) = false → exec (.stubReply k data tag v none) s = .next s))) ∧
    (∀ (i : Nat), (s.stub i).st = 1 → s.stubMin ≤ s.tick.toNat - (s.stub i).tcre →
      let n := s.q * (sharerGroups (s.stub i).sharers).length
      ∃ t, exec (.reclamationScan i) s = .next t ∧
        (0 < n → n < 2 ^ 16 → (t.stub i).st = 2 ∧ (t.stub i).acks = n) ∧ (n = 0 → (t.stub i).st = 0)) ∧
    (∀ (i : Nat), (s.stub i).st = 2 →
      (1 < (s.stub i).acks → ∃ t, exec (.ownerAck i) s = .next t ∧ t.stub i = { s.stub i with acks := (s.stub i).acks - 1 }) ∧
      ((s.stub i).acks = 1 → ∃ t, exec (.ownerAck i) s = .next t ∧ (t.stub i).st = 0)) ∧
    (∀ (i sent : Nat), (s.stubSent.find? fun p => p.1 = i) = some (i, sent) → (s.stub i).st = 2 →
      sent + 2 ^ 24 ≤ s.tick.toNat →
      ∃ t e, exec (.stubDrainTimeout i) s = .next t ∧ (t.queue 0).events = (s.queue 0).events ++ [e] ∧ e.kind = 8 ∧
        ∀ p ∈ t.stubSent, p.1 ≠ i) ∧
    (∀ (c id i : Nat) (a : Ctx × Nat × Nat), s.outside (.pend c id i) = some a → s.isPref (.pend c id i) = false →
      (s.books (.pend c id i) = true → ∀ (data : List Byte) (tag : Bool) (owner : Nat) (gen : BitVec 32) (big : Bool),
        (∃ t, exec (.redirect (.pend c id i) data tag 0 owner gen big) s = .next t ∧
          owns t a.1 (pageOf big a.2.1) big owner gen ∧ t.hasPart c id i fun q => q.st = .done ∧ q.data = data) ∧
        (s.live a.1 → ∀ v code, (v, code) ∈ [(1, cREFUSED), (2, cPAGE), (3, cLINK)] →
          ∃ t, exec (.redirect (.pend c id i) data tag v owner gen big) s = .next t ∧ t.died a.1 code)) ∧
      (s.books (.pend c id i) = true → ∀ (owner : Nat) (gen : BitVec 32) (big : Bool),
        ∃ t, exec (.redirectOnly (.pend c id i) owner gen big) s = .next t ∧
          owns t a.1 (pageOf big a.2.1) big owner gen ∧ t.hasPart c id i fun q => q.st = .redirected) ∧
      (s.triesOf (.pend c id i) < 3 → ∃ t, exec (.misroute (.pend c id i)) s = .next t ∧
        (t.hasPart c id i fun q => q.st = .misrouted ∧ q.tries = s.triesOf (.pend c id i) + 1) ∧
        (dieOf c < s.mail.size → .misroute (.pend c id i) a.1 a.2.1 ∈ vget [] t.mail (dieOf c))) ∧
      (3 ≤ s.triesOf (.pend c id i) → s.live a.1 →
        ∃ t, exec (.misroute (.pend c id i)) s = .next t ∧ t.died a.1 cMIGRATELOST)) ∧
    (∀ (c idx : Nat) (a : Ctx × Nat × Nat), s.outside (.jrn c idx) = some a →
      (s.books (.jrn c idx) = true → ∀ (data : List Byte) (tag : Bool) (owner : Nat) (gen : BitVec 32) (big : Bool),
        ∃ t, exec (.redirect (.jrn c idx) data tag 0 owner gen big) s = .next t ∧
          owns t a.1 (pageOf big a.2.1) big owner gen ∧ ∀ e ∈ (t.core c).jrn, e.idx ≠ idx) ∧
      (s.books (.jrn c idx) = true → ∀ (owner : Nat) (gen : BitVec 32) (big : Bool),
        ∃ t, exec (.redirectOnly (.jrn c idx) owner gen big) s = .next t ∧
          owns t a.1 (pageOf big a.2.1) big owner gen ∧ ∀ e ∈ (t.core c).jrn, e.idx = idx → e.st = .redirected) ∧
      (s.triesOf (.jrn c idx) < 3 → ∃ t, exec (.misroute (.jrn c idx)) s = .next t ∧
        ∀ e ∈ (t.core c).jrn, e.idx = idx → e.st = .misrouted)) ∧
    (∀ (r : AccRef) (data : List Byte) (tag : Bool) (v owner : Nat) (gen : BitVec 32) (big : Bool), s.books r = false →
      exec (.redirect r data tag v owner gen big) s = .next s ∧ exec (.redirectOnly r owner gen big) s = .next s) ∧
    (∀ (c id i : Nat) (a : Ctx × Nat × Nat), s.awayOf (.pend c id i) .misrouted .misrouted = some a →
      s.serves (dieOf c) = true → mailed (dieOf c) (.pend c id i) →
      (∀ (o : Nat) (g : BitVec 32) (big : Bool), ∃ t, exec (.directoryAnswer (.pend c id i) (some (o, g, big))) s = .next t ∧
        owns t a.1 (pageOf big a.2.1) big o g ∧
        t.hasPart c id i fun q => q.st = .queued ∨ q.st = .remote ∨ q.st = .redirected) ∧
      (s.live a.1 → ∃ t, exec (.directoryAnswer (.pend c id i) none) s = .next t ∧ t.died a.1 cMIGRATELOST)) ∧
    (∀ (c i : Nat) (p : Pend) (q : Part), (∀ r ∈ (s.core c).pend, r.id = p.id → r = p) → p ∈ (s.core c).pend →
      p.parts[i]? = some q → q.st = .redirected → p.region = 1 →
      let big := s.pageBig p.ctx q.off
      let q' : Part := { q with dev := match s.ownerEntry p.ctx q.off with
        | some o => o.owner
        | none => q.dev }
      s.quiet p.ctx (pageOf big q.off) big q.dev = true → s.earlierRedirect (.pend c p.id i) p.ctx q.off = false →
      (q'.dev = s.dev ∨ s.pathFree c p.ctx p.region q'.dev q.off = true) →
      (s.egressRaw p.ctx q.off q'.dev).isSome = true →
      ∃ t, exec (.redirectOnlyReissue (.pend c p.id i)) s = .next t ∧
        (q'.dev = s.dev → t.hasPart c p.id i fun r => r.st = .queued) ∧
        (q'.dev ≠ s.dev → (t.hasPart c p.id i fun r => r.st = .remote) ∧
          t.out = s.out ++ [.request q'.dev (partReq s c p i q')])) ∧
    (∀ (x : Ctx) (page owner : Nat) (big : Bool) (gen : BitVec 32) (dev idx : Nat),
      ∃ t, exec (.ownerUpdate x page big owner gen dev idx) s = .next t ∧ t.mem = s.mem ∧
        t.acksDue = s.acksDue ++ [⟨x, page, big, dev, idx⟩] ∧ (owner ≠ s.dev → owns t x page big owner gen)) ∧
    (∀ (k : Nat) (a : AckDue), s.acksDue[k]? = some a → s.quiet a.ctx a.page a.big a.stubDev = true →
      (a.stubDev ≠ s.dev → ∃ t, exec (.ownerAckSend k) s = .next t ∧ t.mem = s.mem ∧ t.acksDue = s.acksDue.eraseIdx k ∧
        t.out = s.out ++ [.ownerAck a.stubDev a.ctx a.stubIdx]) ∧
      (a.stubDev = s.dev →
        exec (.ownerAckSend k) s = exec (.ownerAck a.stubIdx) { s with acksDue := s.acksDue.eraseIdx k }))

/-- R51, R59, R73 to R91, R109, R435, R469: links train, count replays and go down, which ends the contexts with a packet
on them and reports the port; a message enters the router with HC 0, a packet leaves with HC + 1, and one for another
device is queued at the port of its way; the bridge carries out accesses of host memory and answers them; FABCFG sets DEV
as EN rises and keeps EN as the rule says; and the registers that firmware writes take their fields. -/
def Obligations.FabricEvents : Prop :=
  ∀ (s : State),
    let does (i : Instr) (p : State → Prop) : Prop := ∃ t, exec i s = .next t ∧ t.mem = s.mem ∧ p t
    let entry (p : Packet) : Nat := s.routeOf (p.im.getD p.dst)
    let goes (p : Packet) : Prop := entry p % 2 = 1 ∧ p.hc < hopsOf p.cls ∧ s.portOn (s.wayOf p) = true
    let queued (p : Packet) : Nat × Packet := (s.spread p.cls (s.wayOf p), { p with sent := 0 })
    (∀ p : Packet, p.hc ≠ 0 ∨ p.cls ≠ .ordered → s.wayOf p = entry p / 2 % 64) ∧
    (∀ (p : Packet) (d : Nat) (r : PeerReq), p.hc = 0 → p.cls = .ordered → p.body = some (.request d r) →
      s.wayOf p = r.port.getD (entry p / 2 % 64)) ∧
    (∀ p far : Nat,
      let both : Prop := (s.portOn p = true ∨ p = 37) ∧ (p < 38 ∨ far = dport s.doubling (p - 38))
      (both → does (.linkTrained ⟨p, far⟩) fun t => t.port p = { Port.down with up := true }) ∧
      (¬both → exec (.linkTrained ⟨p, far⟩) s = .next s)) ∧
    (∀ p : Nat, (s.port p).up = true →
      does (.flitCrcFail p) fun t => t.port p = { s.port p with replays := (s.port p).replays + 1 }) ∧
    (∀ (p : Nat) (inbound : List Ctx), (s.port p).up = true → 9 ≤ (s.port p).replays →
      ∃ t, exec (.linkDown ⟨p, inbound⟩) s = .next t ∧ (t.port p).up = false ∧ (∀ k ∈ t.packets, k.1 ≠ p) ∧
        (∃ e, (t.queue 0).events.getLast? = some e ∧ e.kind = 8) ∧
        ∀ x, s.live x → (x ∈ inbound ∨ (∃ k ∈ s.packets, k.1 = p ∧ k.2.ctx = x) ∨ (∃ f, (s.port p).fly = some f ∧ f.ctx = x)) →
          t.died x cLINK) ∧
    (∀ (k : Nat) (m : OutMsg), s.out[k]? = some m → (wireHead m).1 ≠ s.dev →
      (∀ o ∈ s.out.take k, (wireHead o).1 = (wireHead m).1 → (wireHead o).2.2 ≠ (wireHead m).2.2) →
      let p : Packet := { cls := (wireHead m).2.2, src := s.dev, dst := (wireHead m).1, hc := 0
                          im := if (wireHead m).2.2 = .adaptive then s.adaptivePath s.dev (wireHead m).1 else none
                          ctx := (wireHead m).2.1, flits := flitsOf m, body := some m }
      goes p → does (.packetHop (.own k)) fun t =>
        t.out = s.out.eraseIdx k ∧ t.packets = s.packets ++ [queued p]) ∧
    (∀ (k port : Nat) (p : Packet), s.packets[k]? = some (port, p) → s.mayLeave k port p = true →
      does (.packetHop (.queued k)) fun t =>
        t.packets = (if p.sent + 1 < p.flits then s.packets.set k (port, { p with sent := p.sent + 1 })
          else s.packets.eraseIdx k) ∧
        (t.port port).fly = some { p with hc := p.hc + 1, sent := 0 } ∧ (t.port port).replays = 0) ∧
    (∀ p : Packet, p.dst ≠ s.dev → p.im ≠ some s.dev → goes p →
      does (.packetHop (.arrives p)) fun t => t.packets = s.packets ++ [queued p]) ∧
    (∀ p : Packet, p.dst ≠ s.dev → p.im = some s.dev →
      exec (.packetHop (.arrives p)) s = exec (.packetHop (.arrives { p with im := none })) s) ∧
    (∀ (p : Packet) (r : PeerReq) (pa : Nat), p.dst = s.dev → p.body = some (.hostReq s.dev r pa) →
      let old := hostRead s.host pa r.n
      let back (bs : List Byte) (v : Nat) : List OutMsg := s.out ++ [.reply (backDev r) r.core r.id bs false v r.ctx r.ord]
      ((s.port 37).up = false → does (.packetHop (.arrives p)) fun t => t.host = s.host ∧ t.out = back [] 3) ∧
      ((s.port 37).up = true →
        (r.kind = .load → does (.packetHop (.arrives p)) fun t => t.host = s.host ∧ t.out = back old 0) ∧
        (∀ bs tag, r.kind = .store bs tag →
          (Config.hostRefuses pa = true → does (.packetHop (.arrives p)) fun t => t.host = s.host ∧ t.out = back [] 1) ∧
          (Config.hostRefuses pa = false →
            does (.packetHop (.arrives p)) fun t => t.host = hostMask s.host pa bs ∧ t.out = back [] 0)))) ∧
    (∀ v : W64,
      let q := [5, 9, 13, 17, 25].getD (v.toNat % 8) 0
      let x := v.toNat / 2 ^ 4 % 2 ^ 5
      let y := v.toNat / 2 ^ 9 % 2 ^ 5
      let new := v &&& 0x3FF7FFF
      let held : Prop := ∃ p ∈ s.contexts, s.holds? p.1 = true
      (s.fabcfg.getLsbD 14 = false → v.getLsbD 14 = true →
        (x < q → y < q → does (.fabcfgWrite v) fun t => t.fabcfg = new ∧ t.dev = v.toNat / 2 ^ 3 % 2 * (q * q) + x * q + y) ∧
        (q ≤ x ∨ q ≤ y → does (.fabcfgWrite v) fun t => t.fabcfg = new &&& ~~~0x4000 ∧ t.dev = s.dev ∧
          ∃ e, (t.queue 0).events = (s.queue 0).events ++ [e] ∧ e.kind = 8)) ∧
      (s.fabcfg.getLsbD 14 = true → v.getLsbD 14 = false → held →
        does (.fabcfgWrite v) fun t => t.fabcfg = new ||| 0x4000 ∧ t.dev = s.dev) ∧
      (s.fabcfg.getLsbD 14 = v.getLsbD 14 ∨ (v.getLsbD 14 = false ∧ ¬held) →
        does (.fabcfgWrite v) fun t => t.fabcfg = new ∧ t.dev = s.dev)) ∧
    (∀ v : Nat,
      (does (.registerWrite .migcfg v) fun t => t.migcfg = BitVec.ofNat 64 (v % 2 ^ 5 + v / 2 ^ 19 % 2 ^ 29 * 2 ^ 19)) ∧
      (does (.registerWrite .doubling v) fun t => t.doubling = BitVec.ofNat 64 (v % 2 ^ 60) ∧
        ∀ i < 10, dport s.doubling i ≠ dport t.doubling i → (t.port (38 + i)).up = false) ∧
      (∀ d < 2048, does (.registerWrite (.route d) v) fun t => t.routeOf d = v % 2 ^ 55) ∧
      (∀ cl, does (.registerWrite (.budTarget cl) v) fun t => (t.cluster cl).budNext = v % 256 ∧
        (t.cluster cl).retreq = decide (v / 2 ^ 8 % 2 = 1)) ∧
      (∀ d < 4, does (.registerWrite (.bellx d) v) fun t => (t.exch d).bellx = v % 32) ∧
      exec (.registerWrite .dev v) s = .next s ∧
      (∀ set way : Nat, set < 1024 → way < 8 →
        (does (.registerWrite (.ownerCache set way) v) fun t => t.ownerRead set way = (ownerImage set way v).image) ∧
        exec (.registerWrite (.readOwner set way) v) s = .next { s with
          fwRead := [BitVec.ofNat 64 (s.ownerRead set way), BitVec.ofNat 64 (s.ownerRead set way / 2 ^ 64)] }) ∧
      ∀ cl < 192, exec (.registerWrite (.readCluster cl) v) s = .next { s with fwRead := [s.clusterRegs cl] })

/-! ### Events of the engines and porters (R117 to R155, R321 to R343) -/

/-- R117, R118, R127, R132, R140, R144 to R149, R277: a porter whose rows have come, or have been performed at their
destination, advances its ring; one that waits for an access holds. A granted copy job starts, reads its next packet where
no other may issue first, performs it at its destination, where its range-slot counts fall, stages those of a landing
handler, and leaves when all are performed, when its rings advance; one whose bytes lie outside the allocation ends its
context with BUFFER. The bytes are stated for endpoints in the core's own buffers and jobs without a bytebar. -/
def Obligations.CopyEvents : Prop :=
  ∀ (s : State) (c : Nat),
    let k := s.core c
    let moved (t : State) (n : Nat) : Prop := ((t.core c).ring n).wp = (k.ring n).advance.wp ∧
      ((t.core c).ring n).cnt = (k.ring n).advance.cnt ∧ ((t.core c).ring n).seq = (k.ring n).seq + 1
    (∀ (n : Nat) (r : Ring) (st : Stream) (i : Nat), s.porterTurn c n false = some (r, st, i) →
      (∀ u, s.slotOut c r st = some u → exec (.farSideInAdvance c n r.wp) s = .next u) ∧
      (∀ v, s.slotOut c r st = none → s.readRows c n r st i ((List.range st.sh.tile1).drop st.row) = .ok v () →
        ∃ t, exec (.farSideInAdvance c n r.wp) s = .next t ∧ moved t n ∧
          (t.core c).buf r.bufNo = (v.core c).buf r.bufNo) ∧
      (∀ v, s.slotOut c r st = none → s.readRows c n r st i ((List.range st.sh.tile1).drop st.row) = .wait v →
        exec (.farSideInAdvance c n r.wp) s = .next v)) ∧
    (∀ (n : Nat) (r : Ring) (st : Stream) (i : Nat), s.porterTurn c n true = some (r, st, i) →
      let slot := if st.data.isEmpty then memRead (k.buf r.bufNo) (r.slotAt r.wp) st.sh.tileBytes else st.data
      let u := s.modStream c n fun t => { t with data := slot }
      (∀ v, s.slotOut c r st = some v → exec (.farSideOutAdvance c n) s = .next v) ∧
      (∀ v, s.slotOut c r st = none → u.writeRows c n st slot ((st.rows i).drop st.row) = .ok v () →
        ∃ t, exec (.farSideOutAdvance c n) s = .next t ∧ moved t n ∧ t.mem = v.mem) ∧
      (∀ v, s.slotOut c r st = none → u.writeRows c n st slot ((st.rows i).drop st.row) = .wait v →
        exec (.farSideOutAdvance c n) s = .next v)) ∧
    (∀ (j : CopyJob), k.job j.tid = some j →
      let same (t : State) (p : CopyJob → Prop) : Prop := ∃ o ∈ (t.core c).copies, o.tid = j.tid ∧ p o
      (k.startable j = true → s.stopped c j.ctx = false →
        (s.granted c (.copy j.tid) = true →
          ∃ t, exec (.copyJobStart c j.tid) s = .next t ∧ t.mem = s.mem ∧ same t fun o => o.started = true) ∧
        (s.granted c (.copy j.tid) = false → ∃ t, exec (.copyJobStart c j.tid) s = .next t ∧ t.mem = s.mem ∧ t.me = s.me ∧
          ∃ r ∈ (t.cluster (clusterOf c)).reqs, r.pos = posOf c ∧ r.unit = .copy j.tid ∧ r.cls = .copy)) ∧
      (∀ b o, s.mayIssue c j = true → k.inFlight < 32 →
        (∀ x ∈ k.copies, (s.mayIssue c x || (s.copyStartable c x && s.granted c (.copy x.tid))) = true → x.before j = false) →
        j.src.at s c j.ctx (256 * j.issued) = .own b o → k.bufOk j.ctx b o (j.size j.issued) = true →
        ∃ t, exec (.copyPacketIssue c j.tid j.issued) s = .next t ∧ t.mem = s.mem ∧ same t fun x =>
          x.issued = j.issued + 1 ∧ ⟨j.issued, .flight, memRead (k.buf b) o (j.size j.issued)⟩ ∈ x.packets) ∧
      (∀ (p : Pk), (j.packets.find? fun q => q.k = p.k) = some p → p.data ≠ [] →
        s.blocked (.packet c j.tid p.k) = false →
        let bare : Prop := p.st = .put ∨ (p.st = .flight ∧ j.xf = false)
        (∀ b o, bare → j.byt.toNat % 2 = 0 → j.dst.at s c j.ctx (256 * p.k) = .own b o → b < 4 → b ≠ 2 →
          let low := (j.withSeams p.k p.data).1
          let all := (j.withSeams p.k p.data).2
          (k.bufOk j.ctx b (o - low) all.length = true →
            ∃ t, exec (.copyPacketPerformed c j.tid p.k) s = .next t ∧ t.mem = s.mem ∧
              (t.core c).buf b = memMask (k.buf b) (o - low) (all.map some)) ∧
          (k.bufOk j.ctx b (o - low) all.length = false → s.live j.ctx →
            ∃ t, exec (.copyPacketPerformed c j.tid p.k) s = .next t ∧ t.died j.ctx cBUFFER)) ∧
        (∀ u, bare → s.writeDest c j p.k p.data = .ok u () →
          ∃ t, exec (.copyPacketPerformed c j.tid p.k) s = .next t ∧ t.mem = u.mem ∧
            ∀ o ∈ (t.core c).copies, o.tid = j.tid → (∀ q ∈ o.packets, q.k = p.k → q.st = .performed) ∧
              ∀ g ∈ o.tags, g.1 ≠ p.k) ∧
        (p.st = .flight → j.xf = true →
          ∃ (t : State) (w : Waiting), exec (.landingStage c j.tid p.k) s = .next t ∧ t.mem = s.mem ∧
            (t.core c).waiting = k.waiting ++ [w] ∧ w.kind = .landing j.tid p.k ∧ w.payload = p.data ∧ w.entry = j.hnde ∧
            w.args = [BitVec.ofNat 64 (j.destOff p.k), BitVec.ofNat 64 (256 * p.k), BitVec.ofNat 64 (j.size p.k)] ∧
            w.prio = if j.hpri = 0 then j.fr.pri else j.hpri)) ∧
      (j.started = true → j.len ≤ 256 * j.counted →
        ∃ t, exec (.copyJobComplete c j.tid) s = .next t ∧ t.mem = s.mem ∧ (∀ o ∈ (t.core c).copies, o.tid ≠ j.tid) ∧
          ((t.core c).cx j.ctx).seqcDone = (k.cx j.ctx).seqcDone + 1 ∧
          ∀ n < 16, (j.rings.filter fun p => p.1 = n).length = 1 → moved t n))

/-- R196, R321 to R324, R330 to R338, R346, R508: the matrix engine starts its best job under a reservation of that job's
class, asks for one that it lacks, and gives up one of another class; a slab or row commits its cells or bytes and moves
the cursor; at the decision point that follows, a cancelled job ends and one that a job of a higher level outranks stops;
a row with a handler takes a staging row; rows of operand A arrive; and a finished job leaves, counted in DONE of SEQM.
The rows and the end are stated for jobs without a bytebar. -/
def Obligations.MatrixEvents : Prop :=
  ∀ (s : State) (c : Nat),
    let k := s.core c
    let does (i : Instr) (p : State → Prop) : Prop := ∃ t, exec i s = .next t ∧ t.mem = s.mem ∧ p t
    let asks (t : State) (cls : RClass) : Prop :=
      ∃ r ∈ (t.cluster (clusterOf c)).reqs, r.pos = posOf c ∧ r.unit = .matrix ∧ r.cls = cls
    (k.mrun = none →
      (s.mBest c = none → does (.matrixJobStart c) fun t => (t.core c).mrun = none ∧
        ∀ r ∈ (t.cluster (clusterOf c)).reqs, r.pos = posOf c → r.unit ≠ .matrix) ∧
      (∀ (j : MJob), s.mBest c = some j →
        (s.mResv c = none → does (.matrixJobStart c) fun t => asks t j.op.cls) ∧
        (∀ v, s.mResv c = some v → v.ending = true ∨ v.down.isSome = true →
          does (.matrixJobStart c) fun t => asks t j.op.cls) ∧
        (∀ v, s.mResv c = some v → v.ending = false → v.down = none →
          (v.cls = j.op.cls → does (.matrixJobStart c) fun t => (t.core c).mrun = some j.tid ∧
            ∀ o ∈ (t.core c).mjobs, o.tid = j.tid → o.act = true) ∧
          (v.cls ≠ j.op.cls → does (.matrixJobStart c) fun t => asks t j.op.cls ∧
            ∀ r ∈ (t.cluster (clusterOf c)).resv, r.pos = posOf c → r.unit = .matrix → r.down = none → r.ending = true)))) ∧
    (∀ (j : MJob), k.running? = some j → (∀ o ∈ k.mjobs, o.tid = j.tid → o = j) →
      let here (t : State) : Prop := ∃ o ∈ (t.core c).mjobs, o.tid = j.tid ∧ o.cur = j.cur + 1
      let moved (t : State) : Prop :=
        (j.cancel = false ∨ j.op.steps ≤ j.cur + 1 → here t) ∧
        (j.cur + 1 < j.op.steps → j.cancel = true → (∀ o ∈ (t.core c).mjobs, o.tid ≠ j.tid) ∧ (t.core c).mrun = none) ∧
        (j.cur + 1 < j.op.steps → (∃ o ∈ k.mjobs, s.mStartable c o = true ∧ j.fr.lvl < o.fr.lvl) → (t.core c).mrun = none)
      (j.stages k = true → j.cancel = false → (∀ o, s.mBest c = some o → o.tid ≠ j.tid) →
        does (.matrixJobStart c) fun t => (t.core c).mrun = none ∧ (t.core c).mjobs = k.mjobs) ∧
      (∀ o, k.trBad j.tid j.ctx = some o → j.cur < j.op.steps → s.live j.ctx →
        ∃ t, exec (.matrixRowCommit c) s = .next t ∧ t.died j.ctx cBUFFER) ∧
      (k.trBad j.tid j.ctx = none → j.cur < j.op.steps → j.waits = false →
        ((∃ a b d e f g h m n, j.op = .pass a b d e f g h m n) ∨ (∃ a b d e f g h, j.op = .passr a b d e f g h)) →
        does (.matrixSlabCommit c) fun t => moved t ∧ (t.core c).bufC = (k.setTile j.tile (j.slab k).1).bufC) ∧
      (∀ (src : Nat) (i64 : Bool) (ab ao bb bo : Nat), j.op = .scale src i64 ab ao bb bo → j.cur < 64 →
        k.trBad j.tid j.ctx = none →
        let old := k.tileVals j.tile
        let row := (List.range 64).map fun n => (scaleCell i64 ((k.tileVals src).getD (64 * j.cur + n) 0)
          (old.getD (64 * j.cur + n) 0) (memNat (k.buf ab) (ao + 4 * j.cur) 4) (memNat (k.buf bb) (bo + 4 * n) 4)).1
        does (.matrixRowCommit c) fun t => moved t ∧ (t.core c).bufA = k.bufA ∧ (t.core c).bufS = k.bufS ∧
          (t.core c).bufC = (k.setTile j.tile (old.take (64 * j.cur) ++ row ++ old.drop (64 * (j.cur + 1)))).bufC) ∧
      (∀ (ty : Ty) (mode : CellMode) (ef : Bool) (hp row0 rows buf off tile : Nat), j.cur < rows → buf = 1 ∨ buf = 3 →
        let row := drainRow ty mode ef (((k.tileVals j.tile).drop (64 * (row0 + j.cur))).take 64)
        (j.op = .drain ty mode ef false hp row0 rows buf off tile → j.byt.toNat % 2 = 0 → k.trBad j.tid j.ctx = none →
          does (.matrixRowCommit c) fun t => moved t ∧ (t.core c).bufC = k.bufC ∧
            (t.core c).buf buf = memWrite (k.buf buf) (off + j.cur * row.1.length) row.1) ∧
        (j.op = .drain ty mode ef true hp row0 rows buf off tile → k.stagedRows < 4 →
          does (.rowStage c j.tid) fun t => moved t ∧ ∃ w : Waiting, (t.core c).waiting = k.waiting ++ [w] ∧
            w.kind = .row j.tid (row0 + j.cur) ∧ w.payload = row.1 ∧ w.entry = j.hnde ∧
            w.prio = if hp = 0 then j.fr.pri else hp)) ∧
      (j.op.steps ≤ j.cur → j.rowsDone = true → j.byt.toNat % 2 = 0 → (j.op.steps = 0 → k.trBad j.tid j.ctx = none) →
        does (.matrixJobComplete c) fun t => (∀ o ∈ (t.core c).mjobs, o.tid ≠ j.tid) ∧
          ((t.core c).cx j.ctx).seqmDone = (k.cx j.ctx).seqmDone + 1 ∧ (t.core c).mrun = none ∧
          (t.core c).bufC = (j.whole k).1.bufC ∧ (t.core c).bufW = (j.whole k).1.bufW ∧
          (t.core c).bufA = (j.whole k).1.bufA)) ∧
    (∀ (j : MJob) (a : EngAcc) (n : Nat), k.mjob j.tid = some j → j.fetch c = some a → j.nextLine = some n → k.unblocked j.tid = true → k.oldest j = true →
      s.stopped c j.ctx = false → s.blocked (.operand c j.tid) = false →
      (∀ u bs, s.placeGet a = .ok u bs → ∃ t, exec (.mpassrFetchArrival c j.tid n) s = .next t ∧
        ∃ o ∈ (t.core c).mjobs, o.tid = j.tid ∧ o.adata = j.adata ++ [(n, bs)]) ∧
      (∀ u, s.placeGet a = .wait u → exec (.mpassrFetchArrival c j.tid n) s = .next u))

/-! ### Messages where they arrive (R353, R361 to R370, R405, R431) -/

/-- R354, R361 to R365, R368, R370, R405: a release or decrement lowers the count of a parked launch, or a creation waits
at the Exchange; a barrier record or timeline is written at its home slice; a watch that is not met waits there; bytes are
counted into a bytebar; and the crier answers. -/
def Obligations.MessageEvents : Prop :=
  ∀ (s : State),
    (∀ (x : ChitRef) (f : Flying) (u : State), s.takeChit x (fun k => k = .release || k = .depDecr) = some (f, u) →
      u.holds? f.c.ctx = true →
      let d := u.ticketDie f.c.ctx f.c.off
      d < 4 → (u.exch d).laneLate u.tick.toNat f.c.lane.val = false →
      ((u.exch d).parkedAt f.c.ctx f.c.off = none → (u.exch d).lost f.c.ctx f.c.off = true → u.mayDecr d = true →
        ∃ t, exec (.releaseChit x) s = .next t ∧ t.mem = s.mem ∧ (t.exch d).input = (u.exch d).input ∧
          (t.exch d).gone = ((u.exch d).loseOne f.c.ctx f.c.off).gone) ∧
      ((u.exch d).parkedAt f.c.ctx f.c.off = none → (u.exch d).lost f.c.ctx f.c.off = false →
        ∃ t, exec (.releaseChit x) s = .next t ∧ t.mem = s.mem ∧
          ∃ m : Creation, (t.exch d).input = (u.exch d).input ++ [m] ∧ m.ctx = f.c.ctx ∧ m.tkt = f.c.off ∧ m.kind = .release) ∧
      (∀ l, (u.exch d).parkedAt f.c.ctx f.c.off = some l → u.mayDecr d = true → 2 ≤ l.count → (u.exch d).launchRec l.id = some l →
        ∃ t, exec (.releaseChit x) s = .next t ∧ t.mem = s.mem ∧ (t.exch d).input = (u.exch d).input ∧
          (t.exch d).launchRec l.id = some { l with count := l.count - 1 })) ∧
    (∀ (d k : Nat) (x : Ctx) (tkt : Nat), d < 4 → (s.exch d).decrs[k]? = some (x, tkt) →
      (s.exch d).parkedAt x tkt = none → (s.exch d).lost x tkt = false →
      ∃ t, exec (.depDecr d k) s = .next t ∧ t.mem = s.mem ∧ (t.exch d).decrs = (s.exch d).decrs.eraseIdx k ∧
        (t.exch d).input = (s.exch d).input ++ [⟨x, tkt, .release, d, false, none, false⟩]) ∧
    (∀ (d k : Nat) (l : LaunchRec), d < 4 → (s.exch d).decrs[k]? = some (l.ctx, l.tkt) → s.mayDecr d = true →
      (s.exch d).parkedAt l.ctx l.tkt = some l → (s.exch d).launchRec l.id = some l → 2 ≤ l.count →
      ∃ t, exec (.depDecr d k) s = .next t ∧ t.mem = s.mem ∧ (t.exch d).decrs = (s.exch d).decrs.eraseIdx k ∧
        (t.exch d).launchRec l.id = some { l with count := l.count - 1 }) ∧
    (∀ (k e sl : Nat) (f : Flying) (u : State) (a : Ask), s.chits[k]? = some f → chitFirst s.chits k = true →
      s.holds? f.c.ctx = true → pteKind e = 0 → paExists (ptePa e f.c.off) = true → a.x = f.c.ctx → a.region = f.c.region →
      a.off = f.c.off →
      let wrote (i : Instr) (bs : List Byte) : Prop :=
        ∃ t, exec i s = .next t ∧ u.wroteLine t sl f.c.ctx f.c.region f.c.off e (bs.map some)
      (f.c.kind = .barInit → a.n = 16 → s.objPass f [(f.c.off, 16)] = .inl (.ok u [(a, sl, e)]) →
        wrote (.barArrive (.sent k)) (natBytes 16 f.c.arg.toNat)) ∧
      (f.c.kind = .tlSet → a.n = 8 → s.objPass f [(f.c.off, 8)] = .inl (.ok u [(a, sl, e)]) →
        wrote (.tlUpdate (.sent k)) (natBytes 8 f.c.arg.toNat)) ∧
      (f.c.kind = .tlAdd → a.n = 8 → s.objPass f [(f.c.off, 8)] = .inl (.ok u [(a, sl, e)]) →
        let v := leNat (sliceBytes (u.useLine sl f.c.ctx f.c.region f.c.off e).2.data (f.c.off % 128) 8)
        wrote (.tlUpdate (.sent k)) (natBytes 8 (v + f.c.arg.toNat))) ∧
      (f.c.kind = .barArrive → (s.entryFor f.c.ctx f.c.region f.c.off).isSome = true →
        let h := s.peekNat f.c.ctx f.c.region f.c.off 16
        let cnt := h % 2 ^ 32
        let arr := h / 2 ^ 32 % 2 ^ 32
        let gen := h / 2 ^ 64 % 2 ^ 32
        let lost := h / 2 ^ 96
        (cnt = 0 ∨ cnt ≤ arr → s.objPass f [(f.c.off, 32)] = .inl (.ok u [(a, sl, e)]) →
          wrote (.barArrive (.sent k))
            (natBytes 16 (cnt + arr * 2 ^ 32 + gen * 2 ^ 64 + min (lost + 1) (2 ^ 32 - 1) * 2 ^ 96))) ∧
        (∀ b : Ask, arr + 1 < cnt → cnt ≤ 12 → f.c.off % 128 + 32 + 8 * cnt ≤ 128 → f.c.off % 128 % 32 = 0 →
          s.objPass f (recordLines f.c.off cnt) = .inl (.ok u [(a, sl, e), (b, sl, e)]) →
          b.x = f.c.ctx → b.region = f.c.region → b.off = f.c.off + 32 →
          (u.useLine sl f.c.ctx f.c.region f.c.off e).2.data.length = 128 →
          ∃ t, exec (.barArrive (.sent k)) s = .next t ∧
            ∃ l ∈ (t.slice sl).lines, l.ctx = f.c.ctx ∧ l.line = vaOf f.c.region f.c.off / 128 ∧ l.dirty = true ∧
              leNat (sliceBytes l.data (f.c.off % 128) 16) =
                cnt + (arr + 1) * 2 ^ 32 + gen * 2 ^ 64 + lost * 2 ^ 96 ∧
              leNat (sliceBytes l.data (f.c.off % 128 + 32 + 8 * arr) 8) = f.c.arg.toNat % 2 ^ 64))) ∧
    (∀ (k e sl : Nat) (w : Watch) (u : State) (a : Ask), s.watchMsgs[k]? = some w → s.holds? w.ctx = true →
      s.objPass (w.fly s) [(w.off, 8)] = .inl (.ok u [(a, sl, e)]) → a.x = w.ctx → a.region = w.region → a.off = w.off → a.n = 8 →
      sl = s.home w.ctx w.region w.off → pteKind e = 0 → paExists (ptePa e w.off) = true →
      let v : W64 := BitVec.ofNat 64 (leNat (sliceBytes (u.useLine sl w.ctx w.region w.off e).2.data (w.off % 128) 8))
      ∃ t, exec (.watchArrival (.sent k)) s = .next t ∧ t.watchMsgs = s.watchMsgs.eraseIdx k ∧
        (watchMet v w.threshold = false → (s.slice sl).watches.length < 256 →
          (t.slice sl).watches = (s.slice sl).watches ++ [w]) ∧
        (watchMet v w.threshold = false → 256 ≤ (s.slice sl).watches.length →
          (t.slice sl).watches = (s.slice sl).watches ∧ (t.slice sl).extraWatches = (s.slice sl).extraWatches ++ [w]) ∧
        (watchMet v w.threshold = true → (t.slice sl).watches = (s.slice sl).watches ∧
          (w.nxt ≠ 0 → w.dev = s.dev → ∃ f ∈ t.chits, f.c.kind = .release ∧ f.c.ctx = w.ctx ∧ f.c.off = w.nxt.toNat))) ∧
    (∀ (k : Nat) (f : Flying), s.chits[k]? = some f → chitFirst s.chits k = true → f.c.kind = .byteArrive →
      s.holds? f.c.ctx = true →
      let c := winCore f.c.off
      let o := winOff f.c.off
      let v := memNat (s.core c).bufS o 16
      let arr := v / 2 ^ 40 % 2 ^ 40
      c < 768 → s.retained (clusterOf c) = false → s.flipped c f.c.ctx = false →
      (s.core c).winOk f.c.ctx f.fr.sys 3 o 16 = true →
      ∃ t, exec (.byteArrive (.sent k)) s = .next t ∧ t.mem = s.mem ∧
        (∀ q, q < o ∨ o + 16 ≤ q → memGet (t.core c).bufS q = memGet (s.core c).bufS q) ∧
        memNat (t.core c).bufS o 16 = v - arr * 2 ^ 40 + (arr + f.c.arg.toNat % 2 ^ 40) % 2 ^ 40 * 2 ^ 40) ∧
    (∀ (k : Nat) (m : AskMsg), s.asks[k]? = some m → askFirst s.asks k = true → s.holds? m.ctx = true →
      let cr := vget Crier.zero s.criers m.die
      ∃ (t : State) (b : AskBack), exec (.askArrival k) s = .next t ∧ t.mem = s.mem ∧ t.asks = s.asks.eraseIdx k ∧
        t.askBacks = s.askBacks ++ [b] ∧ b.core = m.core ∧ b.dst = m.dst ∧ b.nxt = m.nxt ∧ b.ctx = m.ctx ∧
        (∀ h p, cr.chan m.ch = some h → h.ctx = m.ctx → h.pos = some p → b.coord = coordWord p) ∧
        (∀ h, cr.chan m.ch = some h → h.ctx ≠ m.ctx ∨ h.pos = none → b.coord = BitVec.allOnes 64) ∧
        (cr.chan m.ch = none → b.coord = BitVec.allOnes 64)) ∧
    (∀ (k : Nat) (b : AskBack), s.askBacks[k]? = some b → backFirst s.askBacks k = true → s.holds? b.ctx = true →
      s.retained (clusterOf b.core) = false → s.flipped b.core b.ctx = false →
      ∃ t, exec (.askReply k) s = .next t ∧ t.mem = s.mem ∧ t.askBacks = s.askBacks.eraseIdx k ∧
        (t.core b.core).bufS = memWrite (s.core b.core).bufS b.dst (natBytes 8 b.coord.toNat)) ∧
    (∀ (c : Nat) (w : Window) (dev : Bool) (n : Nat) (desc : BitVec 256), s.topOf c = some w → (s.core c).crinitWin = some w →
      w.park = some (.crinit dev n desc 0) → c < 768 →
      let die := if dev then 0 else dieOf c
      (∀ cr, (vget Crier.zero s.criers die).take w.fr.ctx n desc = some cr →
        ∃ t, exec (.crinitArrival c) s = .next t ∧ t.mem = s.mem ∧ vget Crier.zero t.criers die = cr ∧
          t.topOf c = some { w with park := some (.crinit dev n desc 1) }) ∧
      ((vget Crier.zero s.criers die).take w.fr.ctx n desc = none →
        ∃ t, exec (.crinitArrival c) s = .next t ∧ t.mem = s.mem ∧ t.criers = s.criers ∧
          t.topOf c = some { w with park := some (.crinit dev n desc 2) })) ∧
    (∀ (c : Nat) (w : Window) (dev : Bool) (n : Nat) (desc : BitVec 256), s.topOf c = some w →
      w.park = some (.crinit dev n desc 1) →
      ∃ t, exec (.crierAnswer c) s = .next t ∧ t.mem = s.mem ∧ t.topOf c = some { w with park := none, fresh := false, pc := w.pc + 12 })

/-! ### Events of the Exchange (R356, R403 to R445) -/

/-- R356, R358, R403, R405, R424, R425, R433 to R443: what an Exchange does with creations, ready instances and walks. A
creation that fits becomes a launch of FANSZ instances with its predecessor count and its footprint's edges; one that does
not fit waits, and each tick of its wait is counted in STALL; an instance whose count reached zero enters its queue in
step 4 of a later tick; dispatch, the bell, walks, bounces and barrow entries move an instance from queue to core; and the
news of an END at another device counts for its launch (the form of that news is the model's: log 16). -/
def Obligations.ExchangeEvents : Prop :=
  ∀ (s : State) (d : Nat), d < 4 →
    let e := s.exch d
    let does (i : Instr) (p : State → Prop) : Prop := ∃ t, exec i s = .next t ∧ t.mem = s.mem ∧ p t
    (∀ (c : Creation) (img : BitVec 512) (foot : List Range) (count anchor : Nat) (shape : Option (Nat × List Byte)),
      e.input = [c] → s.holds? c.ctx = true → c.kind = .image img foot count anchor shape →
      let n := s.fanSize (imgFan img.toNat)
      let deps := count + (e.edgesOf c.ctx foot).length
      (s.mayCreate d = true → e.fits c.ctx foot = true → does (.creation d) fun t =>
        (t.exch d).input = [] ∧ (t.exch d).launches = e.launches ++
          [⟨s.nextId, c.ctx, c.tkt, deps, foot, e.edgesOf c.ctx foot, n, if c.host then c.origin else none⟩] ∧
        (∀ r < n, ∃ i ∈ (t.exch d).insts, i.id = s.nextId + 1 + r ∧ i.launch = s.nextId ∧ i.rank = r ∧ i.fansz = n ∧
          i.image = img ∧ i.prio = imgPrio img.toNat ∧ i.st = .parked ∧ i.since = s.tick.toNat) ∧
        (0 < deps → (t.exch d).zeroQ = e.zeroQ) ∧
        (deps = 0 → (∀ i ∈ e.insts, i.launch < s.nextId) →
          (t.exch d).zeroQ = e.zeroQ ++ (List.range n).map (s.nextId + 1 + ·))) ∧
      (s.mayCreate d = true → e.fits c.ctx foot = false → does (.creation d) fun t =>
        (t.exch d).input = [c] ∧ (t.exch d).insts = e.insts ∧ (t.exch d).launches = e.launches) ∧
      (∀ m, e.fits c.ctx foot = false → ((s.passTicks m).exch d).stall = Nat.min (e.stall + m) (2 ^ 23 - 1)) ∧
      (∀ m, e.fits c.ctx foot = true → ((s.passTicks m).exch d).stall = e.stall)) ∧
    (∀ (id : Nat) (i : Inst), e.zeroQ = [id] → e.inst id = some i → i.since < s.tick.toNat → i.prio < 8 →
      (e.queue i.prio).length < 1024 → e.mayStep s.tick.toNat 4 1 = true →
      ((s.step4 d).exch d).queue i.prio = e.queue i.prio ++ [id] ∧ ((s.step4 d).exch d).zeroQ = []) ∧
    (∀ (c : Creation) (r : List Creation), e.input = c :: r → s.holds? c.ctx = true →
      let made (img : BitVec 512) (l : List Range) : Creation :=
        { c with
          ctx := imgCtx img.toNat
          kind := .image img l (if c.host then imgDeps img.toNat else imgDeps img.toNat - 1) (c.issuerDie * 192) none }
      (c.kind = .release → e.parkedAt c.ctx c.tkt = none → ∀ u bs, s.exchRead d c.ctx c.tkt 64 = .ok u bs →
        ∃ t, exec (.ticketReadDone d) s = .next t ∧
          (t.exch d).input.head? = some { c with kind := .ticket (BitVec.ofNat 512 (leNat bs)) }) ∧
      (∀ img : BitVec 512, c.kind = .ticket img →
        (∀ l, footReadable (imgFoot img.toNat) = false → s.imageCheck s.dev img.toNat (c.sys || c.host) c.ctx [] = .ok l →
          does (.ticketReadDone d) fun t => (t.exch d).input = made img l :: r) ∧
        (∀ u bs l, footReadable (imgFoot img.toNat) = true → (imgCtx img.toNat = c.ctx ∨ c.sys = true ∨ c.host = true) →
          s.holds? (imgCtx img.toNat) = true → s.exchRead d (imgCtx img.toNat) (imgFoot img.toNat) 128 = .ok u bs →
          u.imageCheck u.dev img.toNat (c.sys || c.host) c.ctx bs = .ok l →
          ∃ t, exec (.ticketReadDone d) s = .next t ∧ (t.exch d).input.head? = some (made img l)))) ∧
    (∀ (q : Nat) (i : Inst) (core : Nat),
      let u := s.step4 d
      (u.exch d).mayStep s.tick.toNat 6 1 = true → u.nextReady d = some (q, i) →
      imgAwn i.image.toNat = 0 → i.hint = some core → i.hdev = s.dev → does (.dispatch d) fun t =>
        (t.exch d).lastQ = some (q, s.tick.toNat) ∧
        t.walks = s.walks ++ [⟨i.id, d, dieOf core, 0, 0, rowOf core, colOf core, i.walkRadius, false, s.tick.toNat⟩] ∧
        (t.exch d).queue q = ((u.exch d).queue q).filter fun x => x != i.id) ∧
    (∀ (q : Nat) (i : Inst),
      let u := s.step4 d
      let e := u.exch d
      q < 6 → (∀ p < 6, p ≠ q → u.liveQueue d p = []) → vget false e.hi q = true →
      e.bell ≤ s.tick.toNat + 1 - vget 0 e.age q → ((e.queue q).filterMap e.inst).find? u.mayRise = some i →
      i.prio = q → (e.queue (q + 1)).length < 1024 → e.mayStep s.tick.toNat 5 1 = true → does (.bell d) fun t =>
        (t.exch d).queue (q + 1) = e.queue (q + 1) ++ [i.id] ∧ (t.exch d).queue q = (e.queue q).filter (fun x => x != i.id) ∧
        (t.exch d).inst i.id = some { i with prio := q + 1, st := .ready }) ∧
    (s.tick.toNat % 16 = 0 → does (.occupancyRefresh d) fun t =>
      ∀ cl < 48, tabGet 0 cl (t.exch d).occ = s.occupancy d cl) ∧
    (does (.exchangeStatusRead d) fun t => t.fwRead = [e.status] ∧ (t.exch d).stall = 0 ∧ (t.exch d).insts = e.insts ∧ (t.exch d).queues = e.queues) ∧
    (∀ (k : Nat) (w : MeshWalk) (i : Inst), s.walks[k]? = some w → (s.exch w.xdie).inst w.inst = some i →
      let queue (t : State) : List Nat := (t.exch w.xdie).queue i.prio
      (w.back = false → w.due ≤ s.tick.toNat → s.walkBefore k w = false → s.holds? i.ctx = true →
        (s.frozen i.ctx = false →
          (w.radius < w.dist → does (.walkHop k) fun t => t.walks = s.walks.set k w.hop) ∧
          (w.dist ≤ w.radius → s.retained (clusterOf w.core) = false → i.allows w.core = true →
            ((s.core w.core).wins = [] ∨ (s.core w.core).thr < i.prio) → (s.core w.core).canTake i = true →
            (s.core w.core).barrowRoom s.tick.toNat = true → does (.walkHop k) fun t =>
              t.walks = s.walks.eraseIdx k ∧
              (t.core w.core).barrow = barrowPut ⟨i.id, w.xdie, i.prio, s.tick.toNat⟩ (s.core w.core).barrow)) ∧
        (s.frozen i.ctx = true → does (.walkHop k) fun t =>
          t.walks = s.walks.eraseIdx k ++ [{ w with back := true, start := s.tick.toNat }])) ∧
      (w.back = true → w.start + w.row + w.col ≤ s.tick.toNat → i.prio < 8 → (queue s).length < 1024 →
        does (.bounceReturn k) fun t => t.walks = s.walks.eraseIdx k ∧ queue t = queue s ++ [w.inst])) ∧
    (∀ (c k : Nat) (b : BarrowEntry) (i : Inst), (s.core c).barrow[k]? = some b → (s.exch b.xdie).inst b.inst = some i →
      i.fixed = false → b.since + (s.exch b.xdie).bell ≤ s.tick.toNat → does (.barrowTimeout c k) fun t =>
        (t.core c).barrow = (s.core c).barrow.eraseIdx k ∧
        ∃ w : MeshWalk, t.walks = s.walks ++ [w] ∧ w.inst = i.id ∧ w.xdie = b.xdie ∧ w.back = true) ∧
    (∀ l : Launch,
      (l.ended = false → s.holds? l.ctx = false → does (.launchArrival l) fun t =>
        t.out = s.out ++ [.reply l.src l.core 0 [] false 1 l.ctx true] ∧ t.exchanges = s.exchanges) ∧
      (l.ended = false → s.holds? l.ctx = true → l.ready = false → s.ticketDie l.ctx l.tkt = d → does (.launchArrival l) fun t =>
        ∃ c : Creation, (t.exch d).input = e.input ++ [c] ∧ c.ctx = l.ctx ∧ c.tkt = l.tkt ∧
          c.kind = .image l.image (launchRanges l) (imgDeps l.image.toNat) l.core l.shape) ∧
      (l.ended = true → s.ticketDie l.ctx l.tkt = d → ∀ r : LaunchRec, e.launchRec l.launch = some r →
        (2 ≤ r.left → does (.launchArrival l) fun t =>
          (t.exch d).launchRec l.launch = some { r with left := r.left - 1 } ∧ (t.exch d).decrs = e.decrs) ∧
        (r.left ≤ 1 → does (.launchArrival l) fun t => (t.exch d).launchRec l.launch = none ∧
          (t.exch d).decrs = e.decrs ++ (e.launches.filter fun o => o.edges.contains l.launch).map fun o => (o.ctx, o.tkt))) ∧
      (l.ended = false → s.holds? l.ctx = true → l.ready = true → s.ticketDie l.ctx l.tkt = d →
        (∀ i ∈ e.insts, i.id < s.nextId) → does (.launchArrival l) fun t =>
        (t.exch d).zeroQ = e.zeroQ ++ [s.nextId] ∧
        ∃ i, (t.exch d).inst s.nextId = some i ∧ i.ctx = l.ctx ∧ i.tkt = l.tkt ∧ i.image.toNat = l.image.toNat ∧
          i.rank = l.rank ∧ i.fansz = l.fansz ∧ i.prio = l.prio ∧ i.hint = some l.core ∧ i.hdev = s.dev ∧ i.shape = l.shape ∧
          i.st = .parked ∧ i.since = s.tick.toNat ∧ i.home = some (l.src, l.launch)))

/-- R163, R406, R407, R418, R419: at an admission boundary the best candidate of a core is admitted: its window is on top
with the image's or handler's entry and arguments, THR is the effective priority, or the ceiling of the awning the image
names if that is higher, and PTHR saves the THR before. -/
def Obligations.AdmissionEvents : Prop :=
  ∀ (s : State) (c : Nat), s.boundary c = true →
    let k := s.core c
    let thr := if k.wins = [] then 0 else k.thr
    (∀ (b : BarrowEntry) (i : Inst), bestCand (s.candidates c) = some (.ticket b i) →
      let img := i.image.toNat
      (∀ o bs, i.shape = some (o, bs) → k.covers i.ctx 3 o 64 = true) →
      (imgAwn img ≠ 0 → ∃ a, k.awnIdx i.ctx (imgAwn img) = some a ∧ ((k.awn a).ceil = 7 → imgSys img = true)) →
      ∃ t w, exec (.admission c) s = .next t ∧ t.mem = s.mem ∧ t.topOf c = some w ∧
        (imgAwn img = 0 → (t.core c).thr = b.prio ∧ (t.core c).claims = k.claims) ∧
        (∀ a, imgAwn img ≠ 0 → k.awnIdx i.ctx (imgAwn img) = some a →
          (t.core c).claims = ⟨a, b.prio, w.wid⟩ :: k.claims ∧ (t.core c).thr = Nat.max b.prio (k.awn a).ceil ∧
          ((t.core c).awn a).held = true) ∧
        (t.core c).barrow = k.barrow.tail ∧
        w.adm = true ∧ w.callw = false ∧ w.pthr = thr ∧ w.pc = imgEntry img ∧ w.flg = 0 ∧ w.park = none ∧
        w.v = List.replicate (vwinCount (imgVwin img)) 0 ∧ w.p = 0 ∧ w.drg = 0 ∧ w.nxt = 0 ∧ w.byt = 0 ∧ w.hnde = 0 ∧
        (∀ n : Fin 4, w.rdS ⟨n.val, by omega⟩ = imgArg img n.val) ∧
        (∀ n : Fin 12, w.rdS ⟨n.val + 4, by omega⟩ = 0) ∧ (∀ n, w.rdK n = Key.zero) ∧
        w.fr.ctx = i.ctx ∧ w.fr.pri = imgPrio img ∧ w.fr.lvl = b.prio ∧ w.fr.tkt = BitVec.ofNat 64 i.tkt ∧
        w.fr.rank = BitVec.ofNat 32 i.rank ∧ w.fr.fansz = BitVec.ofNat 32 i.fansz ∧ w.fr.sys = imgSys img) ∧
    (∀ (n : Nat) (h : Waiting), bestCand (s.candidates c) = some (.handler n h) →
      ∃ t w, exec (.admission c) s = .next t ∧ t.mem = s.mem ∧ t.topOf c = some w ∧ (t.core c).thr = h.prio ∧
        (t.core c).waiting = k.waiting.eraseIdx n ∧ (t.core c).barrow = k.barrow ∧
        w.adm = true ∧ w.pthr = thr ∧ w.pc = h.entry ∧ w.fr.ctx = h.ctx ∧ w.fr.pri = h.prio ∧ w.fr.lvl = h.prio ∧
        w.fr.sys = false ∧ w.v.length = vwinCount h.vw ∧
        (∀ m : Fin 4, w.rdS ⟨m.val, by omega⟩ = h.args.getD m.val 0))

/-! ### Saving and restoring a context (R381 to R384, R462 to R465) -/

/-- R381 to R384, R462, R463, R465, R506: CTXSAVE, CTXLOAD and NISPILL check their operands and wait or act; a finished
save leaves the area and takes BYTES to its register; a finished load has put the area's buffers and registers in place;
the cut closes once every core has flipped. -/
def Obligations.ContextSaving : Prop :=
  (∀ (s : State) (w : Window) (h : Hdr) (d a b : SReg), Issues s w h false →
    let x : Ctx := (w.rdS a).truncate 16
    let area := (w.rdS b).toNat
    let parked (i : Instr) (p : Park) : Prop := ∃ t, exec i s = .next t ∧ t.top = some { w.begun with park := some p } ∧
      t.mem = s.mem ∧ (∀ c, c ≠ s.cur → t.core c = s.core c)
    (s.me.holds x = false →
      exec (.ctxsave h d a b) s = .next (s.took w ⟨cILLEGAL, 0, 0, 0⟩) ∧
      exec (.nispill h d a b) s = .next (s.took w ⟨cILLEGAL, 0, 0, 0⟩)) ∧
    (s.me.holds x = true → area % 64 ≠ 0 →
      exec (.ctxsave h d a b) s = .next (s.took w ⟨cALIGN, 0, 0, area⟩) ∧
      exec (.nispill h d a b) s = .next (s.took w ⟨cALIGN, 0, 0, area⟩)) ∧
    (area % 64 ≠ 0 → exec (.ctxload h a b) s = .next (s.took w ⟨cALIGN, 0, 0, area⟩)) ∧
    (area % 64 = 0 → parked (.ctxload h a b) (.ctxload x area)) ∧
    (s.me.holds x = true → area % 64 = 0 →
      parked (.ctxsave h d a b) (.ctxsave (some d) x area) ∧
      (∀ t, exec (.ctxsave h d a b) s = .next t → ∀ e ∈ t.me.jrn, e.ctx = x → e.st ≠ .opened) ∧
      ((∀ e ∈ s.evicts, e.ctx ≠ x) →
        let ms := (s.me.captured.filter fun p => p.1 = x).map Prod.snd
        let records := (ms.flatMap Msg.image).map some
        ∃ t, exec (.nispill h d a b) s = .next t ∧ t.mem = s.mem ∧
          t.top = some (w.begun.wrS d (BitVec.ofNat 64 ms.length)).advance ∧
          t.me.captured = s.me.captured.filter (fun p => p.1 != x) ∧
          match s.saves.find? fun p => decide (p.1 = area) || decide (p.1 + p.2.bytes = area) with
          | none => t.saves = s.saves ∧ t.sysMem = (s.sysStore area records).sysMem
          | some (o, y) =>
            let z : SaveArea := { y with msgs := y.msgs ++ ms }
            t.saves = tabPut o z s.saves ∧
            t.sysMem = ((s.sysStore (o + 8) (((z.head.drop 8).take 8).map some)).sysStore (o + y.size) records).sysMem))) ∧
  (∀ (s : State) (c : Nat) (w : Window) (x : Ctx) (area : Nat), s.topOf c = some w →
    (∀ d, w.park = some (.ctxsave (some d) x area) →
      (s.saveReady c x = false → exec (.ctxsaveDone c) s = .next s) ∧
      (s.saveReady c x = true →
        ∃ t v a, exec (.ctxsaveDone c) s = .next t ∧ t.mem = s.mem ∧ t.topOf c = some v ∧ v.wid = w.wid ∧ v.pc = w.pc + 12 ∧
          v.park = none ∧ t.saves = tabPut area a s.saves ∧ t.sysMem = (s.sysStore area (a.image.map some)).sysMem ∧
          a.ctx = x ∧ a.dev = s.dev ∧ a.core = c ∧ a.bal = (s.core c).bal x ∧ a.msgs = [] ∧
          v.rdS d = BitVec.ofNat 64 a.bytes ∧
          t.flipped c x = true ∧ (∀ j ∈ (t.core c).copies, j.ctx ≠ x) ∧ (∀ j ∈ (t.core c).mjobs, j.ctx ≠ x))) ∧
    (w.park = some (.ctxload x area) → (∀ e ∈ s.evicts, e.ctx ≠ x) →
      let woken : Out := .next (s.modTopOf c Window.wake)
      (s.areaAt x area = none → exec (.ctxloadDone c) s = woken) ∧
      (∀ a, s.areaAt x area = some a →
        let y := a.within ((s.core c).bal x)
        let room := a.refused.length ≤ (s.core c).freeIdx.length ∧ (s.core c).copies.length + a.copies.length ≤ 32 ∧
          (s.core c).trestleRoom (a.copies.length + a.mjobs.length) = true ∧ s.streams c + a.streams ≤ 32
        (a.bal = (s.core c).bal x → y = a) ∧
        (¬ room → exec (.ctxloadDone c) s = .next s) ∧
        (room → a.wins = [] → a.msgs = [] → (s.core c).spilled = [] → fitsResident 0 (s.core c).wins = true →
          ∃ t, exec (.ctxloadDone c) s = .next t ∧ t.mem = s.mem ∧ t.topOf c = some w.wake ∧
            (t.core c).bufW = memJoin (s.core c).bufW y.bufW ∧ (t.core c).bufA = memJoin (s.core c).bufA y.bufA ∧
            (t.core c).bufS = memJoin (s.core c).bufS y.bufS ∧
            (t.core c).cx x = { a.cx with colour := false, sentOld := 0, recvOld := 0 })))) ∧
  (∀ (s : State) (x : Ctx) (e : Evict), s.evicts.find? (fun e => decide (e.ctx = x) && !e.isRestore && !e.spilling) = some e →
    e.left = [] → (∀ m ∈ s.migrations, m.ctx ≠ x) → ∀ sent recv : Nat,
    (s.fabricOn = false → (s.cutCounts x).1 = (s.cutCounts x).2) →
    (s.fabricOn = true → (s.cutCounts x).1 + sent = (s.cutCounts x).2 + recv) →
    (e.cores ≠ [] → ∃ t, exec (.cutClose ⟨x, sent, recv⟩) s = .next t ∧ t.mem = s.mem ∧
      ∃ o ∈ t.evicts, o.ctx = x ∧ o.spilling = true ∧ o.left = o.cores) ∧
    (e.cores = [] → (∃ r, s.ctxRec x = some r) → ∃ t r, exec (.cutClose ⟨x, sent, recv⟩) s = .next t ∧
      t.ctxRec x = some r ∧ r.st = .evicted ∧ ∀ o ∈ t.evicts, o.ctx ≠ x))

/-! ### Power (R469 to R483, R508) -/

/-- R469 to R472, R481 to R483: the power controller's pass, writes of BUD and RETREQ, sensor reads, and a cluster's way
into retention and out of it; a parity failure at the exit ends the contexts that live there with RETENTION. R470, R472,
R474 to R476, R480: at a step boundary the written BUD acts, held within 32 to 128; a reservation whose requester goes on
advances by one step; and where something is granted, the commitments stay within BUD and the increase of the step within
12. -/
def Obligations.PowerAndArbiterEvents : Prop :=
  (∀ (s : State) (cl : Nat),
     let c := s.cluster cl
     let does (i : Instr) (p : State → Prop) : Prop := ∃ t, exec i s = .next t ∧ t.mem = s.mem ∧ t.cores = s.cores ∧
       (∀ o, o ≠ cl → t.cluster o = s.cluster o) ∧ p t
     (∀ v, does (.budWrite cl v) fun t => t.cluster cl = { c with budNext := v % 256 }) ∧
     (does (.sensorRead cl) fun t => t.fwRead = [s.mailbox cl] ∧
       t.cluster cl = { c with steps := 0, sumDraw := 0, peak := 0, gwait := 0, busy := 0 }) ∧
     (does (.retreqSet cl) fun t => t.cluster cl = { c with retreq := true }) ∧
     (does (.retreqClear cl) fun t => (t.cluster cl).retreq = false ∧
       (c.rst = .retained → (t.cluster cl).rst = .exiting ∧ (t.cluster cl).rstSince = s.tick.toNat) ∧
       (c.rst = .active → (t.cluster cl).rst = .active) ∧ (c.rst = .entering → (t.cluster cl).rst = .active)) ∧
     (c.retreq = true → c.rst = .active → c.resv = [] → (∀ p < 4, (s.core (coreAt cl p)).idle = true) →
       does (.retentionEntryStart cl) fun t => t.cluster cl = { c with rst := .entering, rstSince := s.tick.toNat }) ∧
     (c.rst = .entering → c.rstSince + 64 ≤ s.tick.toNat →
       does (.retentionEntryDone cl) fun t => t.cluster cl = { c with rst := .retained }) ∧
     (c.rst = .exiting → c.rstSince + 512 ≤ s.tick.toNat →
       exec (.retentionExitDone cl true) s = .next ((s.modCluster cl fun c => { c with rst := .active }).deliverAll cl) ∧
       ((∀ h ∈ s.held, h.1 ≠ cl) → does (.retentionExitDone cl true) fun t => t.cluster cl = { c with rst := .active }) ∧
       (∀ x, (∀ h ∈ s.held, h.1 ≠ cl) → s.residents cl = [x] → s.live x → ∃ t, exec (.retentionExitDone cl false) s = .next t ∧
         t.died x cRETENTION ∧ ∀ p < 4, (t.core (coreAt cl p)).wins = [])) ∧
     (∀ core, clusterOf core = cl → (s.core core).vidle + idleTicks core ≤ s.tick.toNat →
       does (.vectorIdleTimeout core) fun t => t.cluster cl = { c with resv := c.resv.map (Resv.endVector (posOf core)) }) ∧
     (∀ (targets : List (Nat × Nat)) (retain : List Nat),
       let sum := sumNat ((List.range 192).map (s.passTarget targets))
       (s.tick.toNat % 1050000 ≠ 0 ∨ Config.railLimit < sum → exec (.powerLoop targets retain) s = .next s) ∧
       (s.tick.toNat % 1050000 = 0 → sum ≤ Config.railLimit →
         ∃ t, exec (.powerLoop targets retain) s = .next t ∧ t.mem = s.mem ∧ t.cores = s.cores ∧
           t.fwRead = (List.range 192).map s.mailbox ∧
           ∀ o < 192, (t.cluster o).budNext = s.passTarget targets o ∧ (t.cluster o).bud = (s.cluster o).bud ∧
             (t.cluster o).steps = 0 ∧ (t.cluster o).peak = 0 ∧
             (t.cluster o).retreq = ((s.cluster o).retreq || (retain.contains o && o % 48 != 47))))) ∧
  (∀ (s : State) (cl : Nat),
     let c := s.cluster cl
     (boundaryAt cl s.tick.toNat = false ∨ c.last = s.tick.toNat + 1 → exec (.arbiterBoundary cl) s = .next s) ∧
     (boundaryAt cl s.tick.toNat = true → c.last ≠ s.tick.toNat + 1 →
       ∃ t, exec (.arbiterBoundary cl) s = .next t ∧ t.mem = s.mem ∧
         let d := t.cluster cl
         let new (r : Resv) : Bool := r.down.isNone && decide (r.age = 0)
         d.bud = actingBud c.budNext ∧ 32 ≤ d.bud ∧ d.bud ≤ 128 ∧ d.steps = c.steps + 1 ∧ d.last = s.tick.toNat + 1 ∧
         (∀ r ∈ c.resv, r.down = none → s.ended cl r = false → { r with prev := r.draw, age := r.age + 1 } ∈ d.resv) ∧
         (d.resv.any new = true →
           sumNat (d.resv.map Resv.commits) ≤ d.bud ∧ sumNat (d.resv.map Resv.rise) ≤ 12)))

/-! ### Host queues (R484 to R494) -/

/-- R484, R487, R488, R491, R492: a running queue accepts its next entry, which must carry the next HSEQ and a known
operation, or stops, and ignores an entry written before its last reset; an accepted ticket becomes a creation at the
Exchange of its home die, or is rejected; and an event is written whole, with the next ESEQ, once there is room. R489,
R490, R512: a command that its queue may not give ends with PERM, and changes nothing else. -/
def Obligations.QueueEvents : Prop :=
  (∀ (s : State) (n : Nat),
     let q := s.queue n
     (q.stale.contains ((q.lacc + 1) % 2 ^ q.ns) = true → exec (.submissionAccept n) s = .next s) ∧
     (q.st = .running → q.lacc < q.htail s → q.accAt ≠ s.tick.toNat + 1 → q.full s = false → s.bridgeUp s.dev = true →
       q.stale.contains ((q.lacc + 1) % 2 ^ q.ns) = false →
       let h := q.lacc + 1
       let a := q.subBase n + h % 2 ^ q.ns * 128
       let opc := s.arena (a + 8) 8
       let does (p : State → Prop) : Prop := ∃ t, exec (.submissionAccept n) s = .next t ∧ t.cores = s.cores ∧ p t
       (s.arena a 8 ≠ h → does fun t => t.mem = s.mem ∧ (t.queue n).st = .stopped ∧ (t.queue n).why = 1 ∧
         (t.queue n).lacc = q.lacc ∧ (t.queue n).events = q.events ++ [Event.mk0 6 h 0]) ∧
       (s.arena a 8 = h →
         (14 < opc → does fun t => t.mem = s.mem ∧ (t.queue n).st = .stopped ∧ (t.queue n).why = 2 ∧
           (t.queue n).lacc = q.lacc ∧ (t.queue n).events = q.events ++ [Event.mk0 7 h 0]) ∧
         (opc = 0 → s.arena (a + 24) 40 = 0 → does fun t => (t.queue n).st = .running ∧ (t.queue n).lacc = h ∧
           (t.queue n).cmds = q.cmds ∧
           (t.queue n).tickets = q.tickets ++ [(h, s.arena (a + 16) 8, BitVec.ofNat 512 (s.arena (a + 64) 64))]) ∧
         (0 < opc → opc ≤ 14 → does fun t => (t.queue n).st = .running ∧ (t.queue n).lacc = h ∧
           (t.queue n).tickets = q.tickets ∧
           (t.queue n).cmds = q.cmds ++ [⟨h, opc, BitVec.ofNat 384 (s.arena (a + 16) 48)⟩]))) ∧
     (∀ (h taddr : Nat) (img : BitVec 512) (r : List (Nat × Nat × BitVec 512)), q.tickets = (h, taddr, img) :: r →
       let code := s.ticketStatus n taddr img.toNat
       let d := s.ticketDie q.ctx taddr
       (code ≠ 0 → ∃ t e, exec (.ticketSubmission n) s = .next t ∧ t.mem = s.mem ∧ (t.queue n).tickets = r ∧
         (t.queue n).events = q.events ++ [e] ∧ e.kind = 2 ∧ e.h0 = h ∧ t.exchanges = s.exchanges) ∧
       (code = 0 → d < 4 → ∃ t, exec (.ticketSubmission n) s = .next t ∧ t.mem = s.mem ∧ (t.queue n).tickets = r ∧
         (t.queue n).events = q.events ∧
         (t.exch d).input = (s.exch d).input ++ [⟨q.ctx, taddr, .ticket img, 0, false, some (n, h), true⟩])) ∧
     (∀ (e : Event) (r : List Event), q.events = e :: r → q.st ≠ .absent → q.full s = false → s.bridgeUp s.dev = true →
       let k := q.eseq + 1
       ∃ t, exec (.eventWrite n) s = .next t ∧ t.cores = s.cores ∧ t.queue n = { q with eseq := k, events := r } ∧
         t.mem = memWrite (memWrite s.mem (q.evBase n + k % 2 ^ q.ne * 128) (e.image k)) (q.base + 16)
           { q with eseq := k, events := r }.header)) ∧
  (∀ (s : State) (n : Nat) (c : Cmd),
     let denied (i : Instr) (opc : Nat) : Prop := s.command n opc = some c →
       ∃ t, exec i s = .next t ∧ CmdEnds s t n c cPERM ∧ t = { s with queues := t.queues }
     (n ≠ 0 → denied (.ctxnew n) 1 ∧ denied (.evict n) 8 ∧ denied (.restore n) 9 ∧ (∀ p, denied (.migrate n p) 10) ∧
       denied (.qcreate n) 11 ∧ denied (.qreset n) 12 ∧ denied (.attest n) 13 ∧ denied (.lifecycle n) 14) ∧
     (n = 0 → denied (.mapPage n) 3 ∧ denied (.alloc n) 4 ∧ denied (.awning n) 5 ∧ denied (.faultvec n) 6 ∧
       denied (.keyput n) 7) ∧
     (s.ctxRec c.ctx = none → denied (.ctxkill n) 2))

/-- R30, R35, R36, R157, R169, R449, R456, R489, R490, R511, R512: the commands that create and end a context and give it
pages, allocations, awnings, a fault vector and keys. -/
def Obligations.ContextCommands : Prop :=
  ∀ (s : State) (n : Nat) (c : Cmd),
    let x := (s.queue n).ctx
    let named := n ≠ 0 ∧ s.nameStatus n x = 0
    let ends (i : Instr) (status : Nat) (p : State → Prop) : Prop := ∃ t, exec i s = .next t ∧ CmdEnds s t n c status ∧ p t
    (s.command n 1 = some c → n = 0 → ∀ o, c.block 80 = some o →
      let y : Ctx := BitVec.ofNat 16 (s.arena o 2)
      (s.live y → ends (.ctxnew n) cBUFFER fun t => t.contexts = s.contexts) ∧
      (s.ctxRec y = none → s.acceptsContexts = true → ends (.ctxnew n) 0 fun t => t.mem = s.mem ∧
        t.ctxRec y = some ⟨BitVec.ofNat 576 (transMask (s.arena (o + 8) 72)), 0, .live, 0, 1, Config.debuggerAttached y⟩)) ∧
    (s.command n 2 = some c → n = 0 → s.ctxRec c.ctx ≠ none → (s.holders c.ctx).all s.reachable? = false →
      exec (.ctxkill n) s = .next (s.wakeCores (s.holders c.ctx))) ∧
    (s.command n 2 = some c → n = 0 → (s.holders c.ctx).all s.reachable? = true →
      (s.live c.ctx → ∃ t, exec (.ctxkill n) s = .next t ∧ t.ctxRec c.ctx = none ∧
        (t.queue n).cmds = (s.queue n).cmds.tail) ∧
      (∀ r k, s.ctxRec c.ctx = some r → r.st = .dead k → k ≠ 0 → ends (.ctxkill n) 0 fun t => t.ctxRec c.ctx = none)) ∧
    (s.command n 3 = some c → named →
      let off := c.arg 0 8
      let region := c.arg 8 8
      let e := c.arg 16 8
      let r : BitVec 8 := BitVec.ofNat 8 region
      (pteV e = true → s.mapStatus x region off e ≠ 0 →
        ends (.mapPage n) (s.mapStatus x region off e) fun t => t.mem = s.mem) ∧
      (pteV e = true → s.mapStatus x region off e = 0 →
        (∀ a old, s.slotOf (s.trans x) (pteSz e) r off = some (a, old) → ends (.mapPage n) 0 fun t =>
          t.mem = memWrite s.mem a (natBytes 8 (withTag e (tagOf (s.trans x) (pteSz e) r off)))) ∧
        (∀ a, s.slotOf (s.trans x) (pteSz e) r off = none → s.freeSlot (s.trans x) (pteSz e) r off = some a →
          ends (.mapPage n) 0 fun t =>
            t.mem = memWrite s.mem a (natBytes 8 (withTag e (tagOf (s.trans x) (pteSz e) r off))))) ∧
      (pteV e = false → pteSz e ≠ 3 → region < 4 → off < 2 ^ 48 → off % 2 ^ pageShift (pteSz e) = 0 →
        ptnOk (s.trans x) = true → ∀ a old, s.slotOf (s.trans x) (pteSz e) r off = some (a, old) →
          ends (.mapPage n) 0 fun t => t.mem = memWrite s.mem a (natBytes 8 0))) ∧
    (s.command n 4 = some c → named →
      let core := c.arg 0 2
      let v := c.arg 16 16
      core < 768 → s.retained (clusterOf core) = false →
      (v = 0 → ends (.alloc n) 0 fun t => t.mem = s.mem ∧ (t.core core).bal x = none) ∧
      (v ≠ 0 → BitVec.ofNat 16 (bitsOf v 79 64) = x →
        ((s.core core).balFits (balOf v x) = true → ends (.alloc n) 0 fun t => t.mem = s.mem ∧
          (t.core core).bal x = some (balOf v x)) ∧
        ((s.core core).balFits (balOf v x) = false → ends (.alloc n) cBUFFER fun t => t.core core = s.core core))) ∧
    (s.command n 5 = some c → named →
      let core := c.arg 0 2
      let v := c.arg 8 8
      let id := bitsOf v 8 1
      core < 768 → s.retained (clusterOf core) = false → BitVec.ofNat 16 (bitsOf v 27 12) = x →
      (v % 2 = 1 → id ≠ 0 → s.awnHome x id = none → ∀ i, (∃ a, findAt (fun a : Awn => !a.v) (s.core core).awns.toList = some (i, a)) →
        ends (.awning n) 0 fun t => t.mem = s.mem ∧ (t.core core).awn i = ⟨true, id, bitsOf v 11 9, x, false⟩) ∧
      (v % 2 = 0 → ∀ i a, findAt (fun a : Awn => a.v && decide (a.id = id) && decide (a.ctx = x)) (s.core core).awns.toList =
          some (i, a) →
        (a.held = true → ends (.awning n) cCLAIM fun t => t.core core = s.core core) ∧
        (a.held = false → ends (.awning n) 0 fun t => (t.core core).awn i = Awn.zero))) ∧
    (s.command n 6 = some c → named → ∀ r, s.ctxRec x = some r → ends (.faultvec n) 0 fun t => t.mem = s.mem ∧
      t.ctxRec x = some { r with vec := BitVec.ofNat 64 (c.arg 0 8) &&& 0x0000FFFFFFFFFFFD }) ∧
    (s.command n 7 = some c → named →
      let off := c.arg 0 8
      let region := c.arg 8 8
      let r : BitVec 8 := BitVec.ofNat 8 region
      (1 < region → ends (.keyput n) cADDR fun t => t.mem = s.mem) ∧
      (region ≤ 1 → off % 16 ≠ 0 → ends (.keyput n) cALIGN fun t => t.mem = s.mem) ∧
      (region ≤ 1 → off % 16 = 0 → off < 2 ^ 48 →
        (s.entryFor x r off = none → ends (.keyput n) cPAGE fun t => t.mem = s.mem) ∧
        (∀ e, s.entryFor x r off = some e → pteKind e ≠ 0 → ends (.keyput n) cPAGE fun t => t.mem = s.mem) ∧
        (∀ e, s.entryFor x r off = some e → pteKind e = 0 → paExists (ptePa e off) = true →
          (region = 1 → ∃ o ∈ s.owned, o.ctx = x ∧ o.page = pageOf o.big off) →
          ends (.keyput n) 0 fun t =>
            s.wroteLine t (s.home x r off) x r off e ((natBytes 16 (c.arg 16 16)).map some))))

/-- R54 to R56, R462, R465, R484, R494, R499, R500, R506, R512: the commands of queue 0 that move a context or a page,
make and reset queues, and attest or change the lifecycle. -/
def Obligations.DeviceCommands : Prop :=
  ∀ (s : State) (c : Cmd),
    let ends (i : Instr) (status : Nat) (p : State → Prop) : Prop := ∃ t, exec i s = .next t ∧ CmdEnds s t 0 c status ∧ p t
    let x := c.ctx
    (s.command 0 8 = some c → s.live x → ∀ r, s.ctxRec x = some r →
      ∃ t, exec (.evict 0) s = .next t ∧ t.mem = s.mem ∧ t.ctxRec x = some { r with st := .frozen } ∧
        t.evicts = s.evicts ++ [⟨x, 0, c.hseq, c.arg 8 8, s.holders x, s.holders x, false, false⟩] ∧
        (t.queue 0).cmds = (s.queue 0).cmds.tail) ∧
    (s.command 0 9 = some c → ∀ o, c.block 24 = some o →
      let y : Ctx := BitVec.ofNat 16 (s.arena o 2)
      let base := s.arena (o + 8) 8
      let n := s.arena (o + 16) 2
      let cores := (List.range n).map fun i => s.arena (o + 24 + 2 * i) 2
      let areas := s.areasFrom y base 768 0
      let near := (cores.take areas.length).all fun k => decide (768 ≤ k) || s.reachable? k
      o + 24 + 2 * n ≤ arenaSize → s.live y → 0 < n → n ≤ 768 → areas.length ≤ n →
      (near = false → exec (.restore 0) s = .next (s.wakeCores ((cores.take areas.length).filter fun k => k < 768))) ∧
      (near = true →
      (∀ u, s.prepare (cores.zip areas) = some u → areas ≠ [] → ∃ t, exec (.restore 0) s = .next t ∧ t.mem = s.mem ∧
        t.cores = u.cores ∧ (t.queue 0).cmds = (s.queue 0).cmds.tail ∧
        t.evicts = s.evicts ++ [⟨y, 0, c.hseq, base, cores.take areas.length, cores.take areas.length, true, false⟩]) ∧
      (s.prepare (cores.zip areas) = none → ends (.restore 0) cBUFFER fun t => t.mem = s.mem ∧ t.cores = s.cores))) ∧
    (∀ peer, s.command 0 10 = some c →
      let v := c.arg 0 16
      let y : Ctx := BitVec.ofNat 16 (bitsOf v 15 0)
      let big := decide (bitsOf v 48 48 = 1)
      let page := if big then bitsOf v 47 16 / 32 * 32 else bitsOf v 47 16
      let new := bitsOf v 59 49
      ∀ o a e, s.live y → s.ownedOf y page big = some o →
        s.slotOf (s.trans y) (pageSz big) 1 (pageOff page) = some (a, e) →
        (new = s.dev → ends (.migrate 0 peer) cILLEGAL fun t => t.mem = s.mem ∧ t.out = s.out) ∧
        (new ≠ s.dev → s.fabricOn = true → new < 2 * s.q * s.q →
          (∀ m ∈ s.migrations, m.ctx ≠ y ∨ m.page ≠ page ∨ m.big ≠ big) → s.freeStub ≠ none →
          (peer ≠ 0 → ends (.migrate 0 peer) peer fun t => t.mem = s.mem ∧ t.out = s.out) ∧
          (peer = 0 → ∃ t, exec (.migrate 0 peer) s = .next t ∧ (t.queue 0).cmds = (s.queue 0).cmds.tail ∧
            t.holds = s.holds ++ [⟨y, page, big⟩] ∧
            t.migrations = s.migrations ++
              [⟨y, page, big, new, o.gen + 1, BitVec.ofNat 64 (bitsOf v 123 60), 0, c.hseq⟩] ∧
            t.out = s.out ++ [.install new y page big (bitsOf e 6 3) (o.gen + 1),
              .pageData new y page big (((s.take 0).setHold y page big).pageBytes y page big)]))) ∧
    (s.command 0 11 = some c →
      let m := c.arg 0 2
      let d := c.arg 8 8
      let ns := bitsOf d 3 0
      let ne := bitsOf d 7 4
      let y : Ctx := BitVec.ofNat 16 (bitsOf d 23 8)
      let base := c.arg 24 8
      let top := base + 256 + 128 * 2 ^ ns + 128 * 2 ^ ne
      s.live y → 0 < m → m < 16 → 4 ≤ ns → ns ≤ 12 → 4 ≤ ne → ne ≤ 12 →
      ((s.queue m).st ≠ .absent → ends (.qcreate 0) cBUFFER fun t => t.mem = s.mem ∧ t.queue m = s.queue m) ∧
      ((s.queue m).st = .absent → base % 256 = 0 → top ≤ arenaSize →
        (∀ i < 16, ∀ p ∈ (s.queue i).spans i, top ≤ p.1 ∨ p.2 ≤ base) →
        ends (.qcreate 0) 0 fun t => (t.queue m).st = .running ∧ (t.queue m).base = base ∧ (t.queue m).ns = ns ∧
          (t.queue m).ne = ne ∧ (t.queue m).ctx = y ∧ (t.queue m).eseq = 0 ∧
          ((t.queue m).lacc + 1) % 2 ^ 64 = c.arg 16 8 ∧ (t.queue m).lcmp = (t.queue m).lacc)) ∧
    (s.command 0 12 = some c → ∀ m, m = c.arg 0 2 → 0 < m → m < 16 →
      ((s.queue m).st = .absent → ends (.qreset 0) cBUFFER fun t => t.mem = s.mem ∧ t.cores = s.cores) ∧
      ((s.queue m).st ≠ .absent → ends (.qreset 0) 0 fun t => (t.queue m).st = .running ∧ (t.queue m).tickets = [] ∧
        (t.queue m).cmds = [] ∧ (t.queue m).done = [] ∧ (t.queue m).lcmp = (s.queue m).lacc ∧
        (∀ h, (s.queue m).lacc < h → h ≤ (s.queue m).htail s → h ≤ (s.queue m).lacc + 2 ^ (s.queue m).ns →
          h % 2 ^ (s.queue m).ns ∈ (t.queue m).stale) ∧
        ∃ e, (t.queue m).events = (s.queue m).events ++ [e] ∧ e.kind = 4)) ∧
    (s.command 0 13 = some c → ∀ o, c.block 72 = some o →
      let d := s.arena (o + 64) 8 % 2 ^ 26
      (s.life = 0 → ends (.attest 0) cPERM fun t => t.mem = s.mem) ∧
      (s.life ≠ 0 → d % 64 = 0 → d + 832 ≤ arenaSize → ends (.attest 0) 0 fun t =>
        t.mem = memWrite s.mem d (s.attestReport (memRead s.mem o 64)))) ∧
    (s.command 0 14 = some c → ∀ o, c.block 148 = some o →
      let l := s.arena o 1 % 4
      (lifeStep s.life l = true → Config.lifecycleVerify l (memRead s.mem (o + 16) 132) = true →
        exec (.lifecycle 0) s = .next ((s.fuse l).reboot l)) ∧
      (lifeStep s.life l = false → ends (.lifecycle 0) cPERM fun t => t.life = s.life ∧ t.mem = s.mem))

/-- R496 to R498, R501: MODULE_RESET completes from every state, in the module as its reset leaves it: wiped, with AM0 to
AM4 holding the boot measurements and AM5 to AM7 zero. Where the firmware bundle in boot flash meets the four conditions
of R497, queue 0 runs and its header stands in memory; where it does not, queue 0 is stopped. What of the outside and of
flash and fuses stays is the model's choice (log 56). -/
def Obligations.ModuleReset : Prop :=
  ∀ s : State, exec .moduleReset s = .next (s.reboot s.life) ∧ ∃ t, exec .moduleReset s = .next t ∧
    t.cores = [] ∧ t.slices = [] ∧ t.clusters = [] ∧ t.contexts = [] ∧ t.owners = [] ∧ t.fabcfg = 7 ∧ t.sysMem = [] ∧
    t.tick = 0 ∧ t.chits = [] ∧ t.evicts = [] ∧ t.saves = [] ∧ t.life = s.life ∧ t.dev = s.dev ∧ t.flash = s.flash ∧
    t.keyHash = s.keyHash ∧ t.rollback = s.rollback ∧
    (∀ i < 4, t.amVal i = extend 0 (s.digest i)) ∧ t.amVal 4 = extend 0 (Config.fuseDigest s.life) ∧
    (∀ i, 4 < i → i < 8 → t.amVal i = 0) ∧
    (∀ n, 0 < n → n < 16 → (t.queue n).st = .absent) ∧
    (s.bundleOk s.life = true → (t.queue 0).st = .running ∧ (t.queue 0).lacc = 0 ∧ (t.queue 0).lcmp = 0 ∧
      (t.queue 0).eseq = 0 ∧ (∀ a, memGet t.mem a = if a = 40 then 0x44 else 0)) ∧
    (s.bundleOk s.life = false → (t.queue 0).st = .stopped ∧ (t.queue 0).why = 0 ∧ t.mem = [])

/-! ### The machine as a whole (R160, R199 to R216, R225, R213) -/

/-- R25, R200, R212, R213, R406, R419, R453, R462: at a boundary an admission comes first, then a REFUSED trap of the
frame on top; then the running window's word is fetched at its PC from its home slices and decoded, and the step is the
instruction the word decodes to. A PC that is not a multiple of 4 takes ALIGN, one whose word leaves region 0x02 takes
ADDR, a word that does not decode takes ILLEGAL, and a privileged word in a frame that is not SYS takes PRIV. A fetch that
its slices cannot answer yet parks the frame, and in a service window the service runs (R380). A turn of a waiting frame
is the event that may end its wait, a turn of an event is that event, a core without a runnable frame, or with one of a
frozen context on top, does nothing, TIME advances with its own turns, and the host's writes are turns of their own. -/
def Obligations.StepRunsDecoded : Prop :=
  ∀ (s u : State), s.moves u →
    (u.boundary u.cur = false → u.beforeIssue = none) ∧
    (u.boundary u.cur = true → (∀ c, bestCand (u.candidates u.cur) = some c → u.beforeIssue = some (u.admitCand u.cur c)) ∧
      (bestCand (u.candidates u.cur) = none → u.beforeIssue = u.trapOf u.cur)) ∧
    (∀ t, u.beforeIssue = some t → step s = .next t) ∧
    (u.beforeIssue = none →
      (u.top = none → step s = .next u) ∧
      (∀ w : Window, u.top = some w → u.frozen w.fr.ctx = true → step s = .next u) ∧
      (∀ w : Window, u.top = some w → u.frozen w.fr.ctx = false →
        (∀ (p : Park) (i : Instr), w.park = some p → wakeEvent u.cur p = some i → step s = exec i u) ∧
        (∀ n : Nat, w.park = some (.service n) → step s = .next (u.runService w n)) ∧
        (w.park = none ∨ w.park = some .fetch ∧ u.blocked (.fetch u.cur w.wid) = false →
          let pc := w.pc.toNat
          (pc % 4 ≠ 0 → step s = .next (u.takeFault ⟨cALIGN, 4, 2, pc⟩)) ∧
          (pc % 4 = 0 → 2 ^ 48 < pc + 12 → step s = .next (u.takeFault ⟨cADDR, 4, 2, pc⟩)) ∧
          (pc % 4 = 0 → pc + 12 ≤ 2 ^ 48 → u.holds? w.fr.ctx = false → u.live w.fr.ctx →
            ∃ t, step s = .next t ∧ t.died w.fr.ctx cREFUSED) ∧
          (pc % 4 = 0 → pc + 12 ≤ 2 ^ 48 → u.holds? w.fr.ctx = true →
            let ask := fetchAsk u w
            ask.region = 2 ∧ ask.off = pc ∧ ask.n = 12 ∧ ask.x = w.fr.ctx ∧ ask.kind = .fetch ∧
            (∀ v, u.engRead (.fetch u.cur w.wid) ask = .wait v → step s = .next (v.parkFetch w.wid)) ∧
            (∀ pa, u.engRead (.fetch u.cur w.wid) ask = .bad pa → step s = .fault (.noSuchAddress pa)) ∧
            ∀ v bs, u.engRead (.fetch u.cur w.wid) ask = .ok v bs →
              (∀ i, decode w.sys w.vn (ofBytes bs) = .ok i → step s = exec i v) ∧
              (decode w.sys w.vn (ofBytes bs) = .error .illegal → step s = .next (v.takeFault (FaultInfo.plain cILLEGAL 0))) ∧
              (decode w.sys w.vn (ofBytes bs) = .error .priv → step s = .next (v.takeFault (FaultInfo.plain cPRIV 0))))))) ∧
    (∀ (i : Instr) (r : List Turn), step { s with agenda := .event i :: r } = exec i { s with agenda := r }) ∧
    (∀ (n : Nat) (r : List Turn), step { s with agenda := .ticks n :: r } = .next ({ s with agenda := r }.passTicks n) ∧
      ∀ v : State, v.passTicks n = { v with tick := v.tick + BitVec.ofNat 64 n, exchanges := (v.passTicks n).exchanges }) ∧
    (∀ (o : Nat) (bs : List Byte) (r : List Turn),
      step { s with agenda := .arena o bs :: r } = .next ({ s with agenda := r }.arenaWrite o bs)) ∧
    (∀ (o : Nat) (bs : List Byte) (r : List Turn),
      step { s with agenda := .hostMem o bs :: r } = .next ({ s with agenda := r }.hostWrite o bs))

/-- R199 to R205, R227, R290, R314: words written out from the encodings decode to the instructions that they stand for. -/
def Obligations.DecodeWords : Prop :=
  let h : Hdr := ⟨false, 0, false, 0, false, false, false⟩
  let reads (w : Nat) (i : Instr) : Prop := decode false 16 w = .ok i
  reads 0xB808_0000_0000_0400_005B_FFFB (.add { h with sw := true, g := 3, gn := true } ⟨.w64, .wrap, 1, 2, .imm 0x3FFFB⟩) ∧
  reads 0x0100_0000_0000_1091_A2BE_789A (.movi h 4 (.long 0x123456789A)) ∧
  reads 0x1110_000C_A000_0800_0078_0064 (.cmp { h with g := 1 } .w32 .ltu 2 3 (.imm 100)) ∧
  reads 0x0198_0000_0000_2800_001B_FFFF (.loop h 10 (.short 0x3FFFF)) ∧
  reads 0x0200_0008_0000_1180_0078_0FFC (.ld h ⟨.i32, false, 4, .k 3, .imm 0xFFC⟩) ∧
  reads 0x0408_001C_8000_1880_0040_0000 (.vred h 1 .f32 .add false 6 2) ∧
  reads 0x0588_0264_6143_E6A0_2014_0000 (.mpass h ⟨.mk8, .mk8, .imm 0x050F9, .bu 1 0x100, .bu 0 0⟩) ∧
  reads 0x05A8_0054_5440_030F_C000_0000 (.mdrain h .bf16 true false 0 (.bu 1 0x1000) (.imm 0x7E00)) ∧
  reads 0x0690_0000_0000_0000_0018_0001 (.claim h (.imm 1)) ∧
  reads 0x06A8_0A00_0000_0000_00D8_0000 (.bara h .device (.s 6) (.imm 0)) ∧
  reads 0x0740_0000_8000_0000_0018_0201 (.succ h (.byt (.imm (.short 0x201)))) ∧
  decode false 16 0x0720_0000_0000_0000_0000_0000 = .error .priv ∧
  decode true 16 0x0720_0000_0000_0000_0000_0000 = .ok (.eret h) ∧
  decode true 16 0 = .error .illegal

/-- R199 to R216: encoding and decoding agree: the word of a well-formed instruction has 96 bits and decodes to it, with
every operand at every value the encoding admits; a privileged one outside a SYS frame answers PRIV. -/
def Obligations.EncodeDecode : Prop :=
  ∀ (i : Instr) (n : Nat), i.wf = true → encode i = some n →
    n < 2 ^ 96 ∧ decode true 16 n = .ok i ∧
      decode false 16 n = (if i.privileged then .error .priv else .ok i)

/-- R203, R213, R216: what a word of 96 bits decodes to, in a window of any vector count, is well formed and has that word
as its encoding: no two words are one instruction, and no reserved encoding falls through to a neighbour. -/
def Obligations.DecodeEncode : Prop :=
  ∀ (sys : Bool) (vn w : Nat) (i : Instr), w < 2 ^ 96 → decode sys vn w = .ok i → i.wf = true ∧ encode i = some w

/-- Every step keeps memory in its canonical form: addresses strictly rising and no listed zero (the model's form of
memory; R28, R94). -/
def Obligations.MemoryStaysCanonical : Prop :=
  ∀ (s t : State), s.canonical → step s = .next t → t.canonical

/-- R79, R160, R435, R470, R475, R491, R496, R498: the module right after reset: nothing runs, TIME is 0 and memory holds
the header of queue 0, NS = NE = 4, and zeros; each cluster is active with BUD 64 and each Exchange's BELLX is 14; FABCFG
has QSEL 7; AM0 to AM3 hold the boot measurements; queue 0 runs with NS and NE 4 and every other queue is absent. A
register to which the spec gives no reset value reads 0 here: that is the model's choice (log 3). -/
def Obligations.ResetState : Prop :=
  let s := State.reset
  s.canonical ∧ s.tick = 0 ∧ s.agenda = [] ∧ s.top = none ∧ step s = .next s ∧
    (∀ c, s.core c = Core.zero ∧ (s.core c).thr = 0 ∧ (s.core c).wins = []) ∧
    (∀ c, (s.cluster c).bud = 64 ∧ (s.cluster c).rst = .active) ∧
    (∀ d : Fin 4, s.exchanges[d].bellx = 14 ∧ s.exchanges[d].insts = []) ∧
    (∀ x, s.ctxRec x = none) ∧
    (∀ a, memGet s.mem a = if a = 40 then 0x44 else 0) ∧ s.fabcfg = 7 ∧ (∀ i < 4, s.amVal i = extend 0 (s.digest i)) ∧
    (s.queue 0).st = .running ∧ (s.queue 0).ns = 4 ∧ (s.queue 0).ne = 4 ∧ (s.queue 0).cmds = [] ∧
    (∀ n, 0 < n → n < 16 → (s.queue n).st = .absent)
end

