-- ==== Sys2Proof/Laws/Areas.lean ====
section
/-! SUPPORT. Laws/Areas.lean: what stands at an offset of region 0xFF after a store, and CTXLOAD after CTXSAVE. -/

namespace Sys2Proof.Machine

open Sys2Proof

/-- What stands at an address after a host-style write. -/
theorem hostSet_find (m : Mem) (a : Nat) (b : Byte) (x : Nat) :
    (hostSet m a b).find? (fun c => decide (c.1 = x)) = if x = a then some (a, b) else m.find? fun c => decide (c.1 = x) := by
  induction m with
  | nil => by_cases h : x = a <;> simp [hostSet, h, eq_comm]
  | cons c r ih =>
    obtain ⟨y, v⟩ := c
    by_cases hx : x = a
    · subst hx
      simp only [hostSet]
      split
      · simp
      · split
        · simp
        · rename_i h1 h2
          simpa [List.find?_cons, Ne.symm h2] using ih
    · simp only [hostSet]
      split
      · simp [Ne.symm hx]
      · split
        · rename_i h2; subst h2; simp [Ne.symm hx]
        · rw [List.find?_cons, List.find?_cons, ih, if_neg hx]

theorem hostMask_find (bs : List Byte) (m : Mem) (a x : Nat) :
    (hostMask m a (bs.map some)).find? (fun c => decide (c.1 = x)) =
      if h : a ≤ x ∧ x < a + bs.length then some (x, bs[x - a]) else m.find? fun c => decide (c.1 = x) := by
  induction bs generalizing m a with
  | nil => rw [dif_neg (by simp)]; rfl
  | cons b r ih =>
    simp only [List.map_cons, hostMask]
    rw [ih, hostSet_find]
    by_cases h : x = a
    · subst h
      rw [dif_neg (by omega), if_pos rfl, dif_pos (by simp)]
      simp
    · by_cases h2 : a + 1 ≤ x ∧ x < a + 1 + r.length
      · rw [dif_pos h2, dif_pos (by simp only [List.length_cons]; omega)]
        simp only [Option.some.injEq, Prod.mk.injEq, true_and]
        rw [List.getElem_cons, dif_neg (by omega)]
        congr 1
      · rw [dif_neg h2, if_neg h, dif_neg (by simp only [List.length_cons]; omega)]

/-- The bytes stored at an offset of region 0xFF are what stands there. -/
theorem sysBytes_stored {s : State} {m : Mem} {off : Nat} {bs : List Byte} (h : s.sysMem = hostMask m off (bs.map some)) :
    s.sysBytes off bs.length = bs := by
  apply List.ext_getElem (by simp [State.sysBytes])
  intro i h1 h2
  simp only [State.sysBytes, h, List.getElem_map, List.getElem_range, hostMask_find]
  rw [dif_pos (by omega)]
  simp

/-- CTXLOAD finds what CTXSAVE left: the first save of the context at the offset, while its bytes stand there (R381, R383). -/
theorem areaAt_saved {s : State} {m : Mem} {area : Nat} {x : Ctx} {a : SaveArea}
    (h : s.sysMem = hostMask m area (a.image.map some)) (hl : a.image.length = a.size) (h64 : 64 ≤ a.size)
    (hs : s.saves.find? (fun p => decide (p.1 = area) && decide (p.2.ctx = x)) = some (area, a)) : s.areaAt x area = some a := by
  have hb : s.sysBytes area a.size = a.image := by rw [← hl]; exact sysBytes_stored h
  have ht : s.areaStands area = true := by
    simp only [State.areaStands, List.all_eq_true, List.mem_range]
    intro i hi
    have hf := hostMask_find a.image m area (area + i)
    rw [dif_pos (by omega), ← h] at hf
    rw [List.any_eq_true]
    exact ⟨_, List.mem_of_find?_eq_some hf, by simp⟩
  obtain ⟨t, e⟩ : ∃ t, ((s.saves.filter fun p => decide (p.2.ctx = x)).filter fun p => decide (p.1 = area)) = (area, a) :: t := by
    rw [List.filter_filter]
    rw [← List.head?_filter] at hs
    exact List.head?_eq_some_iff.1 hs
  simp [State.areaAt, ht, e, hb]

end Sys2Proof.Machine
end

