-- ==== Sys2Proof/Laws/Encoding.lean ====
section
/-! SUPPORT. Laws/Encoding.lean: the fields of a packed word, and that every operand and code field reads back as the
operand or code that was written (R199 to R205). -/

namespace Sys2Proof

theorem bit_le (b : Bool) : bit b ≤ 1 := by cases b <;> decide

theorem beq_bit (b : Bool) : (bit b == 1) = b := by cases b <;> rfl

theorem pack_lt (h : Hdr) {op mod d a b : Nat} (h1 : op < 256) (h2 : mod < 16384) (h3 : d < 2 ^ 21) (h4 : a < 2 ^ 21)
    (h5 : b < 2 ^ 21) : pack h op mod d a b < 2 ^ 96 := by
  have := bit_le h.nt; have := bit_le h.rb; have := bit_le h.ra; have := bit_le h.gn; have := bit_le h.sw
  have := h.pcl.isLt; have := h.g.isLt
  unfold pack
  omega

/-- Unpacking a packed word gives its fields back: no field of R199 runs into another. -/
theorem unpack_pack (h : Hdr) {op mod d a b : Nat} (h1 : op < 256) (h2 : mod < 16384) (h3 : d < 2 ^ 21) (h4 : a < 2 ^ 21)
    (h5 : b < 2 ^ 21) : unpack (pack h op mod d a b) = ⟨h, op, 0, mod, d, a, b⟩ := by
  have p1 := bit_le h.nt; have p2 := bit_le h.rb; have p3 := bit_le h.ra; have p4 := bit_le h.gn; have p5 := bit_le h.sw
  have p6 := h.pcl.isLt; have p7 := h.g.isLt
  have e1 : field (pack h op mod d a b) 95 1 = bit h.sw := by unfold field pack; omega
  have e2 : field (pack h op mod d a b) 92 3 = h.g.val := by unfold field pack; omega
  have e3 : field (pack h op mod d a b) 91 1 = bit h.gn := by unfold field pack; omega
  have e4 : field (pack h op mod d a b) 81 2 = h.pcl.val := by unfold field pack; omega
  have e5 : field (pack h op mod d a b) 80 1 = bit h.ra := by unfold field pack; omega
  have e6 : field (pack h op mod d a b) 79 1 = bit h.rb := by unfold field pack; omega
  have e7 : field (pack h op mod d a b) 78 1 = bit h.nt := by unfold field pack; omega
  have e8 : field (pack h op mod d a b) 83 8 = op := by unfold field pack; omega
  have e9 : field (pack h op mod d a b) 77 1 = 0 := by unfold field pack; omega
  have e10 : field (pack h op mod d a b) 63 14 = mod := by unfold field pack; omega
  have e11 : field (pack h op mod d a b) 42 21 = d := by unfold field pack; omega
  have e12 : field (pack h op mod d a b) 21 21 = a := by unfold field pack; omega
  have e13 : field (pack h op mod d a b) 0 21 = b := by unfold field pack; omega
  have f1 : Fin.ofNat 8 h.g.val = h.g := by ext; simp
  have f2 : Fin.ofNat 4 h.pcl.val = h.pcl := by ext; simp
  simp only [unpack, e1, e2, e3, e4, e5, e6, e7, e8, e9, e10, e11, e12, e13, beq_bit, f1, f2]

/-! ### Operand fields -/

theorem bu18 (b : Fin 4) (o : BitVec 16) : 2 ^ 16 * b.val + o.toNat < 2 ^ 18 := by
  have := b.isLt; have := o.isLt; omega

theorem lt18 {n : Nat} (r : Fin n) (h : n ≤ 4096 := by decide) : r.val < 2 ^ 18 := by have := r.isLt; omega

theorem decIdx_mkF {n k p : Nat} (h : p < n) (hp : p < 2 ^ 18) : decIdx n k (mkF k p) = some ⟨p, h⟩ := by
  have h1 : mkF k p % 2 ^ 18 = p := by unfold mkF; omega
  have h2 : mkF k p / 2 ^ 18 = k := by unfold mkF; omega
  unfold decIdx
  simp only [h1, h2, dif_pos h, if_true]

/-- A field of one kind is no index of another. -/
theorem decIdx_ne {n k j p : Nat} (hp : p < 2 ^ 18) (h : j ≠ k) : decIdx n k (mkF j p) = none := by
  have h2 : mkF j p / 2 ^ 18 = j := by unfold mkF; omega
  simp only [decIdx, h2, if_neg h, dite_eq_ite, ite_self]

theorem encS_eq (r : SReg) : encS r = mkF 0 r.val := by simp [encS, mkF]

theorem mkF_lt {k p : Nat} (hk : k < 8) (hp : p < 2 ^ 18) : mkF k p < 2 ^ 21 := by unfold mkF; omega

@[simp] theorem decS_encS (r : SReg) : decS (encS r) = some r := by rw [encS_eq]; exact decIdx_mkF r.isLt (lt18 r)
theorem decV_of {vn f : Nat} {r : VIdx} (h : decIdx 16 1 f = some r) (hr : r.val < vn) : decV vn f = some r := by
  simp [decV, h, hr]
theorem decV_none {vn f : Nat} (h : decIdx 16 1 f = none) : decV vn f = none := by simp [decV, h]
@[simp] theorem decV_encV (r : VIdx) : decV 16 (encV r) = some r := decV_of (decIdx_mkF r.isLt (lt18 r)) r.isLt
@[simp] theorem decP_encP (r : PReg) : decP (encP r) = some r := by
  rw [decP, encP]; exact decIdx_mkF r.isLt (lt18 r)
@[simp] theorem decM_encM (r : MReg) : decM (encM r) = some r := by
  have hr := r.isLt
  have h1 : 8 ≤ encM r % 2 ^ 18 := by unfold encM mkF; omega
  have h2 : encM r - 8 = mkF 2 r.val := by unfold encM mkF; omega
  rw [decM, if_pos h1, h2]
  exact decIdx_mkF hr (lt18 r)
@[simp] theorem decK_encK (r : KReg) : decK (encK r) = some r := by
  rw [decK, encK]; exact decIdx_mkF r.isLt (lt18 r)
@[simp] theorem decSys_encSys (n : BitVec 12) : decSys (encSys n) = some n := by
  unfold decSys encSys
  rw [decIdx_mkF (show n.toNat < 4096 from n.isLt) (by have := n.isLt; omega)]
  simp

theorem decI_mkF {k p : Nat} (hp : p < 2 ^ 18) : decI (mkF k p) = if k = 6 then some (BitVec.ofNat 18 p) else none := by
  unfold decI mkF
  have h1 : (2 ^ 18 * k + p) / 2 ^ 18 = k := by omega
  have h2 : (2 ^ 18 * k + p) % 2 ^ 18 = p := by omega
  rw [h1, h2]

theorem decBu_mkF {k p : Nat} (hp : p < 2 ^ 18) : decBu (mkF k p) =
    if k = 5 then some (Fin.ofNat 4 (p / 2 ^ 16), BitVec.ofNat 16 p) else none := by
  unfold decBu mkF
  have h1 : (2 ^ 18 * k + p) / 2 ^ 18 = k := by omega
  rw [h1]
  split
  · congr 2
    · ext; simp only [Fin.val_ofNat]; omega
    · apply BitVec.eq_of_toNat_eq; simp only [BitVec.toNat_ofNat]; omega
  · rfl

@[simp] theorem decI_encI (v : BitVec 18) : decI (encI v) = some v := by
  rw [encI, decI_mkF v.isLt]; simp
@[simp] theorem decBu_encBu (b : Fin 4) (o : BitVec 16) : decBu (encBu b o) = some (b, o) := by
  have hb := b.isLt
  have ho := o.isLt
  rw [encBu, decBu_mkF (by omega), if_pos rfl]
  congr 2
  · ext; simp only [Fin.val_ofNat]; omega
  · apply BitVec.eq_of_toNat_eq; simp only [BitVec.toNat_ofNat]; omega

@[simp] theorem decS_encV (r : VIdx) : decS (encV r) = none := decIdx_ne (lt18 r) (by decide)
@[simp] theorem decS_encP (r : PReg) : decS (encP r) = none := decIdx_ne (lt18 r) (by decide)
@[simp] theorem decS_encM (r : MReg) : decS (encM r) = none :=
  decIdx_ne (by have := r.isLt; omega) (by decide)
@[simp] theorem decS_encK (r : KReg) : decS (encK r) = none := decIdx_ne (lt18 r) (by decide)
@[simp] theorem decS_encBu (b : Fin 4) (o : BitVec 16) : decS (encBu b o) = none :=
  decIdx_ne (bu18 b o) (by decide)
@[simp] theorem decS_encI (v : BitVec 18) : decS (encI v) = none := decIdx_ne v.isLt (by decide)
@[simp] theorem decV_encI (vn : Nat) (v : BitVec 18) : decV vn (encI v) = none :=
  decV_none (decIdx_ne v.isLt (by decide))
@[simp] theorem decP_encS (r : SReg) : decP (encS r) = none := by
  rw [encS_eq]; exact decIdx_ne (lt18 r) (by decide)
@[simp] theorem decP_encI (v : BitVec 18) : decP (encI v) = none := decIdx_ne v.isLt (by decide)
@[simp] theorem decP_encK (r : KReg) : decP (encK r) = none := decIdx_ne (lt18 r) (by decide)
@[simp] theorem decP_encM (r : MReg) : decP (encM r) = none := by
  have h : ¬ encM r % 2 ^ 18 < 8 := by unfold encM mkF; omega
  rw [decP, decIdx, dif_neg h]
@[simp] theorem decM_encK (r : KReg) : decM (encK r) = none := by
  have h : ¬ 8 ≤ encK r % 2 ^ 18 := by unfold encK mkF; omega
  rw [decM, if_neg h]
@[simp] theorem decK_encBu (b : Fin 4) (o : BitVec 16) : decK (encBu b o) = none :=
  decIdx_ne (bu18 b o) (by decide)
@[simp] theorem decK_encS (r : SReg) : decK (encS r) = none := by
  rw [encS_eq]; exact decIdx_ne (lt18 r) (by decide)
@[simp] theorem decI_encP (r : PReg) : decI (encP r) = none := by rw [encP, decI_mkF (lt18 r)]; rfl
@[simp] theorem decI_encM (r : MReg) : decI (encM r) = none := by
  rw [encM, decI_mkF (by have := r.isLt; omega)]; rfl

@[simp] theorem decSI_encSI (v : SI) : decSI (encSI v) = some v := by cases v <;> simp [decSI, encSI]
@[simp] theorem decSK_encSK (v : SK) : decSK (encSK v) = some v := by cases v <;> simp [decSK, encSK]
@[simp] theorem decBuS_encBuS (v : BuS) : decBuS (encBuS v) = some v := by cases v <;> simp [decBuS, encBuS]
@[simp] theorem decBc_encBc (v : Bc) : decBc 16 (encBc v) = some v := by cases v <;> simp [decBc, encBc]
@[simp] theorem decCopyOp_encCopyOp (v : CopyOp) : decCopyOp (encCopyOp v) = some v := by
  cases v <;> simp [decCopyOp, encCopyOp]

@[simp] theorem decLImm_enc (v : LImm) : decLImm (encLA v) (encLB v) = some v := by
  cases v with
  | short v =>
    have h : encI v / 2 ^ 18 ≠ 7 := by have := v.isLt; unfold encI mkF; omega
    rw [encLA, encLB, decLImm, if_neg h]
    simp
  | long v =>
    have hv := v.isLt
    have h1 : mkF 7 (v.toNat % 2 ^ 18) / 2 ^ 18 = 7 := by unfold mkF; omega
    have h2 : mkF 7 (v.toNat % 2 ^ 18) % 2 ^ 18 = v.toNat % 2 ^ 18 := by unfold mkF; omega
    rw [encLA, encLB, decLImm, if_pos h1, h2]
    congr 2
    apply BitVec.eq_of_toNat_eq
    simp only [BitVec.toNat_ofNat]
    omega

@[simp] theorem decS_encLB (v : LImm) : decS (encLB v) = none := by
  cases v with
  | short v => simp [encLB]
  | long v => exact decIdx_ne (by omega) (by decide)

@[simp] theorem decSL_enc (v : SL) : decSL (encSLA v) (encSLB v) = some v := by
  cases v <;> simp [decSL, encSLA, encSLB]

/-! ### Bounds -/

@[simp] theorem encS_lt (r : SReg) : encS r < 2097152 := by have := r.isLt; unfold encS; omega
@[simp] theorem encV_lt (r : VIdx) : encV r < 2097152 := by have := r.isLt; unfold encV mkF; omega
@[simp] theorem encP_lt (r : PReg) : encP r < 2097152 := by have := r.isLt; unfold encP mkF; omega
@[simp] theorem encM_lt (r : MReg) : encM r < 2097152 := by have := r.isLt; unfold encM mkF; omega
@[simp] theorem encK_lt (r : KReg) : encK r < 2097152 := by have := r.isLt; unfold encK mkF; omega
@[simp] theorem encSys_lt (n : BitVec 12) : encSys n < 2097152 := by have := n.isLt; unfold encSys mkF; omega
@[simp] theorem encBu_lt (b : Fin 4) (o : BitVec 16) : encBu b o < 2097152 := by
  have := b.isLt; have := o.isLt; unfold encBu mkF; omega
@[simp] theorem encI_lt (v : BitVec 18) : encI v < 2097152 := by have := v.isLt; unfold encI mkF; omega
@[simp] theorem encSI_lt (v : SI) : encSI v < 2097152 := by cases v <;> simp [encSI]
@[simp] theorem encSK_lt (v : SK) : encSK v < 2097152 := by cases v <;> simp [encSK]
@[simp] theorem encBuS_lt (v : BuS) : encBuS v < 2097152 := by cases v <;> simp [encBuS]
@[simp] theorem encBc_lt (v : Bc) : encBc v < 2097152 := by cases v <;> simp [encBc]
@[simp] theorem encCopyOp_lt (v : CopyOp) : encCopyOp v < 2097152 := by cases v <;> simp [encCopyOp]
@[simp] theorem encLA_lt (v : LImm) : encLA v < 2097152 := by
  cases v with
  | short _ => simp [encLA]
  | long v => have := v.isLt; simp only [encLA]; omega
@[simp] theorem encLB_lt (v : LImm) : encLB v < 2097152 := by
  cases v with
  | short v => simp [encLB]
  | long v => simp only [encLB, mkF]; omega
@[simp] theorem encSLA_lt (v : SL) : encSLA v < 2097152 := by cases v <;> simp [encSLA]
@[simp] theorem encSLB_lt (v : SL) : encSLB v < 2097152 := by cases v <;> simp [encSLB]

/-! ### Codes -/

@[simp] theorem Wid.ofCode_code (x : Wid) : Wid.ofCode x.code = some x := by cases x <;> rfl
@[simp] theorem SatM.ofCode_code (x : SatM) : SatM.ofCode x.code = some x := by cases x <;> rfl
@[simp] theorem Ty.ofCode_code (x : Ty) : Ty.ofCode x.code = some x := by cases x <;> rfl
@[simp] theorem Rm.ofCode_code (x : Rm) : Rm.ofCode x.code = some x := by cases x <;> rfl
@[simp] theorem Scope.ofCode_code (x : Scope) : Scope.ofCode x.code = some x := by cases x <;> rfl
@[simp] theorem Order.ofCode_code (x : Order) : Order.ofCode x.code = some x := by cases x <;> rfl
@[simp] theorem Cond.ofCode_code (x : Cond) : Cond.ofCode x.code = some x := by cases x <;> rfl
@[simp] theorem FCond.ofCode_code (x : FCond) : FCond.ofCode x.code = some x := by cases x <;> rfl
@[simp] theorem AmoOp.ofCode_code (x : AmoOp) : AmoOp.ofCode x.code = some x := by cases x <;> rfl
@[simp] theorem KField.ofCode_code (x : KField) : KField.ofCode x.code = some x := by cases x <;> rfl
@[simp] theorem RField.ofCode_code (x : RField) : RField.ofCode x.code = some x := by cases x <;> rfl
@[simp] theorem RedOp.ofCode_code (x : RedOp) : RedOp.ofCode x.code = some x := by cases x <;> rfl
@[simp] theorem ShfOp.ofCode_code (x : ShfOp) : ShfOp.ofCode x.code = some x := by cases x <;> rfl
@[simp] theorem ChitSel.ofCode_code (x : ChitSel) : ChitSel.ofCode x.code = some x := by cases x <;> rfl
@[simp] theorem cmOfCode_cmCode (x : Option CellMode) : cmOfCode (cmCode x) = some x := by
  rcases x with _ | x
  · rfl
  · cases x <;> rfl
@[simp] theorem decB_bit (b : Bool) : decB (bit b) = some b := by cases b <;> rfl
@[simp] theorem decDbl_encDbl (b : Bool) : decDbl (encDbl b) = some b := by cases b <;> rfl
@[simp] theorem JField.ofCode_code (x : JField) : JField.ofCode x.code = some x := by
  cases x with
  | d i =>
    have h := i.isLt
    have h1 : Fin.ofNat 8 (8 + i.val - 8) = i := by ext; simp only [Fin.val_ofNat]; omega
    simp only [JField.code, JField.ofCode, h1]
    rw [if_neg (by omega), if_neg (by omega), if_neg (by omega), if_pos (by omega)]
  | _ => rfl

theorem Wid.code_lt (x : Wid) : x.code < 4 := by cases x <;> decide
theorem SatM.code_lt (x : SatM) : x.code < 3 := by cases x <;> decide
theorem Ty.code_lt (x : Ty) : x.code < 12 := by cases x <;> decide
theorem Rm.code_lt (x : Rm) : x.code < 4 := by cases x <;> decide
theorem Scope.code_lt (x : Scope) : x.code < 9 := by cases x <;> decide
theorem Order.code_lt (x : Order) : x.code < 5 := by cases x <;> decide
theorem Cond.code_lt (x : Cond) : x.code < 12 := by cases x <;> decide
theorem FCond.code_lt (x : FCond) : x.code < 8 := by cases x <;> decide
theorem AmoOp.code_lt (x : AmoOp) : x.code < 7 := by cases x <;> decide
theorem RField.code_lt (x : RField) : x.code < 3 := by cases x <;> decide
theorem KField.code_lt (x : KField) : x.code < 5 := by cases x <;> decide
theorem RedOp.code_lt (x : RedOp) : x.code < 3 := by cases x <;> decide
theorem ShfOp.code_lt (x : ShfOp) : x.code < 3 := by cases x <;> decide
theorem ChitSel.code_lt (x : ChitSel) : x.code < 3 := by cases x <;> decide
theorem JField.code_lt (x : JField) : x.code < 16 := by
  cases x with
  | d i => have := i.isLt; simp only [JField.code]; omega
  | _ => decide
theorem cmCode_lt (x : Option CellMode) : cmCode x < 4 := by
  rcases x with _ | x
  · decide
  · cases x <;> decide
theorem encDbl_lt (b : Bool) : encDbl b < 9 := by cases b <;> decide
theorem VCond.code_lt (x : VCond) : x.code < 12 := by
  cases x with
  | int c => exact Cond.code_lt c
  | flt c => have := FCond.code_lt c; simp only [VCond.code]; omega
theorem CopyOp.kind_lt (o : CopyOp) (r b : Bool) : o.kind r b < 4 := by
  unfold CopyOp.kind
  cases o <;> cases r <;> cases b <;> simp

@[simp] theorem VCond.ofCode_code {t : Ty} {c : VCond} (h : c.ok t = true) : VCond.ofCode t c.code = some c := by
  cases c with
  | int c =>
    have h1 : t.isVInt = true := h
    simp [VCond.ofCode, VCond.code, h1]
  | flt c =>
    have h1 : t.isVFlt = true := h
    have h2 : t.isVInt = false := by cases t <;> first | rfl | cases h1
    simp [VCond.ofCode, VCond.code, h1, h2]

/-- The fields of the scalar MOD layout read back. -/
theorem splitM_modM {lo ty ord sc : Nat} (h1 : lo < 8) (h2 : ty < 16) (h3 : ord < 8) :
    splitM (modM lo ty ord sc) = ⟨lo, ty, ord, sc⟩ := by
  unfold splitM modM
  congr 1 <;> omega

/-- The fields of the vector MOD layout read back. -/
theorem splitV_modV {msk : MReg} {ty x2 x4 : Nat} {zr : Bool} (h1 : ty < 16) (h2 : x2 < 4) :
    splitV (modV msk.val ty (bit zr) x2 x4) = ⟨msk, ty, zr, x2, x4⟩ := by
  have := msk.isLt
  have := bit_le zr
  unfold splitV modV
  have e1 : Fin.ofNat 8 (msk.val + 8 * ty + 128 * bit zr + 256 * x2 + 1024 * x4) = msk := by
    ext; simp only [Fin.val_ofNat]; omega
  have e2 : (msk.val + 8 * ty + 128 * bit zr + 256 * x2 + 1024 * x4) / 128 % 2 = bit zr := by omega
  rw [e1, e2, beq_bit]
  congr 1 <;> omega

end Sys2Proof
end

