-- ==== Sys2Proof/Laws/Exec.lean ====
section
/-! SUPPORT. Laws/Exec.lean: the meaning that `exec` runs for each constructor. -/

namespace Sys2Proof.Machine

variable (st : State)

theorem exec_add (h : Hdr) (o : IntS) :
    exec (.add h o) st = execAdd h o st := rfl
theorem exec_sub (h : Hdr) (o : IntS) :
    exec (.sub h o) st = execSub h o st := rfl
theorem exec_mul (h : Hdr) (o : Int3) :
    exec (.mul h o) st = execMul h o st := rfl
theorem exec_mulh (h : Hdr) (o : Int3) :
    exec (.mulh h o) st = execMulh h o st := rfl
theorem exec_mulhz (h : Hdr) (o : Int3) :
    exec (.mulhz h o) st = execMulhz h o st := rfl
theorem exec_div (h : Hdr) (o : Int3) :
    exec (.div h o) st = execDiv h o st := rfl
theorem exec_divz (h : Hdr) (o : Int3) :
    exec (.divz h o) st = execDivz h o st := rfl
theorem exec_rem (h : Hdr) (o : Int3) :
    exec (.rem h o) st = execRem h o st := rfl
theorem exec_remz (h : Hdr) (o : Int3) :
    exec (.remz h o) st = execRemz h o st := rfl
theorem exec_and (h : Hdr) (o : Int3) :
    exec (.and h o) st = execAnd h o st := rfl
theorem exec_or (h : Hdr) (o : Int3) :
    exec (.or h o) st = execOr h o st := rfl
theorem exec_xor (h : Hdr) (o : Int3) :
    exec (.xor h o) st = execXor h o st := rfl
theorem exec_andn (h : Hdr) (o : Int3) :
    exec (.andn h o) st = execAndn h o st := rfl
theorem exec_orn (h : Hdr) (o : Int3) :
    exec (.orn h o) st = execOrn h o st := rfl
theorem exec_shl (h : Hdr) (o : Int3) :
    exec (.shl h o) st = execShl h o st := rfl
theorem exec_shr (h : Hdr) (o : Int3) :
    exec (.shr h o) st = execShr h o st := rfl
theorem exec_sar (h : Hdr) (o : Int3) :
    exec (.sar h o) st = execSar h o st := rfl
theorem exec_rol (h : Hdr) (o : Int3) :
    exec (.rol h o) st = execRol h o st := rfl
theorem exec_clz (h : Hdr) (o : Int2) :
    exec (.clz h o) st = execClz h o st := rfl
theorem exec_ctz (h : Hdr) (o : Int2) :
    exec (.ctz h o) st = execCtz h o st := rfl
theorem exec_popc (h : Hdr) (o : Int2) :
    exec (.popc h o) st = execPopc h o st := rfl
theorem exec_brev (h : Hdr) (o : Int2) :
    exec (.brev h o) st = execBrev h o st := rfl
theorem exec_bfx (h : Hdr) (sx : Bool) (d a : SReg) (b : SI) :
    exec (.bfx h sx d a b) st = execBfx h sx d a b st := rfl
theorem exec_bfi (h : Hdr) (d a : SReg) (b : SI) :
    exec (.bfi h d a b) st = execBfi h d a b st := rfl
theorem exec_min (h : Hdr) (o : Int3) :
    exec (.min h o) st = execMin h o st := rfl
theorem exec_max (h : Hdr) (o : Int3) :
    exec (.max h o) st = execMax h o st := rfl
theorem exec_minz (h : Hdr) (o : Int3) :
    exec (.minz h o) st = execMinz h o st := rfl
theorem exec_maxz (h : Hdr) (o : Int3) :
    exec (.maxz h o) st = execMaxz h o st := rfl
theorem exec_abs (h : Hdr) (sat : Bool) (o : Int2) :
    exec (.abs h sat o) st = execAbs h sat o st := rfl
theorem exec_sel (h : Hdr) (pidx : PReg) (pneg : Bool) (d a : SReg) (b : SI) :
    exec (.sel h pidx pneg d a b) st = execSel h pidx pneg d a b st := rfl
theorem exec_mov (h : Hdr) (p : MovPair) :
    exec (.mov h p) st = execMov h p st := rfl
theorem exec_movi (h : Hdr) (d : SReg) (v : LImm) :
    exec (.movi h d v) st = execMovi h d v st := rfl
theorem exec_movh (h : Hdr) (d : SReg) (v : LImm) :
    exec (.movh h d v) st = execMovh h d v st := rfl
theorem exec_cmp (h : Hdr) (wid : Wid) (c : Cond) (d : PReg) (a : SReg) (b : SI) :
    exec (.cmp h wid c d a b) st = execCmp h wid c d a b st := rfl
theorem exec_plog (h : Hdr) (tt : BitVec 4) (d a b : PReg) :
    exec (.plog h tt d a b) st = execPlog h tt d a b st := rfl
theorem exec_scvt (h : Hdr) (rm : Rm) (ty sty : Ty) (uns : Bool) (d a : SReg) :
    exec (.scvt h rm ty sty uns d a) st = execScvt h rm ty sty uns d a st := rfl
theorem exec_fadd (h : Hdr) (o : F3) :
    exec (.fadd h o) st = execFadd h o st := rfl
theorem exec_fsub (h : Hdr) (o : F3) :
    exec (.fsub h o) st = execFsub h o st := rfl
theorem exec_fmul (h : Hdr) (o : F3) :
    exec (.fmul h o) st = execFmul h o st := rfl
theorem exec_fma (h : Hdr) (o : F3) :
    exec (.fma h o) st = execFma h o st := rfl
theorem exec_fdiv (h : Hdr) (o : F3) :
    exec (.fdiv h o) st = execFdiv h o st := rfl
theorem exec_fsqrt (h : Hdr) (rm : Rm) (dbl : Bool) (d a : SReg) :
    exec (.fsqrt h rm dbl d a) st = execFsqrt h rm dbl d a st := rfl
theorem exec_fmin (h : Hdr) (dbl : Bool) (d a b : SReg) :
    exec (.fmin h dbl d a b) st = execFmin h dbl d a b st := rfl
theorem exec_fmax (h : Hdr) (dbl : Bool) (d a b : SReg) :
    exec (.fmax h dbl d a b) st = execFmax h dbl d a b st := rfl
theorem exec_fcmp (h : Hdr) (dbl : Bool) (c : FCond) (d : PReg) (a b : SReg) :
    exec (.fcmp h dbl c d a b) st = execFcmp h dbl c d a b st := rfl
theorem exec_br (h : Hdr) (v : LImm) :
    exec (.br h v) st = execBr h v st := rfl
theorem exec_bri (h : Hdr) (b : SReg) :
    exec (.bri h b) st = execBri h b st := rfl
theorem exec_call (h : Hdr) (vw : Fin 4) (v : LImm) :
    exec (.call h vw v) st = execCall h vw v st := rfl
theorem exec_calli (h : Hdr) (vw : Fin 4) (b : SReg) :
    exec (.calli h vw b) st = execCalli h vw b st := rfl
theorem exec_ret (h : Hdr) :
    exec (.ret h) st = execRet h st := rfl
theorem exec_loop (h : Hdr) (d : SReg) (v : LImm) :
    exec (.loop h d v) st = execLoop h d v st := rfl
theorem exec_endT (h : Hdr) :
    exec (.endT h) st = execEndT h st := rfl
theorem exec_nop (h : Hdr) :
    exec (.nop h) st = execNop h st := rfl
theorem exec_trap (h : Hdr) (v : BitVec 18) :
    exec (.trap h v) st = execTrap h v st := rfl
theorem exec_brk (h : Hdr) (v : BitVec 18) :
    exec (.brk h v) st = execBrk h v st := rfl
theorem exec_mfs (h : Hdr) (d : SReg) (n : BitVec 12) :
    exec (.mfs h d n) st = execMfs h d n st := rfl
theorem exec_mts (h : Hdr) (n : BitVec 12) (b : SL) :
    exec (.mts h n b) st = execMts h n b st := rfl
theorem exec_ld (h : Hdr) (o : LdA) :
    exec (.ld h o) st = execLd h o st := rfl
theorem exec_ldc (h : Hdr) (o : LdA) :
    exec (.ldc h o) st = execLdc h o st := rfl
theorem exec_st (h : Hdr) (o : StA) :
    exec (.st h o) st = execSt h o st := rfl
theorem exec_ldaq (h : Hdr) (sc : Scope) (o : LdA) :
    exec (.ldaq h sc o) st = execLdaq h sc o st := rfl
theorem exec_strl (h : Hdr) (sc : Scope) (o : StA) :
    exec (.strl h sc o) st = execStrl h sc o st := rfl
theorem exec_ldb (h : Hdr) (ty : Ty) (uns : Bool) (d : SReg) (a : BuS) (b : SI) :
    exec (.ldb h ty uns d a b) st = execLdb h ty uns d a b st := rfl
theorem exec_stb (h : Hdr) (ty : Ty) (d : SI) (a : BuS) (b : SI) :
    exec (.stb h ty d a b) st = execStb h ty d a b st := rfl
theorem exec_ldk (h : Hdr) (d : KReg) (a : SK) (b : SI) :
    exec (.ldk h d a b) st = execLdk h d a b st := rfl
theorem exec_stk (h : Hdr) (d : KReg) (a : SK) (b : SI) :
    exec (.stk h d a b) st = execStk h d a b st := rfl
theorem exec_kder (h : Hdr) (pm : BitVec 6) (d a : KReg) (b : SI) :
    exec (.kder h pm d a b) st = execKder h pm d a b st := rfl
theorem exec_kprm (h : Hdr) (pm : BitVec 6) (d a : KReg) :
    exec (.kprm h pm d a) st = execKprm h pm d a st := rfl
theorem exec_kadr (h : Hdr) (set : Bool) (d a : KReg) (b : SI) :
    exec (.kadr h set d a b) st = execKadr h set d a b st := rfl
theorem exec_kget (h : Hdr) (f : KField) (d : SReg) (a : KReg) :
    exec (.kget h f d a) st = execKget h f d a st := rfl
theorem exec_ktst (h : Hdr) (pm : BitVec 6) (d : PReg) (a : KReg) (b : SI) :
    exec (.ktst h pm d a b) st = execKtst h pm d a b st := rfl
theorem exec_kseal (h : Hdr) (d a : KReg) :
    exec (.kseal h d a) st = execKseal h d a st := rfl
theorem exec_amo (h : Hdr) (sc : Scope) (ord : Order) (ty : Ty) (opc : AmoOp) (d : SReg) (a : SK) (b : SI) :
    exec (.amo h sc ord ty opc d a b) st = execAmo h sc ord ty opc d a b st := rfl
theorem exec_cas (h : Hdr) (sc : Scope) (ord : Order) (ty : Ty) (d : SReg) (a : SK) (b : SI) :
    exec (.cas h sc ord ty d a b) st = execCas h sc ord ty d a b st := rfl
theorem exec_ldsc (h : Hdr) (o : LdA) :
    exec (.ldsc h o) st = execLdsc h o st := rfl
theorem exec_stsc (h : Hdr) (o : StA) :
    exec (.stsc h o) st = execStsc h o st := rfl
theorem exec_fence (h : Hdr) (w a s0 : Bool) :
    exec (.fence h w a s0) st = execFence h w a s0 st := rfl
theorem exec_fenr (h : Hdr) (sc : Scope) (ord : Order) (b : SI) :
    exec (.fenr h sc ord b) st = execFenr h sc ord b st := rfl
theorem exec_phase (h : Hdr) (sc : Scope) :
    exec (.phase h sc) st = execPhase h sc st := rfl
theorem exec_rgset (h : Hdr) (slot : Fin 16) (x : RgArg) :
    exec (.rgset h slot x) st = execRgset h slot x st := rfl
theorem exec_rgclr (h : Hdr) (b : SI) :
    exec (.rgclr h b) st = execRgclr h b st := rfl
theorem exec_rgrd (h : Hdr) (slot : Fin 16) (f : RField) (d : SReg) :
    exec (.rgrd h slot f d) st = execRgrd h slot f d st := rfl
theorem exec_pref (h : Hdr) (l2 : Bool) (a : SK) (b : SI) :
    exec (.pref h l2 a b) st = execPref h l2 a b st := rfl
theorem exec_jrd (h : Hdr) (f : JField) (d : SReg) (b : SI) :
    exec (.jrd h f d b) st = execJrd h f d b st := rfl
theorem exec_jack (h : Hdr) (b : SI) :
    exec (.jack h b) st = execJack h b st := rfl
theorem exec_vadd (h : Hdr) (satm : SatM) (o : V3) :
    exec (.vadd h satm o) st = execVadd h satm o st := rfl
theorem exec_vsub (h : Hdr) (satm : SatM) (o : V3) :
    exec (.vsub h satm o) st = execVsub h satm o st := rfl
theorem exec_vmul (h : Hdr) (o : V3) :
    exec (.vmul h o) st = execVmul h o st := rfl
theorem exec_vma (h : Hdr) (o : V3) :
    exec (.vma h o) st = execVma h o st := rfl
theorem exec_vmin (h : Hdr) (uns : Bool) (o : V3) :
    exec (.vmin h uns o) st = execVmin h uns o st := rfl
theorem exec_vmax (h : Hdr) (uns : Bool) (o : V3) :
    exec (.vmax h uns o) st = execVmax h uns o st := rfl
theorem exec_vabs (h : Hdr) (sat : Bool) (o : V2) :
    exec (.vabs h sat o) st = execVabs h sat o st := rfl
theorem exec_vneg (h : Hdr) (sat : Bool) (o : V2) :
    exec (.vneg h sat o) st = execVneg h sat o st := rfl
theorem exec_vand (h : Hdr) (o : V3) :
    exec (.vand h o) st = execVand h o st := rfl
theorem exec_vor (h : Hdr) (o : V3) :
    exec (.vor h o) st = execVor h o st := rfl
theorem exec_vxor (h : Hdr) (o : V3) :
    exec (.vxor h o) st = execVxor h o st := rfl
theorem exec_vshl (h : Hdr) (o : V3) :
    exec (.vshl h o) st = execVshl h o st := rfl
theorem exec_vshr (h : Hdr) (o : V3) :
    exec (.vshr h o) st = execVshr h o st := rfl
theorem exec_vsar (h : Hdr) (o : V3) :
    exec (.vsar h o) st = execVsar h o st := rfl
theorem exec_vcmp (h : Hdr) (msk : MReg) (ty : Ty) (any : Bool) (c : VCond) (d : MReg) (a : VIdx) (b : Bc) :
    exec (.vcmp h msk ty any c d a b) st = execVcmp h msk ty any c d a b st := rfl
theorem exec_vsel (h : Hdr) (msk : MReg) (ty : Ty) (d a : VIdx) (b : Bc) :
    exec (.vsel h msk ty d a b) st = execVsel h msk ty d a b st := rfl
theorem exec_vcvt (h : Hdr) (msk : MReg) (ty sty : Ty) (zr ef cont : Bool) (d a : VIdx) (part : BitVec 18) :
    exec (.vcvt h msk ty sty zr ef cont d a part) st = execVcvt h msk ty sty zr ef cont d a part st := rfl
theorem exec_vred (h : Hdr) (msk : MReg) (ty : Ty) (opc : RedOp) (uns : Bool) (d : SReg) (a : VIdx) :
    exec (.vred h msk ty opc uns d a) st = execVred h msk ty opc uns d a st := rfl
theorem exec_vdot (h : Hdr) (msk : MReg) (ty : Ty) (acc : Bool) (d : SReg) (a b : VIdx) :
    exec (.vdot h msk ty acc d a b) st = execVdot h msk ty acc d a b st := rfl
theorem exec_vscan (h : Hdr) (opc : RedOp) (uns : Bool) (o : V2) :
    exec (.vscan h opc uns o) st = execVscan h opc uns o st := rfl
theorem exec_vperm (h : Hdr) (o : V2) (b : VIdx) :
    exec (.vperm h o b) st = execVperm h o b st := rfl
theorem exec_vshf (h : Hdr) (k : ShfOp) (o : V2) (b : SI) :
    exec (.vshf h k o b) st = execVshf h k o b st := rfl
theorem exec_vbc (h : Hdr) (msk : MReg) (ty : Ty) (zr : Bool) (d : VIdx) (b : SI) :
    exec (.vbc h msk ty zr d b) st = execVbc h msk ty zr d b st := rfl
theorem exec_vext (h : Hdr) (ty : Ty) (uns : Bool) (d : SReg) (a : VIdx) (b : SI) :
    exec (.vext h ty uns d a b) st = execVext h ty uns d a b st := rfl
theorem exec_vins (h : Hdr) (ty : Ty) (d : VIdx) (a : SReg) (b : SI) :
    exec (.vins h ty d a b) st = execVins h ty d a b st := rfl
theorem exec_vld (h : Hdr) (msk : MReg) (ty : Ty) (zr : Bool) (d : VIdx) (a : BuS) (b : SI) :
    exec (.vld h msk ty zr d a b) st = execVld h msk ty zr d a b st := rfl
theorem exec_vst (h : Hdr) (msk : MReg) (ty : Ty) (d : VIdx) (a : BuS) (b : SI) :
    exec (.vst h msk ty d a b) st = execVst h msk ty d a b st := rfl
theorem exec_vldx (h : Hdr) (msk : MReg) (ty : Ty) (zr : Bool) (part : Fin 8) (d : VIdx) (a : BuS) (b : VIdx) :
    exec (.vldx h msk ty zr part d a b) st = execVldx h msk ty zr part d a b st := rfl
theorem exec_vstx (h : Hdr) (msk : MReg) (ty : Ty) (part : Fin 8) (d : VIdx) (a : BuS) (b : VIdx) :
    exec (.vstx h msk ty part d a b) st = execVstx h msk ty part d a b st := rfl
theorem exec_vldg (h : Hdr) (msk : MReg) (ty : Ty) (zr : Bool) (d : VIdx) (x : VldgArg) :
    exec (.vldg h msk ty zr d x) st = execVldg h msk ty zr d x st := rfl
theorem exec_vstg (h : Hdr) (msk : MReg) (ty : Ty) (d : VIdx) (a : SK) (b : SI) :
    exec (.vstg h msk ty d a b) st = execVstg h msk ty d a b st := rfl
theorem exec_vexp (h : Hdr) (o : V2) :
    exec (.vexp h o) st = execVexp h o st := rfl
theorem exec_vlog (h : Hdr) (o : V2) :
    exec (.vlog h o) st = execVlog h o st := rfl
theorem exec_vrcp (h : Hdr) (o : V2) :
    exec (.vrcp h o) st = execVrcp h o st := rfl
theorem exec_vrsq (h : Hdr) (o : V2) :
    exec (.vrsq h o) st = execVrsq h o st := rfl
theorem exec_vcmul (h : Hdr) (o : VC) :
    exec (.vcmul h o) st = execVcmul h o st := rfl
theorem exec_vcma (h : Hdr) (o : VC) :
    exec (.vcma h o) st = execVcma h o st := rfl
theorem exec_vclmp (h : Hdr) (uns : Bool) (o : V2) (b : SReg) :
    exec (.vclmp h uns o b) st = execVclmp h uns o b st := rfl
theorem exec_mkand (h : Hdr) (d a b : MReg) :
    exec (.mkand h d a b) st = execMkand h d a b st := rfl
theorem exec_mkor (h : Hdr) (d a b : MReg) :
    exec (.mkor h d a b) st = execMkor h d a b st := rfl
theorem exec_mkxor (h : Hdr) (d a b : MReg) :
    exec (.mkxor h d a b) st = execMkxor h d a b st := rfl
theorem exec_mknot (h : Hdr) (d a : MReg) :
    exec (.mknot h d a) st = execMknot h d a st := rfl
theorem exec_mkpop (h : Hdr) (d : SReg) (a : MReg) :
    exec (.mkpop h d a) st = execMkpop h d a st := rfl
theorem exec_mkset (h : Hdr) (first : Bool) (d : MReg) (b : SI) :
    exec (.mkset h first d b) st = execMkset h first d b st := rfl
theorem exec_mzero (h : Hdr) (cm : Option CellMode) (d : SI) :
    exec (.mzero h cm d) st = execMzero h cm d st := rfl
theorem exec_mpass (h : Hdr) (o : MP) :
    exec (.mpass h o) st = execMpass h o st := rfl
theorem exec_mpassc (h : Hdr) (cj : Bool) (o : MP) :
    exec (.mpassc h cj o) st = execMpassc h cj o st := rfl
theorem exec_mpassr (h : Hdr) (ty bty : Ty) (d : SI) (a : KReg) (b : BuS) :
    exec (.mpassr h ty bty d a b) st = execMpassr h ty bty d a b st := rfl
theorem exec_mscale (h : Hdr) (d : SI) (a b : BuS) :
    exec (.mscale h d a b) st = execMscale h d a b st := rfl
theorem exec_mdrain (h : Hdr) (ty : Ty) (ef hd : Bool) (hpri : Fin 8) (d : BuS) (a : SI) :
    exec (.mdrain h ty ef hd hpri d a) st = execMdrain h ty ef hd hpri d a st := rfl
theorem exec_mpack (h : Hdr) (ty : Ty) (d a b : BuS) :
    exec (.mpack h ty d a b) st = execMpack h ty d a b st := rfl
theorem exec_mtrn (h : Hdr) (ty : Ty) (d a : BuS) (b : SI) :
    exec (.mtrn h ty d a b) st = execMtrn h ty d a b st := rfl
theorem exec_mcopy (h : Hdr) (d a : SI) :
    exec (.mcopy h d a) st = execMcopy h d a st := rfl
theorem exec_mstat (h : Hdr) (d : SReg) (n : BitVec 18) :
    exec (.mstat h d n) st = execMstat h d n st := rfl
theorem exec_mclr (h : Hdr) (b : SI) :
    exec (.mclr h b) st = execMclr h b st := rfl
theorem exec_mcfg (h : Hdr) (b : SI) :
    exec (.mcfg h b) st = execMcfg h b st := rfl
theorem exec_mcancel (h : Hdr) :
    exec (.mcancel h) st = execMcancel h st := rfl
theorem exec_mrowdone (h : Hdr) :
    exec (.mrowdone h) st = execMrowdone h st := rfl
theorem exec_spawn (h : Hdr) (d : Option BuS) (a : SK) (b : SI) :
    exec (.spawn h d a b) st = execSpawn h d a b st := rfl
theorem exec_chit (h : Hdr) (kind : ChitSel) (cp : Fin 8) (cpv : Bool) (d : SI) (a : SK) (b : SI) :
    exec (.chit h kind cp cpv d a b) st = execChit h kind cp cpv d a b st := rfl
theorem exec_claim (h : Hdr) (b : SI) :
    exec (.claim h b) st = execClaim h b st := rfl
theorem exec_unclaim (h : Hdr) (b : SI) :
    exec (.unclaim h b) st = execUnclaim h b st := rfl
theorem exec_bari (h : Hdr) (a : SK) (b : SI) :
    exec (.bari h a b) st = execBari h a b st := rfl
theorem exec_bara (h : Hdr) (sc : Scope) (a : SK) (b : SI) :
    exec (.bara h sc a b) st = execBara h sc a b st := rfl
theorem exec_tlset (h : Hdr) (sc : Scope) (d : SI) (a : SK) (b : SI) :
    exec (.tlset h sc d a b) st = execTlset h sc d a b st := rfl
theorem exec_tladd (h : Hdr) (sc : Scope) (d : SI) (a : SK) (b : SI) :
    exec (.tladd h sc d a b) st = execTladd h sc d a b st := rfl
theorem exec_tlwatch (h : Hdr) (d : SI) (a : SK) (b : SI) :
    exec (.tlwatch h d a b) st = execTlwatch h d a b st := rfl
theorem exec_ask (h : Hdr) (dev : Bool) (d : BuS) (b : SI) :
    exec (.ask h dev d b) st = execAsk h dev d b st := rfl
theorem exec_crinit (h : Hdr) (dev : Bool) (a : BuS) (b : SI) :
    exec (.crinit h dev a b) st = execCrinit h dev a b st := rfl
theorem exec_copy (h : Hdr) (dring sring xf : Bool) (hpri : Fin 8) (dbuf sbuf : Bool) (d a : CopyOp) (b : SI) :
    exec (.copy h dring sring xf hpri dbuf sbuf d a b) st = execCopy h dring sring xf hpri dbuf sbuf d a b st := rfl
theorem exec_copyc (h : Hdr) (a : BuS) :
    exec (.copyc h a) st = execCopyc h a st := rfl
theorem exec_bbinit (h : Hdr) (d : BuS) (a b : SI) :
    exec (.bbinit h d a b) st = execBbinit h d a b st := rfl
theorem exec_rcfg (h : Hdr) (a : SReg) (b : SI) :
    exec (.rcfg h a b) st = execRcfg h a b st := rfl
theorem exec_rget (h : Hdr) (b : SI) :
    exec (.rget h b) st = execRget h b st := rfl
theorem exec_rgetFill (h : Hdr) (b : SI) :
    exec (.rgetFill h b) st = execRgetFill h b st := rfl
theorem exec_rput (h : Hdr) (b : SI) :
    exec (.rput h b) st = execRput h b st := rfl
theorem exec_rputFill (h : Hdr) (b : SI) :
    exec (.rputFill h b) st = execRputFill h b st := rfl
theorem exec_psub (h : Hdr) (d : BuS) (a : SK) (b : SI) :
    exec (.psub h d a b) st = execPsub h d a b st := rfl
theorem exec_pdrop (h : Hdr) (b : SI) :
    exec (.pdrop h b) st = execPdrop h b st := rfl
theorem exec_svc (h : Hdr) (n : BitVec 18) :
    exec (.svc h n) st = execSvc h n st := rfl
theorem exec_eret (h : Hdr) :
    exec (.eret h) st = execEret h st := rfl
theorem exec_ctxsave (h : Hdr) (d a b : SReg) :
    exec (.ctxsave h d a b) st = execCtxsave h d a b st := rfl
theorem exec_ctxload (h : Hdr) (a b : SReg) :
    exec (.ctxload h a b) st = execCtxload h a b st := rfl
theorem exec_nispill (h : Hdr) (d a b : SReg) :
    exec (.nispill h d a b) st = execNispill h d a b st := rfl
theorem exec_succ (h : Hdr) (x : SuccArg) :
    exec (.succ h x) st = execSucc h x st := rfl
theorem exec_lput (h : Hdr) :
    exec (.lput h) st = execLput h st := rfl
theorem exec_swMarkerResume (core : Nat) :
    exec (.swMarkerResume core) st = execSwMarkerResume core st := rfl
theorem exec_loadReply (core id : Nat) (ext : Option (Nat × List Byte × Bool × Nat)) :
    exec (.loadReply core id ext) st = execLoadReply core id ext st := rfl
theorem exec_issueStallRelease (core : Nat) :
    exec (.issueStallRelease core) st = execIssueStallRelease core st := rfl
theorem exec_journalOpenTimeout (core idx : Nat) :
    exec (.journalOpenTimeout core idx) st = execJournalOpenTimeout core idx st := rfl
theorem exec_journalEmit (core idx : Nat) :
    exec (.journalEmit core idx) st = execJournalEmit core idx st := rfl
theorem exec_deferredEmit (core k : Nat) :
    exec (.deferredEmit core k) st = execDeferredEmit core k st := rfl
theorem exec_journalAck (core idx : Nat) :
    exec (.journalAck core idx) st = execJournalAck core idx st := rfl
theorem exec_storeRefused (core idx : Nat) :
    exec (.storeRefused core idx) st = execStoreRefused core idx st := rfl
theorem exec_refusedTrapDelivery (core : Nat) :
    exec (.refusedTrapDelivery core) st = execRefusedTrapDelivery core st := rfl
theorem exec_sliceLoad (x : AccRef) :
    exec (.sliceLoad x) st = execSliceLoad x st := rfl
theorem exec_sliceStoreDrain (x : AccRef) :
    exec (.sliceStoreDrain x) st = execSliceStoreDrain x st := rfl
theorem exec_atomicPort (slice : Nat) (mesh : Option (Nat × Nat)) (fabric : Option PeerReq) :
    exec (.atomicPort slice mesh fabric) st = execAtomicPort slice mesh fabric st := rfl
theorem exec_pageWalkDone (slice k : Nat) :
    exec (.pageWalkDone slice k) st = execPageWalkDone slice k st := rfl
theorem exec_pageFaultMessage (slice k : Nat) (resume : Bool) :
    exec (.pageFaultMessage slice k resume) st = execPageFaultMessage slice k resume st := rfl
theorem exec_faultReply (slice k : Nat) :
    exec (.faultReply slice k) st = execFaultReply slice k st := rfl
theorem exec_uncorrectableError (ctx : Ctx) (found : EccAt) :
    exec (.uncorrectableError ctx found) st = execUncorrectableError ctx found st := rfl
theorem exec_migrationCopyDone (copy : CopyEnd) :
    exec (.migrationCopyDone copy) st = execMigrationCopyDone copy st := rfl
theorem exec_migrationNotice (ctx : Ctx) (page : Nat) (copy : PageCopy) :
    exec (.migrationNotice ctx page copy) st = execMigrationNotice ctx page copy st := rfl
theorem exec_stubRequest (r : PeerReq) :
    exec (.stubRequest r) st = execStubRequest r st := rfl
theorem exec_stubReply (k : Nat) (data : List Byte) (tag : Bool) (verdict : Nat) (later : Option (Nat × BitVec 32 × Bool)) :
    exec (.stubReply k data tag verdict later) st = execStubReply k data tag verdict later st := rfl
theorem exec_reclamationScan (idx : Nat) :
    exec (.reclamationScan idx) st = execReclamationScan idx st := rfl
theorem exec_ownerAck (idx : Nat) :
    exec (.ownerAck idx) st = execOwnerAck idx st := rfl
theorem exec_stubDrainTimeout (idx : Nat) :
    exec (.stubDrainTimeout idx) st = execStubDrainTimeout idx st := rfl
theorem exec_redirect (x : AccRef) (data : List Byte) (tag : Bool) (verdict : Nat) (owner : Nat) (gen : BitVec 32) (big : Bool) :
    exec (.redirect x data tag verdict owner gen big) st = execRedirect x data tag verdict owner gen big st := rfl
theorem exec_redirectOnly (x : AccRef) (owner : Nat) (gen : BitVec 32) (big : Bool) :
    exec (.redirectOnly x owner gen big) st = execRedirectOnly x owner gen big st := rfl
theorem exec_redirectOnlyReissue (x : AccRef) :
    exec (.redirectOnlyReissue x) st = execRedirectOnlyReissue x st := rfl
theorem exec_ownerUpdate (ctx : Ctx) (page : Nat) (big : Bool) (owner : Nat) (gen : BitVec 32) (stubDev stubIdx : Nat) :
    exec (.ownerUpdate ctx page big owner gen stubDev stubIdx) st = execOwnerUpdate ctx page big owner gen stubDev stubIdx st := rfl
theorem exec_ownerAckSend (k : Nat) :
    exec (.ownerAckSend k) st = execOwnerAckSend k st := rfl
theorem exec_egressRelease (x : AccRef) :
    exec (.egressRelease x) st = execEgressRelease x st := rfl
theorem exec_misroute (x : AccRef) :
    exec (.misroute x) st = execMisroute x st := rfl
theorem exec_directoryAnswer (x : AccRef) (owner : Option (Nat × BitVec 32 × Bool)) :
    exec (.directoryAnswer x owner) st = execDirectoryAnswer x owner st := rfl
theorem exec_flitCrcFail (port : Nat) :
    exec (.flitCrcFail port) st = execFlitCrcFail port st := rfl
theorem exec_linkDown (link : LostLink) :
    exec (.linkDown link) st = execLinkDown link st := rfl
theorem exec_packetHop (x : PacketRef) :
    exec (.packetHop x) st = execPacketHop x st := rfl
theorem exec_fabcfgWrite (v : W64) :
    exec (.fabcfgWrite v) st = execFabcfgWrite v st := rfl
theorem exec_windowAccess (x : AccRef) :
    exec (.windowAccess x) st = execWindowAccess x st := rfl
theorem exec_farSideInAdvance (core ring slot : Nat) :
    exec (.farSideInAdvance core ring slot) st = execFarSideInAdvance core ring slot st := rfl
theorem exec_farSideOutAdvance (core ring : Nat) :
    exec (.farSideOutAdvance core ring) st = execFarSideOutAdvance core ring st := rfl
theorem exec_pdropDone (core ring : Nat) :
    exec (.pdropDone core ring) st = execPdropDone core ring st := rfl
theorem exec_copyJobStart (core job : Nat) :
    exec (.copyJobStart core job) st = execCopyJobStart core job st := rfl
theorem exec_copyPacketIssue (core job k : Nat) :
    exec (.copyPacketIssue core job k) st = execCopyPacketIssue core job k st := rfl
theorem exec_copyPacketPerformed (core job k : Nat) :
    exec (.copyPacketPerformed core job k) st = execCopyPacketPerformed core job k st := rfl
theorem exec_copyJobComplete (core job : Nat) :
    exec (.copyJobComplete core job) st = execCopyJobComplete core job st := rfl
theorem exec_landingStage (core job k : Nat) :
    exec (.landingStage core job k) st = execLandingStage core job k st := rfl
theorem exec_matrixJobStart (core : Nat) :
    exec (.matrixJobStart core) st = execMatrixJobStart core st := rfl
theorem exec_matrixSlabCommit (core : Nat) :
    exec (.matrixSlabCommit core) st = execMatrixSlabCommit core st := rfl
theorem exec_matrixRowCommit (core : Nat) :
    exec (.matrixRowCommit core) st = execMatrixRowCommit core st := rfl
theorem exec_matrixJobComplete (core : Nat) :
    exec (.matrixJobComplete core) st = execMatrixJobComplete core st := rfl
theorem exec_mpassrFetchArrival (core job run : Nat) :
    exec (.mpassrFetchArrival core job run) st = execMpassrFetchArrival core job run st := rfl
theorem exec_rowStage (core job : Nat) :
    exec (.rowStage core job) st = execRowStage core job st := rfl
theorem exec_fenceDone (core : Nat) :
    exec (.fenceDone core) st = execFenceDone core st := rfl
theorem exec_phaseDone (core : Nat) :
    exec (.phaseDone core) st = execPhaseDone core st := rfl
theorem exec_fenrDone (core : Nat) :
    exec (.fenrDone core) st = execFenrDone core st := rfl
theorem exec_endDrainDone (core : Nat) :
    exec (.endDrainDone core) st = execEndDrainDone core st := rfl
theorem exec_spawnReadDone (core : Nat) :
    exec (.spawnReadDone core) st = execSpawnReadDone core st := rfl
theorem exec_mstatDone (core : Nat) :
    exec (.mstatDone core) st = execMstatDone core st := rfl
theorem exec_mcancelDone (core : Nat) :
    exec (.mcancelDone core) st = execMcancelDone core st := rfl
theorem exec_ctxsaveDone (core : Nat) :
    exec (.ctxsaveDone core) st = execCtxsaveDone core st := rfl
theorem exec_ctxloadDone (core : Nat) :
    exec (.ctxloadDone core) st = execCtxloadDone core st := rfl
theorem exec_brkReply (stop : StopRef) (resume : Bool) :
    exec (.brkReply stop resume) st = execBrkReply stop resume st := rfl
theorem exec_scAnnounce :
    exec (.scAnnounce) st = execScAnnounce st := rfl
theorem exec_scDeliver (core id : Nat) :
    exec (.scDeliver core id) st = execScDeliver core id st := rfl
theorem exec_releaseChit (x : ChitRef) :
    exec (.releaseChit x) st = execReleaseChit x st := rfl
theorem exec_depDecr (die : Nat) (k : Nat) :
    exec (.depDecr die k) st = execDepDecr die k st := rfl
theorem exec_barArrive (x : ChitRef) :
    exec (.barArrive x) st = execBarArrive x st := rfl
theorem exec_byteArrive (x : ChitRef) :
    exec (.byteArrive x) st = execByteArrive x st := rfl
theorem exec_tlUpdate (x : ChitRef) :
    exec (.tlUpdate x) st = execTlUpdate x st := rfl
theorem exec_watchArrival (x : WatchRef) :
    exec (.watchArrival x) st = execWatchArrival x st := rfl
theorem exec_askArrival (k : Nat) :
    exec (.askArrival k) st = execAskArrival k st := rfl
theorem exec_askReply (k : Nat) :
    exec (.askReply k) st = execAskReply k st := rfl
theorem exec_crinitArrival (core : Nat) :
    exec (.crinitArrival core) st = execCrinitArrival core st := rfl
theorem exec_crierAnswer (core : Nat) :
    exec (.crierAnswer core) st = execCrierAnswer core st := rfl
theorem exec_launchArrival (l : Launch) :
    exec (.launchArrival l) st = execLaunchArrival l st := rfl
theorem exec_creation (die : Nat) :
    exec (.creation die) st = execCreation die st := rfl
theorem exec_ticketReadDone (die : Nat) :
    exec (.ticketReadDone die) st = execTicketReadDone die st := rfl
theorem exec_dispatch (die : Nat) :
    exec (.dispatch die) st = execDispatch die st := rfl
theorem exec_bell (die : Nat) :
    exec (.bell die) st = execBell die st := rfl
theorem exec_occupancyRefresh (die : Nat) :
    exec (.occupancyRefresh die) st = execOccupancyRefresh die st := rfl
theorem exec_walkHop (k : Nat) :
    exec (.walkHop k) st = execWalkHop k st := rfl
theorem exec_bounceReturn (k : Nat) :
    exec (.bounceReturn k) st = execBounceReturn k st := rfl
theorem exec_barrowTimeout (core k : Nat) :
    exec (.barrowTimeout core k) st = execBarrowTimeout core k st := rfl
theorem exec_admission (core : Nat) :
    exec (.admission core) st = execAdmission core st := rfl
theorem exec_contextFatal (ctx : Ctx) (code : BitVec 8) (detail : W64) :
    exec (.contextFatal ctx code detail) st = execContextFatal ctx code detail st := rfl
theorem exec_cutClose (cut : CutSums) :
    exec (.cutClose cut) st = execCutClose cut st := rfl
theorem exec_powerLoop (targets : List (Nat × Nat)) (retain : List Nat) :
    exec (.powerLoop targets retain) st = execPowerLoop targets retain st := rfl
theorem exec_budWrite (cluster value : Nat) :
    exec (.budWrite cluster value) st = execBudWrite cluster value st := rfl
theorem exec_retreqSet (cluster : Nat) :
    exec (.retreqSet cluster) st = execRetreqSet cluster st := rfl
theorem exec_retreqClear (cluster : Nat) :
    exec (.retreqClear cluster) st = execRetreqClear cluster st := rfl
theorem exec_sensorRead (cluster : Nat) :
    exec (.sensorRead cluster) st = execSensorRead cluster st := rfl
theorem exec_exchangeStatusRead (die : Nat) :
    exec (.exchangeStatusRead die) st = execExchangeStatusRead die st := rfl
theorem exec_arbiterBoundary (cluster : Nat) :
    exec (.arbiterBoundary cluster) st = execArbiterBoundary cluster st := rfl
theorem exec_vectorIdleTimeout (core : Nat) :
    exec (.vectorIdleTimeout core) st = execVectorIdleTimeout core st := rfl
theorem exec_retentionEntryStart (cluster : Nat) :
    exec (.retentionEntryStart cluster) st = execRetentionEntryStart cluster st := rfl
theorem exec_retentionEntryDone (cluster : Nat) :
    exec (.retentionEntryDone cluster) st = execRetentionEntryDone cluster st := rfl
theorem exec_retentionExitDone (cluster : Nat) (parityOk : Bool) :
    exec (.retentionExitDone cluster parityOk) st = execRetentionExitDone cluster parityOk st := rfl
theorem exec_submissionAccept (q : Nat) :
    exec (.submissionAccept q) st = execSubmissionAccept q st := rfl
theorem exec_ticketSubmission (q : Nat) :
    exec (.ticketSubmission q) st = execTicketSubmission q st := rfl
theorem exec_ctxnew (q : Nat) :
    exec (.ctxnew q) st = execCtxnew q st := rfl
theorem exec_ctxkill (q : Nat) :
    exec (.ctxkill q) st = execCtxkill q st := rfl
theorem exec_mapPage (q : Nat) :
    exec (.mapPage q) st = execMapPage q st := rfl
theorem exec_alloc (q : Nat) :
    exec (.alloc q) st = execAlloc q st := rfl
theorem exec_awning (q : Nat) :
    exec (.awning q) st = execAwning q st := rfl
theorem exec_faultvec (q : Nat) :
    exec (.faultvec q) st = execFaultvec q st := rfl
theorem exec_keyput (q : Nat) :
    exec (.keyput q) st = execKeyput q st := rfl
theorem exec_evict (q : Nat) :
    exec (.evict q) st = execEvict q st := rfl
theorem exec_restore (q : Nat) :
    exec (.restore q) st = execRestore q st := rfl
theorem exec_migrate (q : Nat) (peerStatus : Nat) :
    exec (.migrate q peerStatus) st = execMigrate q peerStatus st := rfl
theorem exec_qcreate (q : Nat) :
    exec (.qcreate q) st = execQcreate q st := rfl
theorem exec_qreset (q : Nat) :
    exec (.qreset q) st = execQreset q st := rfl
theorem exec_attest (q : Nat) :
    exec (.attest q) st = execAttest q st := rfl
theorem exec_lifecycle (q : Nat) :
    exec (.lifecycle q) st = execLifecycle q st := rfl
theorem exec_eventWrite (q : Nat) :
    exec (.eventWrite q) st = execEventWrite q st := rfl
theorem exec_moduleReset :
    exec (.moduleReset) st = execModuleReset st := rfl
theorem exec_registerWrite (r : FwReg) (value : Nat) :
    exec (.registerWrite r value) st = execRegisterWrite r value st := rfl
theorem exec_linkTrained (link : Trained) :
    exec (.linkTrained link) st = execLinkTrained link st := rfl
theorem exec_migrationInstall (ctx : Ctx) (page : Nat) (big : Bool) (perms : Fin 16) (gen : BitVec 32) (oldOwner frame : Nat) :
    exec (.migrationInstall ctx page big perms gen oldOwner frame) st = execMigrationInstall ctx page big perms gen oldOwner frame st := rfl

end Sys2Proof.Machine
end

