-- ==== Sys2Proof/Laws/Issue.lean ====
section
/-! SUPPORT. Laws/Issue.lean: what `issue` answers, once for each path of a word (R207, R209, R448). -/

namespace Sys2Proof.Machine

variable {s t : State} {w : Window} {h : Hdr} {forced : Bool} {dst : List Dst} {body : State → Window → Res}

@[simp] theorem guard_begun : w.begun.guard h = w.guard h := rfl

/-- A word that issues and whose effect succeeds. -/
theorem issue_ok (hi : Issues s w h forced) (hb : body (s.begun w dst) w.begun = .ok t) :
    issue h forced dst s body = .next t := by
  obtain ⟨ht, hf, hg⟩ := hi
  unfold issue
  rw [ht]
  have hm : ((h.sw || forced) && s.me.outstanding w.fr) = false := by
    cases hc : (h.sw || forced)
    · rfl
    · simpa using hf hc
  simp only [hm, Bool.false_eq_true, if_false]
  have hg' : ({ w with park := none, fresh := false } : Window).guard h = true := hg
  rw [if_pos hg']
  have hb' : body ((s.setTop { w with park := none, fresh := false }).modMe fun k =>
      { k with pend := k.pend.map fun p => dst.foldl (fun p d => p.discard w.wid d) p })
      { w with park := none, fresh := false } = .ok t := hb
  simp only [hb']

/-- A word that issues and whose effect is a local fault (R448). -/
theorem issue_fault {f : FaultInfo} (hi : Issues s w h forced) (hb : body (s.begun w dst) w.begun = .fault f) :
    issue h forced dst s body = .next (s.took w f) := by
  obtain ⟨ht, hf, hg⟩ := hi
  unfold issue
  rw [ht]
  have hm : ((h.sw || forced) && s.me.outstanding w.fr) = false := by
    cases hc : (h.sw || forced)
    · rfl
    · simpa using hf hc
  simp only [hm, Bool.false_eq_true, if_false]
  have hg' : ({ w with park := none, fresh := false } : Window).guard h = true := hg
  rw [if_pos hg']
  have hb' : body ((s.setTop { w with park := none, fresh := false }).modMe fun k =>
      { k with pend := k.pend.map fun p => dst.foldl (fun p d => p.discard w.wid d) p })
      { w with park := none, fresh := false } = .fault f := hb
  simp only [hb']
  rfl

/-- A word whose guard is false advances the PC and does nothing else (R207). -/
theorem issue_skip (ht : s.top = some w) (hf : (h.sw || forced) = true → s.me.outstanding w.fr = false)
    (hg : w.guard h = false) : issue h forced dst s body = .next ((s.begun w dst).setTop w.begun.advance) := by
  unfold issue
  rw [ht]
  have hm : ((h.sw || forced) && s.me.outstanding w.fr) = false := by
    cases hc : (h.sw || forced)
    · rfl
    · simpa using hf hc
  simp only [hm, Bool.false_eq_true, if_false]
  have hg' : ¬ ({ w with park := none, fresh := false } : Window).guard h = true := by
    simpa [Window.guard, Window.rdP] using hg
  rw [if_neg hg']
  rfl

/-- A marked word with an outstanding result waits (R209). -/
theorem issue_marked (ht : s.top = some w) (hm : (h.sw || forced) = true) (ho : s.me.outstanding w.fr = true) :
    issue h forced dst s body = .next (s.parkTop .marker) := by
  unfold issue
  rw [ht]
  simp [hm, ho]

/-- `issue` always answers a next state. -/
theorem issue_next : ∃ u, issue h forced dst s body = .next u := by
  unfold issue
  split
  · exact ⟨_, rfl⟩
  · dsimp only
    split
    · exact ⟨_, rfl⟩
    · split
      · split <;> exact ⟨_, rfl⟩
      · exact ⟨_, rfl⟩

end Sys2Proof.Machine
end

