-- ==== Sys2Proof/Laws/State.lean ====
section
/-! SUPPORT. Laws/State.lean: one lemma for each field under each update of the state, of a core and of a window. -/

namespace Sys2Proof.Machine

/-! ### `State.setCore` -/

@[simp] theorem State.setCore_cur (s : State) (c : Nat) (k : Core) : (s.setCore c k).cur = s.cur := rfl
@[simp] theorem State.setCore_agenda (s : State) (c : Nat) (k : Core) : (s.setCore c k).agenda = s.agenda := rfl
@[simp] theorem State.setCore_free (s : State) (c : Nat) (k : Core) : (s.setCore c k).free = s.free := rfl
@[simp] theorem State.setCore_tick (s : State) (c : Nat) (k : Core) : (s.setCore c k).tick = s.tick := rfl
@[simp] theorem State.setCore_slices (s : State) (c : Nat) (k : Core) : (s.setCore c k).slices = s.slices := rfl
@[simp] theorem State.setCore_clusters (s : State) (c : Nat) (k : Core) : (s.setCore c k).clusters = s.clusters := rfl
@[simp] theorem State.setCore_mem (s : State) (c : Nat) (k : Core) : (s.setCore c k).mem = s.mem := rfl
@[simp] theorem State.setCore_mtags (s : State) (c : Nat) (k : Core) : (s.setCore c k).mtags = s.mtags := rfl
@[simp] theorem State.setCore_host (s : State) (c : Nat) (k : Core) : (s.setCore c k).host = s.host := rfl
@[simp] theorem State.setCore_contexts (s : State) (c : Nat) (k : Core) : (s.setCore c k).contexts = s.contexts := rfl
@[simp] theorem State.setCore_exchanges (s : State) (c : Nat) (k : Core) : (s.setCore c k).exchanges = s.exchanges := rfl
@[simp] theorem State.setCore_criers (s : State) (c : Nat) (k : Core) : (s.setCore c k).criers = s.criers := rfl
@[simp] theorem State.setCore_walks (s : State) (c : Nat) (k : Core) : (s.setCore c k).walks = s.walks := rfl
@[simp] theorem State.setCore_chits (s : State) (c : Nat) (k : Core) : (s.setCore c k).chits = s.chits := rfl
@[simp] theorem State.setCore_asks (s : State) (c : Nat) (k : Core) : (s.setCore c k).asks = s.asks := rfl
@[simp] theorem State.setCore_askBacks (s : State) (c : Nat) (k : Core) : (s.setCore c k).askBacks = s.askBacks := rfl
@[simp] theorem State.setCore_watchMsgs (s : State) (c : Nat) (k : Core) : (s.setCore c k).watchMsgs = s.watchMsgs := rfl
@[simp] theorem State.setCore_scForms (s : State) (c : Nat) (k : Core) : (s.setCore c k).scForms = s.scForms := rfl
@[simp] theorem State.setCore_nextId (s : State) (c : Nat) (k : Core) : (s.setCore c k).nextId = s.nextId := rfl
@[simp] theorem State.setCore_dev (s : State) (c : Nat) (k : Core) : (s.setCore c k).dev = s.dev := rfl
@[simp] theorem State.setCore_fabcfg (s : State) (c : Nat) (k : Core) : (s.setCore c k).fabcfg = s.fabcfg := rfl
@[simp] theorem State.setCore_doubling (s : State) (c : Nat) (k : Core) : (s.setCore c k).doubling = s.doubling := rfl
@[simp] theorem State.setCore_routes (s : State) (c : Nat) (k : Core) : (s.setCore c k).routes = s.routes := rfl
@[simp] theorem State.setCore_ports (s : State) (c : Nat) (k : Core) : (s.setCore c k).ports = s.ports := rfl
@[simp] theorem State.setCore_packets (s : State) (c : Nat) (k : Core) : (s.setCore c k).packets = s.packets := rfl
@[simp] theorem State.setCore_out (s : State) (c : Nat) (k : Core) : (s.setCore c k).out = s.out := rfl
@[simp] theorem State.setCore_owners (s : State) (c : Nat) (k : Core) : (s.setCore c k).owners = s.owners := rfl
@[simp] theorem State.setCore_owned (s : State) (c : Nat) (k : Core) : (s.setCore c k).owned = s.owned := rfl
@[simp] theorem State.setCore_pageOrder (s : State) (c : Nat) (k : Core) : (s.setCore c k).pageOrder = s.pageOrder := rfl
@[simp] theorem State.setCore_acksDue (s : State) (c : Nat) (k : Core) : (s.setCore c k).acksDue = s.acksDue := rfl
@[simp] theorem State.setCore_migcfg (s : State) (c : Nat) (k : Core) : (s.setCore c k).migcfg = s.migcfg := rfl
@[simp] theorem State.setCore_holds (s : State) (c : Nat) (k : Core) : (s.setCore c k).holds = s.holds := rfl
@[simp] theorem State.setCore_migrations (s : State) (c : Nat) (k : Core) : (s.setCore c k).migrations = s.migrations := rfl
@[simp] theorem State.setCore_installs (s : State) (c : Nat) (k : Core) : (s.setCore c k).installs = s.installs := rfl
@[simp] theorem State.setCore_relays (s : State) (c : Nat) (k : Core) : (s.setCore c k).relays = s.relays := rfl
@[simp] theorem State.setCore_stubSent (s : State) (c : Nat) (k : Core) : (s.setCore c k).stubSent = s.stubSent := rfl
@[simp] theorem State.setCore_queues (s : State) (c : Nat) (k : Core) : (s.setCore c k).queues = s.queues := rfl
@[simp] theorem State.setCore_evicts (s : State) (c : Nat) (k : Core) : (s.setCore c k).evicts = s.evicts := rfl
@[simp] theorem State.setCore_held (s : State) (c : Nat) (k : Core) : (s.setCore c k).held = s.held := rfl
@[simp] theorem State.setCore_mail (s : State) (c : Nat) (k : Core) : (s.setCore c k).mail = s.mail := rfl
@[simp] theorem State.setCore_sysMem (s : State) (c : Nat) (k : Core) : (s.setCore c k).sysMem = s.sysMem := rfl
@[simp] theorem State.setCore_fwRead (s : State) (c : Nat) (k : Core) : (s.setCore c k).fwRead = s.fwRead := rfl
@[simp] theorem State.setCore_saves (s : State) (c : Nat) (k : Core) : (s.setCore c k).saves = s.saves := rfl
@[simp] theorem State.setCore_am (s : State) (c : Nat) (k : Core) : (s.setCore c k).am = s.am := rfl
@[simp] theorem State.setCore_life (s : State) (c : Nat) (k : Core) : (s.setCore c k).life = s.life := rfl
@[simp] theorem State.setCore_flash (s : State) (c : Nat) (k : Core) : (s.setCore c k).flash = s.flash := rfl
@[simp] theorem State.setCore_keyHash (s : State) (c : Nat) (k : Core) : (s.setCore c k).keyHash = s.keyHash := rfl
@[simp] theorem State.setCore_rollback (s : State) (c : Nat) (k : Core) : (s.setCore c k).rollback = s.rollback := rfl

/-! ### `State.modCore` -/

@[simp] theorem State.modCore_cur (s : State) (c : Nat) (f : Core → Core) : (s.modCore c f).cur = s.cur := rfl
@[simp] theorem State.modCore_agenda (s : State) (c : Nat) (f : Core → Core) : (s.modCore c f).agenda = s.agenda := rfl
@[simp] theorem State.modCore_free (s : State) (c : Nat) (f : Core → Core) : (s.modCore c f).free = s.free := rfl
@[simp] theorem State.modCore_tick (s : State) (c : Nat) (f : Core → Core) : (s.modCore c f).tick = s.tick := rfl
@[simp] theorem State.modCore_slices (s : State) (c : Nat) (f : Core → Core) : (s.modCore c f).slices = s.slices := rfl
@[simp] theorem State.modCore_clusters (s : State) (c : Nat) (f : Core → Core) : (s.modCore c f).clusters = s.clusters := rfl
@[simp] theorem State.modCore_mem (s : State) (c : Nat) (f : Core → Core) : (s.modCore c f).mem = s.mem := rfl
@[simp] theorem State.modCore_mtags (s : State) (c : Nat) (f : Core → Core) : (s.modCore c f).mtags = s.mtags := rfl
@[simp] theorem State.modCore_host (s : State) (c : Nat) (f : Core → Core) : (s.modCore c f).host = s.host := rfl
@[simp] theorem State.modCore_contexts (s : State) (c : Nat) (f : Core → Core) : (s.modCore c f).contexts = s.contexts := rfl
@[simp] theorem State.modCore_exchanges (s : State) (c : Nat) (f : Core → Core) : (s.modCore c f).exchanges = s.exchanges := rfl
@[simp] theorem State.modCore_criers (s : State) (c : Nat) (f : Core → Core) : (s.modCore c f).criers = s.criers := rfl
@[simp] theorem State.modCore_walks (s : State) (c : Nat) (f : Core → Core) : (s.modCore c f).walks = s.walks := rfl
@[simp] theorem State.modCore_chits (s : State) (c : Nat) (f : Core → Core) : (s.modCore c f).chits = s.chits := rfl
@[simp] theorem State.modCore_asks (s : State) (c : Nat) (f : Core → Core) : (s.modCore c f).asks = s.asks := rfl
@[simp] theorem State.modCore_askBacks (s : State) (c : Nat) (f : Core → Core) : (s.modCore c f).askBacks = s.askBacks := rfl
@[simp] theorem State.modCore_watchMsgs (s : State) (c : Nat) (f : Core → Core) : (s.modCore c f).watchMsgs = s.watchMsgs := rfl
@[simp] theorem State.modCore_scForms (s : State) (c : Nat) (f : Core → Core) : (s.modCore c f).scForms = s.scForms := rfl
@[simp] theorem State.modCore_nextId (s : State) (c : Nat) (f : Core → Core) : (s.modCore c f).nextId = s.nextId := rfl
@[simp] theorem State.modCore_dev (s : State) (c : Nat) (f : Core → Core) : (s.modCore c f).dev = s.dev := rfl
@[simp] theorem State.modCore_fabcfg (s : State) (c : Nat) (f : Core → Core) : (s.modCore c f).fabcfg = s.fabcfg := rfl
@[simp] theorem State.modCore_doubling (s : State) (c : Nat) (f : Core → Core) : (s.modCore c f).doubling = s.doubling := rfl
@[simp] theorem State.modCore_routes (s : State) (c : Nat) (f : Core → Core) : (s.modCore c f).routes = s.routes := rfl
@[simp] theorem State.modCore_ports (s : State) (c : Nat) (f : Core → Core) : (s.modCore c f).ports = s.ports := rfl
@[simp] theorem State.modCore_packets (s : State) (c : Nat) (f : Core → Core) : (s.modCore c f).packets = s.packets := rfl
@[simp] theorem State.modCore_out (s : State) (c : Nat) (f : Core → Core) : (s.modCore c f).out = s.out := rfl
@[simp] theorem State.modCore_owners (s : State) (c : Nat) (f : Core → Core) : (s.modCore c f).owners = s.owners := rfl
@[simp] theorem State.modCore_owned (s : State) (c : Nat) (f : Core → Core) : (s.modCore c f).owned = s.owned := rfl
@[simp] theorem State.modCore_pageOrder (s : State) (c : Nat) (f : Core → Core) : (s.modCore c f).pageOrder = s.pageOrder := rfl
@[simp] theorem State.modCore_acksDue (s : State) (c : Nat) (f : Core → Core) : (s.modCore c f).acksDue = s.acksDue := rfl
@[simp] theorem State.modCore_migcfg (s : State) (c : Nat) (f : Core → Core) : (s.modCore c f).migcfg = s.migcfg := rfl
@[simp] theorem State.modCore_holds (s : State) (c : Nat) (f : Core → Core) : (s.modCore c f).holds = s.holds := rfl
@[simp] theorem State.modCore_migrations (s : State) (c : Nat) (f : Core → Core) : (s.modCore c f).migrations = s.migrations := rfl
@[simp] theorem State.modCore_installs (s : State) (c : Nat) (f : Core → Core) : (s.modCore c f).installs = s.installs := rfl
@[simp] theorem State.modCore_relays (s : State) (c : Nat) (f : Core → Core) : (s.modCore c f).relays = s.relays := rfl
@[simp] theorem State.modCore_stubSent (s : State) (c : Nat) (f : Core → Core) : (s.modCore c f).stubSent = s.stubSent := rfl
@[simp] theorem State.modCore_queues (s : State) (c : Nat) (f : Core → Core) : (s.modCore c f).queues = s.queues := rfl
@[simp] theorem State.modCore_evicts (s : State) (c : Nat) (f : Core → Core) : (s.modCore c f).evicts = s.evicts := rfl
@[simp] theorem State.modCore_held (s : State) (c : Nat) (f : Core → Core) : (s.modCore c f).held = s.held := rfl
@[simp] theorem State.modCore_mail (s : State) (c : Nat) (f : Core → Core) : (s.modCore c f).mail = s.mail := rfl
@[simp] theorem State.modCore_sysMem (s : State) (c : Nat) (f : Core → Core) : (s.modCore c f).sysMem = s.sysMem := rfl
@[simp] theorem State.modCore_fwRead (s : State) (c : Nat) (f : Core → Core) : (s.modCore c f).fwRead = s.fwRead := rfl
@[simp] theorem State.modCore_saves (s : State) (c : Nat) (f : Core → Core) : (s.modCore c f).saves = s.saves := rfl
@[simp] theorem State.modCore_am (s : State) (c : Nat) (f : Core → Core) : (s.modCore c f).am = s.am := rfl
@[simp] theorem State.modCore_life (s : State) (c : Nat) (f : Core → Core) : (s.modCore c f).life = s.life := rfl
@[simp] theorem State.modCore_flash (s : State) (c : Nat) (f : Core → Core) : (s.modCore c f).flash = s.flash := rfl
@[simp] theorem State.modCore_keyHash (s : State) (c : Nat) (f : Core → Core) : (s.modCore c f).keyHash = s.keyHash := rfl
@[simp] theorem State.modCore_rollback (s : State) (c : Nat) (f : Core → Core) : (s.modCore c f).rollback = s.rollback := rfl

/-! ### `State.modMe` -/

@[simp] theorem State.modMe_cur (s : State) (f : Core → Core) : (s.modMe f).cur = s.cur := rfl
@[simp] theorem State.modMe_agenda (s : State) (f : Core → Core) : (s.modMe f).agenda = s.agenda := rfl
@[simp] theorem State.modMe_free (s : State) (f : Core → Core) : (s.modMe f).free = s.free := rfl
@[simp] theorem State.modMe_tick (s : State) (f : Core → Core) : (s.modMe f).tick = s.tick := rfl
@[simp] theorem State.modMe_slices (s : State) (f : Core → Core) : (s.modMe f).slices = s.slices := rfl
@[simp] theorem State.modMe_clusters (s : State) (f : Core → Core) : (s.modMe f).clusters = s.clusters := rfl
@[simp] theorem State.modMe_mem (s : State) (f : Core → Core) : (s.modMe f).mem = s.mem := rfl
@[simp] theorem State.modMe_mtags (s : State) (f : Core → Core) : (s.modMe f).mtags = s.mtags := rfl
@[simp] theorem State.modMe_host (s : State) (f : Core → Core) : (s.modMe f).host = s.host := rfl
@[simp] theorem State.modMe_contexts (s : State) (f : Core → Core) : (s.modMe f).contexts = s.contexts := rfl
@[simp] theorem State.modMe_exchanges (s : State) (f : Core → Core) : (s.modMe f).exchanges = s.exchanges := rfl
@[simp] theorem State.modMe_criers (s : State) (f : Core → Core) : (s.modMe f).criers = s.criers := rfl
@[simp] theorem State.modMe_walks (s : State) (f : Core → Core) : (s.modMe f).walks = s.walks := rfl
@[simp] theorem State.modMe_chits (s : State) (f : Core → Core) : (s.modMe f).chits = s.chits := rfl
@[simp] theorem State.modMe_asks (s : State) (f : Core → Core) : (s.modMe f).asks = s.asks := rfl
@[simp] theorem State.modMe_askBacks (s : State) (f : Core → Core) : (s.modMe f).askBacks = s.askBacks := rfl
@[simp] theorem State.modMe_watchMsgs (s : State) (f : Core → Core) : (s.modMe f).watchMsgs = s.watchMsgs := rfl
@[simp] theorem State.modMe_scForms (s : State) (f : Core → Core) : (s.modMe f).scForms = s.scForms := rfl
@[simp] theorem State.modMe_nextId (s : State) (f : Core → Core) : (s.modMe f).nextId = s.nextId := rfl
@[simp] theorem State.modMe_dev (s : State) (f : Core → Core) : (s.modMe f).dev = s.dev := rfl
@[simp] theorem State.modMe_fabcfg (s : State) (f : Core → Core) : (s.modMe f).fabcfg = s.fabcfg := rfl
@[simp] theorem State.modMe_doubling (s : State) (f : Core → Core) : (s.modMe f).doubling = s.doubling := rfl
@[simp] theorem State.modMe_routes (s : State) (f : Core → Core) : (s.modMe f).routes = s.routes := rfl
@[simp] theorem State.modMe_ports (s : State) (f : Core → Core) : (s.modMe f).ports = s.ports := rfl
@[simp] theorem State.modMe_packets (s : State) (f : Core → Core) : (s.modMe f).packets = s.packets := rfl
@[simp] theorem State.modMe_out (s : State) (f : Core → Core) : (s.modMe f).out = s.out := rfl
@[simp] theorem State.modMe_owners (s : State) (f : Core → Core) : (s.modMe f).owners = s.owners := rfl
@[simp] theorem State.modMe_owned (s : State) (f : Core → Core) : (s.modMe f).owned = s.owned := rfl
@[simp] theorem State.modMe_pageOrder (s : State) (f : Core → Core) : (s.modMe f).pageOrder = s.pageOrder := rfl
@[simp] theorem State.modMe_acksDue (s : State) (f : Core → Core) : (s.modMe f).acksDue = s.acksDue := rfl
@[simp] theorem State.modMe_migcfg (s : State) (f : Core → Core) : (s.modMe f).migcfg = s.migcfg := rfl
@[simp] theorem State.modMe_holds (s : State) (f : Core → Core) : (s.modMe f).holds = s.holds := rfl
@[simp] theorem State.modMe_migrations (s : State) (f : Core → Core) : (s.modMe f).migrations = s.migrations := rfl
@[simp] theorem State.modMe_installs (s : State) (f : Core → Core) : (s.modMe f).installs = s.installs := rfl
@[simp] theorem State.modMe_relays (s : State) (f : Core → Core) : (s.modMe f).relays = s.relays := rfl
@[simp] theorem State.modMe_stubSent (s : State) (f : Core → Core) : (s.modMe f).stubSent = s.stubSent := rfl
@[simp] theorem State.modMe_queues (s : State) (f : Core → Core) : (s.modMe f).queues = s.queues := rfl
@[simp] theorem State.modMe_evicts (s : State) (f : Core → Core) : (s.modMe f).evicts = s.evicts := rfl
@[simp] theorem State.modMe_held (s : State) (f : Core → Core) : (s.modMe f).held = s.held := rfl
@[simp] theorem State.modMe_mail (s : State) (f : Core → Core) : (s.modMe f).mail = s.mail := rfl
@[simp] theorem State.modMe_sysMem (s : State) (f : Core → Core) : (s.modMe f).sysMem = s.sysMem := rfl
@[simp] theorem State.modMe_fwRead (s : State) (f : Core → Core) : (s.modMe f).fwRead = s.fwRead := rfl
@[simp] theorem State.modMe_saves (s : State) (f : Core → Core) : (s.modMe f).saves = s.saves := rfl
@[simp] theorem State.modMe_am (s : State) (f : Core → Core) : (s.modMe f).am = s.am := rfl
@[simp] theorem State.modMe_life (s : State) (f : Core → Core) : (s.modMe f).life = s.life := rfl
@[simp] theorem State.modMe_flash (s : State) (f : Core → Core) : (s.modMe f).flash = s.flash := rfl
@[simp] theorem State.modMe_keyHash (s : State) (f : Core → Core) : (s.modMe f).keyHash = s.keyHash := rfl
@[simp] theorem State.modMe_rollback (s : State) (f : Core → Core) : (s.modMe f).rollback = s.rollback := rfl

/-! ### `State.setTop` -/

@[simp] theorem State.setTop_cur (s : State) (w : Window) : (s.setTop w).cur = s.cur := rfl
@[simp] theorem State.setTop_agenda (s : State) (w : Window) : (s.setTop w).agenda = s.agenda := rfl
@[simp] theorem State.setTop_free (s : State) (w : Window) : (s.setTop w).free = s.free := rfl
@[simp] theorem State.setTop_tick (s : State) (w : Window) : (s.setTop w).tick = s.tick := rfl
@[simp] theorem State.setTop_slices (s : State) (w : Window) : (s.setTop w).slices = s.slices := rfl
@[simp] theorem State.setTop_clusters (s : State) (w : Window) : (s.setTop w).clusters = s.clusters := rfl
@[simp] theorem State.setTop_mem (s : State) (w : Window) : (s.setTop w).mem = s.mem := rfl
@[simp] theorem State.setTop_mtags (s : State) (w : Window) : (s.setTop w).mtags = s.mtags := rfl
@[simp] theorem State.setTop_host (s : State) (w : Window) : (s.setTop w).host = s.host := rfl
@[simp] theorem State.setTop_contexts (s : State) (w : Window) : (s.setTop w).contexts = s.contexts := rfl
@[simp] theorem State.setTop_exchanges (s : State) (w : Window) : (s.setTop w).exchanges = s.exchanges := rfl
@[simp] theorem State.setTop_criers (s : State) (w : Window) : (s.setTop w).criers = s.criers := rfl
@[simp] theorem State.setTop_walks (s : State) (w : Window) : (s.setTop w).walks = s.walks := rfl
@[simp] theorem State.setTop_chits (s : State) (w : Window) : (s.setTop w).chits = s.chits := rfl
@[simp] theorem State.setTop_asks (s : State) (w : Window) : (s.setTop w).asks = s.asks := rfl
@[simp] theorem State.setTop_askBacks (s : State) (w : Window) : (s.setTop w).askBacks = s.askBacks := rfl
@[simp] theorem State.setTop_watchMsgs (s : State) (w : Window) : (s.setTop w).watchMsgs = s.watchMsgs := rfl
@[simp] theorem State.setTop_scForms (s : State) (w : Window) : (s.setTop w).scForms = s.scForms := rfl
@[simp] theorem State.setTop_nextId (s : State) (w : Window) : (s.setTop w).nextId = s.nextId := rfl
@[simp] theorem State.setTop_dev (s : State) (w : Window) : (s.setTop w).dev = s.dev := rfl
@[simp] theorem State.setTop_fabcfg (s : State) (w : Window) : (s.setTop w).fabcfg = s.fabcfg := rfl
@[simp] theorem State.setTop_doubling (s : State) (w : Window) : (s.setTop w).doubling = s.doubling := rfl
@[simp] theorem State.setTop_routes (s : State) (w : Window) : (s.setTop w).routes = s.routes := rfl
@[simp] theorem State.setTop_ports (s : State) (w : Window) : (s.setTop w).ports = s.ports := rfl
@[simp] theorem State.setTop_packets (s : State) (w : Window) : (s.setTop w).packets = s.packets := rfl
@[simp] theorem State.setTop_out (s : State) (w : Window) : (s.setTop w).out = s.out := rfl
@[simp] theorem State.setTop_owners (s : State) (w : Window) : (s.setTop w).owners = s.owners := rfl
@[simp] theorem State.setTop_owned (s : State) (w : Window) : (s.setTop w).owned = s.owned := rfl
@[simp] theorem State.setTop_pageOrder (s : State) (w : Window) : (s.setTop w).pageOrder = s.pageOrder := rfl
@[simp] theorem State.setTop_acksDue (s : State) (w : Window) : (s.setTop w).acksDue = s.acksDue := rfl
@[simp] theorem State.setTop_migcfg (s : State) (w : Window) : (s.setTop w).migcfg = s.migcfg := rfl
@[simp] theorem State.setTop_holds (s : State) (w : Window) : (s.setTop w).holds = s.holds := rfl
@[simp] theorem State.setTop_migrations (s : State) (w : Window) : (s.setTop w).migrations = s.migrations := rfl
@[simp] theorem State.setTop_installs (s : State) (w : Window) : (s.setTop w).installs = s.installs := rfl
@[simp] theorem State.setTop_relays (s : State) (w : Window) : (s.setTop w).relays = s.relays := rfl
@[simp] theorem State.setTop_stubSent (s : State) (w : Window) : (s.setTop w).stubSent = s.stubSent := rfl
@[simp] theorem State.setTop_queues (s : State) (w : Window) : (s.setTop w).queues = s.queues := rfl
@[simp] theorem State.setTop_evicts (s : State) (w : Window) : (s.setTop w).evicts = s.evicts := rfl
@[simp] theorem State.setTop_held (s : State) (w : Window) : (s.setTop w).held = s.held := rfl
@[simp] theorem State.setTop_mail (s : State) (w : Window) : (s.setTop w).mail = s.mail := rfl
@[simp] theorem State.setTop_sysMem (s : State) (w : Window) : (s.setTop w).sysMem = s.sysMem := rfl
@[simp] theorem State.setTop_fwRead (s : State) (w : Window) : (s.setTop w).fwRead = s.fwRead := rfl
@[simp] theorem State.setTop_saves (s : State) (w : Window) : (s.setTop w).saves = s.saves := rfl
@[simp] theorem State.setTop_am (s : State) (w : Window) : (s.setTop w).am = s.am := rfl
@[simp] theorem State.setTop_life (s : State) (w : Window) : (s.setTop w).life = s.life := rfl
@[simp] theorem State.setTop_flash (s : State) (w : Window) : (s.setTop w).flash = s.flash := rfl
@[simp] theorem State.setTop_keyHash (s : State) (w : Window) : (s.setTop w).keyHash = s.keyHash := rfl
@[simp] theorem State.setTop_rollback (s : State) (w : Window) : (s.setTop w).rollback = s.rollback := rfl

/-! ### `State.modSlice` -/

@[simp] theorem State.modSlice_cur (s : State) (c : Nat) (f : Slice → Slice) : (s.modSlice c f).cur = s.cur := rfl
@[simp] theorem State.modSlice_agenda (s : State) (c : Nat) (f : Slice → Slice) : (s.modSlice c f).agenda = s.agenda := rfl
@[simp] theorem State.modSlice_free (s : State) (c : Nat) (f : Slice → Slice) : (s.modSlice c f).free = s.free := rfl
@[simp] theorem State.modSlice_tick (s : State) (c : Nat) (f : Slice → Slice) : (s.modSlice c f).tick = s.tick := rfl
@[simp] theorem State.modSlice_cores (s : State) (c : Nat) (f : Slice → Slice) : (s.modSlice c f).cores = s.cores := rfl
@[simp] theorem State.modSlice_clusters (s : State) (c : Nat) (f : Slice → Slice) : (s.modSlice c f).clusters = s.clusters := rfl
@[simp] theorem State.modSlice_mem (s : State) (c : Nat) (f : Slice → Slice) : (s.modSlice c f).mem = s.mem := rfl
@[simp] theorem State.modSlice_mtags (s : State) (c : Nat) (f : Slice → Slice) : (s.modSlice c f).mtags = s.mtags := rfl
@[simp] theorem State.modSlice_host (s : State) (c : Nat) (f : Slice → Slice) : (s.modSlice c f).host = s.host := rfl
@[simp] theorem State.modSlice_contexts (s : State) (c : Nat) (f : Slice → Slice) : (s.modSlice c f).contexts = s.contexts := rfl
@[simp] theorem State.modSlice_exchanges (s : State) (c : Nat) (f : Slice → Slice) : (s.modSlice c f).exchanges = s.exchanges := rfl
@[simp] theorem State.modSlice_criers (s : State) (c : Nat) (f : Slice → Slice) : (s.modSlice c f).criers = s.criers := rfl
@[simp] theorem State.modSlice_walks (s : State) (c : Nat) (f : Slice → Slice) : (s.modSlice c f).walks = s.walks := rfl
@[simp] theorem State.modSlice_chits (s : State) (c : Nat) (f : Slice → Slice) : (s.modSlice c f).chits = s.chits := rfl
@[simp] theorem State.modSlice_asks (s : State) (c : Nat) (f : Slice → Slice) : (s.modSlice c f).asks = s.asks := rfl
@[simp] theorem State.modSlice_askBacks (s : State) (c : Nat) (f : Slice → Slice) : (s.modSlice c f).askBacks = s.askBacks := rfl
@[simp] theorem State.modSlice_watchMsgs (s : State) (c : Nat) (f : Slice → Slice) : (s.modSlice c f).watchMsgs = s.watchMsgs := rfl
@[simp] theorem State.modSlice_scForms (s : State) (c : Nat) (f : Slice → Slice) : (s.modSlice c f).scForms = s.scForms := rfl
@[simp] theorem State.modSlice_nextId (s : State) (c : Nat) (f : Slice → Slice) : (s.modSlice c f).nextId = s.nextId := rfl
@[simp] theorem State.modSlice_dev (s : State) (c : Nat) (f : Slice → Slice) : (s.modSlice c f).dev = s.dev := rfl
@[simp] theorem State.modSlice_fabcfg (s : State) (c : Nat) (f : Slice → Slice) : (s.modSlice c f).fabcfg = s.fabcfg := rfl
@[simp] theorem State.modSlice_doubling (s : State) (c : Nat) (f : Slice → Slice) : (s.modSlice c f).doubling = s.doubling := rfl
@[simp] theorem State.modSlice_routes (s : State) (c : Nat) (f : Slice → Slice) : (s.modSlice c f).routes = s.routes := rfl
@[simp] theorem State.modSlice_ports (s : State) (c : Nat) (f : Slice → Slice) : (s.modSlice c f).ports = s.ports := rfl
@[simp] theorem State.modSlice_packets (s : State) (c : Nat) (f : Slice → Slice) : (s.modSlice c f).packets = s.packets := rfl
@[simp] theorem State.modSlice_out (s : State) (c : Nat) (f : Slice → Slice) : (s.modSlice c f).out = s.out := rfl
@[simp] theorem State.modSlice_owners (s : State) (c : Nat) (f : Slice → Slice) : (s.modSlice c f).owners = s.owners := rfl
@[simp] theorem State.modSlice_owned (s : State) (c : Nat) (f : Slice → Slice) : (s.modSlice c f).owned = s.owned := rfl
@[simp] theorem State.modSlice_pageOrder (s : State) (c : Nat) (f : Slice → Slice) : (s.modSlice c f).pageOrder = s.pageOrder := rfl
@[simp] theorem State.modSlice_acksDue (s : State) (c : Nat) (f : Slice → Slice) : (s.modSlice c f).acksDue = s.acksDue := rfl
@[simp] theorem State.modSlice_migcfg (s : State) (c : Nat) (f : Slice → Slice) : (s.modSlice c f).migcfg = s.migcfg := rfl
@[simp] theorem State.modSlice_holds (s : State) (c : Nat) (f : Slice → Slice) : (s.modSlice c f).holds = s.holds := rfl
@[simp] theorem State.modSlice_migrations (s : State) (c : Nat) (f : Slice → Slice) : (s.modSlice c f).migrations = s.migrations := rfl
@[simp] theorem State.modSlice_installs (s : State) (c : Nat) (f : Slice → Slice) : (s.modSlice c f).installs = s.installs := rfl
@[simp] theorem State.modSlice_relays (s : State) (c : Nat) (f : Slice → Slice) : (s.modSlice c f).relays = s.relays := rfl
@[simp] theorem State.modSlice_stubSent (s : State) (c : Nat) (f : Slice → Slice) : (s.modSlice c f).stubSent = s.stubSent := rfl
@[simp] theorem State.modSlice_queues (s : State) (c : Nat) (f : Slice → Slice) : (s.modSlice c f).queues = s.queues := rfl
@[simp] theorem State.modSlice_evicts (s : State) (c : Nat) (f : Slice → Slice) : (s.modSlice c f).evicts = s.evicts := rfl
@[simp] theorem State.modSlice_held (s : State) (c : Nat) (f : Slice → Slice) : (s.modSlice c f).held = s.held := rfl
@[simp] theorem State.modSlice_mail (s : State) (c : Nat) (f : Slice → Slice) : (s.modSlice c f).mail = s.mail := rfl
@[simp] theorem State.modSlice_sysMem (s : State) (c : Nat) (f : Slice → Slice) : (s.modSlice c f).sysMem = s.sysMem := rfl
@[simp] theorem State.modSlice_fwRead (s : State) (c : Nat) (f : Slice → Slice) : (s.modSlice c f).fwRead = s.fwRead := rfl
@[simp] theorem State.modSlice_saves (s : State) (c : Nat) (f : Slice → Slice) : (s.modSlice c f).saves = s.saves := rfl
@[simp] theorem State.modSlice_am (s : State) (c : Nat) (f : Slice → Slice) : (s.modSlice c f).am = s.am := rfl
@[simp] theorem State.modSlice_life (s : State) (c : Nat) (f : Slice → Slice) : (s.modSlice c f).life = s.life := rfl
@[simp] theorem State.modSlice_flash (s : State) (c : Nat) (f : Slice → Slice) : (s.modSlice c f).flash = s.flash := rfl
@[simp] theorem State.modSlice_keyHash (s : State) (c : Nat) (f : Slice → Slice) : (s.modSlice c f).keyHash = s.keyHash := rfl
@[simp] theorem State.modSlice_rollback (s : State) (c : Nat) (f : Slice → Slice) : (s.modSlice c f).rollback = s.rollback := rfl

/-! ### `State.modCluster` -/

@[simp] theorem State.modCluster_cur (s : State) (c : Nat) (f : Cluster → Cluster) : (s.modCluster c f).cur = s.cur := rfl
@[simp] theorem State.modCluster_agenda (s : State) (c : Nat) (f : Cluster → Cluster) : (s.modCluster c f).agenda = s.agenda := rfl
@[simp] theorem State.modCluster_free (s : State) (c : Nat) (f : Cluster → Cluster) : (s.modCluster c f).free = s.free := rfl
@[simp] theorem State.modCluster_tick (s : State) (c : Nat) (f : Cluster → Cluster) : (s.modCluster c f).tick = s.tick := rfl
@[simp] theorem State.modCluster_cores (s : State) (c : Nat) (f : Cluster → Cluster) : (s.modCluster c f).cores = s.cores := rfl
@[simp] theorem State.modCluster_slices (s : State) (c : Nat) (f : Cluster → Cluster) : (s.modCluster c f).slices = s.slices := rfl
@[simp] theorem State.modCluster_mem (s : State) (c : Nat) (f : Cluster → Cluster) : (s.modCluster c f).mem = s.mem := rfl
@[simp] theorem State.modCluster_mtags (s : State) (c : Nat) (f : Cluster → Cluster) : (s.modCluster c f).mtags = s.mtags := rfl
@[simp] theorem State.modCluster_host (s : State) (c : Nat) (f : Cluster → Cluster) : (s.modCluster c f).host = s.host := rfl
@[simp] theorem State.modCluster_contexts (s : State) (c : Nat) (f : Cluster → Cluster) : (s.modCluster c f).contexts = s.contexts := rfl
@[simp] theorem State.modCluster_exchanges (s : State) (c : Nat) (f : Cluster → Cluster) : (s.modCluster c f).exchanges = s.exchanges := rfl
@[simp] theorem State.modCluster_criers (s : State) (c : Nat) (f : Cluster → Cluster) : (s.modCluster c f).criers = s.criers := rfl
@[simp] theorem State.modCluster_walks (s : State) (c : Nat) (f : Cluster → Cluster) : (s.modCluster c f).walks = s.walks := rfl
@[simp] theorem State.modCluster_chits (s : State) (c : Nat) (f : Cluster → Cluster) : (s.modCluster c f).chits = s.chits := rfl
@[simp] theorem State.modCluster_asks (s : State) (c : Nat) (f : Cluster → Cluster) : (s.modCluster c f).asks = s.asks := rfl
@[simp] theorem State.modCluster_askBacks (s : State) (c : Nat) (f : Cluster → Cluster) : (s.modCluster c f).askBacks = s.askBacks := rfl
@[simp] theorem State.modCluster_watchMsgs (s : State) (c : Nat) (f : Cluster → Cluster) : (s.modCluster c f).watchMsgs = s.watchMsgs := rfl
@[simp] theorem State.modCluster_scForms (s : State) (c : Nat) (f : Cluster → Cluster) : (s.modCluster c f).scForms = s.scForms := rfl
@[simp] theorem State.modCluster_nextId (s : State) (c : Nat) (f : Cluster → Cluster) : (s.modCluster c f).nextId = s.nextId := rfl
@[simp] theorem State.modCluster_dev (s : State) (c : Nat) (f : Cluster → Cluster) : (s.modCluster c f).dev = s.dev := rfl
@[simp] theorem State.modCluster_fabcfg (s : State) (c : Nat) (f : Cluster → Cluster) : (s.modCluster c f).fabcfg = s.fabcfg := rfl
@[simp] theorem State.modCluster_doubling (s : State) (c : Nat) (f : Cluster → Cluster) : (s.modCluster c f).doubling = s.doubling := rfl
@[simp] theorem State.modCluster_routes (s : State) (c : Nat) (f : Cluster → Cluster) : (s.modCluster c f).routes = s.routes := rfl
@[simp] theorem State.modCluster_ports (s : State) (c : Nat) (f : Cluster → Cluster) : (s.modCluster c f).ports = s.ports := rfl
@[simp] theorem State.modCluster_packets (s : State) (c : Nat) (f : Cluster → Cluster) : (s.modCluster c f).packets = s.packets := rfl
@[simp] theorem State.modCluster_out (s : State) (c : Nat) (f : Cluster → Cluster) : (s.modCluster c f).out = s.out := rfl
@[simp] theorem State.modCluster_owners (s : State) (c : Nat) (f : Cluster → Cluster) : (s.modCluster c f).owners = s.owners := rfl
@[simp] theorem State.modCluster_owned (s : State) (c : Nat) (f : Cluster → Cluster) : (s.modCluster c f).owned = s.owned := rfl
@[simp] theorem State.modCluster_pageOrder (s : State) (c : Nat) (f : Cluster → Cluster) : (s.modCluster c f).pageOrder = s.pageOrder := rfl
@[simp] theorem State.modCluster_acksDue (s : State) (c : Nat) (f : Cluster → Cluster) : (s.modCluster c f).acksDue = s.acksDue := rfl
@[simp] theorem State.modCluster_migcfg (s : State) (c : Nat) (f : Cluster → Cluster) : (s.modCluster c f).migcfg = s.migcfg := rfl
@[simp] theorem State.modCluster_holds (s : State) (c : Nat) (f : Cluster → Cluster) : (s.modCluster c f).holds = s.holds := rfl
@[simp] theorem State.modCluster_migrations (s : State) (c : Nat) (f : Cluster → Cluster) : (s.modCluster c f).migrations = s.migrations := rfl
@[simp] theorem State.modCluster_installs (s : State) (c : Nat) (f : Cluster → Cluster) : (s.modCluster c f).installs = s.installs := rfl
@[simp] theorem State.modCluster_relays (s : State) (c : Nat) (f : Cluster → Cluster) : (s.modCluster c f).relays = s.relays := rfl
@[simp] theorem State.modCluster_stubSent (s : State) (c : Nat) (f : Cluster → Cluster) : (s.modCluster c f).stubSent = s.stubSent := rfl
@[simp] theorem State.modCluster_queues (s : State) (c : Nat) (f : Cluster → Cluster) : (s.modCluster c f).queues = s.queues := rfl
@[simp] theorem State.modCluster_evicts (s : State) (c : Nat) (f : Cluster → Cluster) : (s.modCluster c f).evicts = s.evicts := rfl
@[simp] theorem State.modCluster_held (s : State) (c : Nat) (f : Cluster → Cluster) : (s.modCluster c f).held = s.held := rfl
@[simp] theorem State.modCluster_mail (s : State) (c : Nat) (f : Cluster → Cluster) : (s.modCluster c f).mail = s.mail := rfl
@[simp] theorem State.modCluster_sysMem (s : State) (c : Nat) (f : Cluster → Cluster) : (s.modCluster c f).sysMem = s.sysMem := rfl
@[simp] theorem State.modCluster_fwRead (s : State) (c : Nat) (f : Cluster → Cluster) : (s.modCluster c f).fwRead = s.fwRead := rfl
@[simp] theorem State.modCluster_saves (s : State) (c : Nat) (f : Cluster → Cluster) : (s.modCluster c f).saves = s.saves := rfl
@[simp] theorem State.modCluster_am (s : State) (c : Nat) (f : Cluster → Cluster) : (s.modCluster c f).am = s.am := rfl
@[simp] theorem State.modCluster_life (s : State) (c : Nat) (f : Cluster → Cluster) : (s.modCluster c f).life = s.life := rfl
@[simp] theorem State.modCluster_flash (s : State) (c : Nat) (f : Cluster → Cluster) : (s.modCluster c f).flash = s.flash := rfl
@[simp] theorem State.modCluster_keyHash (s : State) (c : Nat) (f : Cluster → Cluster) : (s.modCluster c f).keyHash = s.keyHash := rfl
@[simp] theorem State.modCluster_rollback (s : State) (c : Nat) (f : Cluster → Cluster) : (s.modCluster c f).rollback = s.rollback := rfl

/-! ### `State.setCtx` -/

@[simp] theorem State.setCtx_cur (s : State) (x : Ctx) (r : CtxRec) : (s.setCtx x r).cur = s.cur := rfl
@[simp] theorem State.setCtx_agenda (s : State) (x : Ctx) (r : CtxRec) : (s.setCtx x r).agenda = s.agenda := rfl
@[simp] theorem State.setCtx_free (s : State) (x : Ctx) (r : CtxRec) : (s.setCtx x r).free = s.free := rfl
@[simp] theorem State.setCtx_tick (s : State) (x : Ctx) (r : CtxRec) : (s.setCtx x r).tick = s.tick := rfl
@[simp] theorem State.setCtx_cores (s : State) (x : Ctx) (r : CtxRec) : (s.setCtx x r).cores = s.cores := rfl
@[simp] theorem State.setCtx_slices (s : State) (x : Ctx) (r : CtxRec) : (s.setCtx x r).slices = s.slices := rfl
@[simp] theorem State.setCtx_clusters (s : State) (x : Ctx) (r : CtxRec) : (s.setCtx x r).clusters = s.clusters := rfl
@[simp] theorem State.setCtx_mem (s : State) (x : Ctx) (r : CtxRec) : (s.setCtx x r).mem = s.mem := rfl
@[simp] theorem State.setCtx_mtags (s : State) (x : Ctx) (r : CtxRec) : (s.setCtx x r).mtags = s.mtags := rfl
@[simp] theorem State.setCtx_host (s : State) (x : Ctx) (r : CtxRec) : (s.setCtx x r).host = s.host := rfl
@[simp] theorem State.setCtx_exchanges (s : State) (x : Ctx) (r : CtxRec) : (s.setCtx x r).exchanges = s.exchanges := rfl
@[simp] theorem State.setCtx_criers (s : State) (x : Ctx) (r : CtxRec) : (s.setCtx x r).criers = s.criers := rfl
@[simp] theorem State.setCtx_walks (s : State) (x : Ctx) (r : CtxRec) : (s.setCtx x r).walks = s.walks := rfl
@[simp] theorem State.setCtx_chits (s : State) (x : Ctx) (r : CtxRec) : (s.setCtx x r).chits = s.chits := rfl
@[simp] theorem State.setCtx_asks (s : State) (x : Ctx) (r : CtxRec) : (s.setCtx x r).asks = s.asks := rfl
@[simp] theorem State.setCtx_askBacks (s : State) (x : Ctx) (r : CtxRec) : (s.setCtx x r).askBacks = s.askBacks := rfl
@[simp] theorem State.setCtx_watchMsgs (s : State) (x : Ctx) (r : CtxRec) : (s.setCtx x r).watchMsgs = s.watchMsgs := rfl
@[simp] theorem State.setCtx_scForms (s : State) (x : Ctx) (r : CtxRec) : (s.setCtx x r).scForms = s.scForms := rfl
@[simp] theorem State.setCtx_nextId (s : State) (x : Ctx) (r : CtxRec) : (s.setCtx x r).nextId = s.nextId := rfl
@[simp] theorem State.setCtx_dev (s : State) (x : Ctx) (r : CtxRec) : (s.setCtx x r).dev = s.dev := rfl
@[simp] theorem State.setCtx_fabcfg (s : State) (x : Ctx) (r : CtxRec) : (s.setCtx x r).fabcfg = s.fabcfg := rfl
@[simp] theorem State.setCtx_doubling (s : State) (x : Ctx) (r : CtxRec) : (s.setCtx x r).doubling = s.doubling := rfl
@[simp] theorem State.setCtx_routes (s : State) (x : Ctx) (r : CtxRec) : (s.setCtx x r).routes = s.routes := rfl
@[simp] theorem State.setCtx_ports (s : State) (x : Ctx) (r : CtxRec) : (s.setCtx x r).ports = s.ports := rfl
@[simp] theorem State.setCtx_packets (s : State) (x : Ctx) (r : CtxRec) : (s.setCtx x r).packets = s.packets := rfl
@[simp] theorem State.setCtx_out (s : State) (x : Ctx) (r : CtxRec) : (s.setCtx x r).out = s.out := rfl
@[simp] theorem State.setCtx_owners (s : State) (x : Ctx) (r : CtxRec) : (s.setCtx x r).owners = s.owners := rfl
@[simp] theorem State.setCtx_owned (s : State) (x : Ctx) (r : CtxRec) : (s.setCtx x r).owned = s.owned := rfl
@[simp] theorem State.setCtx_pageOrder (s : State) (x : Ctx) (r : CtxRec) : (s.setCtx x r).pageOrder = s.pageOrder := rfl
@[simp] theorem State.setCtx_acksDue (s : State) (x : Ctx) (r : CtxRec) : (s.setCtx x r).acksDue = s.acksDue := rfl
@[simp] theorem State.setCtx_migcfg (s : State) (x : Ctx) (r : CtxRec) : (s.setCtx x r).migcfg = s.migcfg := rfl
@[simp] theorem State.setCtx_holds (s : State) (x : Ctx) (r : CtxRec) : (s.setCtx x r).holds = s.holds := rfl
@[simp] theorem State.setCtx_migrations (s : State) (x : Ctx) (r : CtxRec) : (s.setCtx x r).migrations = s.migrations := rfl
@[simp] theorem State.setCtx_installs (s : State) (x : Ctx) (r : CtxRec) : (s.setCtx x r).installs = s.installs := rfl
@[simp] theorem State.setCtx_relays (s : State) (x : Ctx) (r : CtxRec) : (s.setCtx x r).relays = s.relays := rfl
@[simp] theorem State.setCtx_stubSent (s : State) (x : Ctx) (r : CtxRec) : (s.setCtx x r).stubSent = s.stubSent := rfl
@[simp] theorem State.setCtx_queues (s : State) (x : Ctx) (r : CtxRec) : (s.setCtx x r).queues = s.queues := rfl
@[simp] theorem State.setCtx_evicts (s : State) (x : Ctx) (r : CtxRec) : (s.setCtx x r).evicts = s.evicts := rfl
@[simp] theorem State.setCtx_held (s : State) (x : Ctx) (r : CtxRec) : (s.setCtx x r).held = s.held := rfl
@[simp] theorem State.setCtx_mail (s : State) (x : Ctx) (r : CtxRec) : (s.setCtx x r).mail = s.mail := rfl
@[simp] theorem State.setCtx_sysMem (s : State) (x : Ctx) (r : CtxRec) : (s.setCtx x r).sysMem = s.sysMem := rfl
@[simp] theorem State.setCtx_fwRead (s : State) (x : Ctx) (r : CtxRec) : (s.setCtx x r).fwRead = s.fwRead := rfl
@[simp] theorem State.setCtx_saves (s : State) (x : Ctx) (r : CtxRec) : (s.setCtx x r).saves = s.saves := rfl
@[simp] theorem State.setCtx_am (s : State) (x : Ctx) (r : CtxRec) : (s.setCtx x r).am = s.am := rfl
@[simp] theorem State.setCtx_life (s : State) (x : Ctx) (r : CtxRec) : (s.setCtx x r).life = s.life := rfl
@[simp] theorem State.setCtx_flash (s : State) (x : Ctx) (r : CtxRec) : (s.setCtx x r).flash = s.flash := rfl
@[simp] theorem State.setCtx_keyHash (s : State) (x : Ctx) (r : CtxRec) : (s.setCtx x r).keyHash = s.keyHash := rfl
@[simp] theorem State.setCtx_rollback (s : State) (x : Ctx) (r : CtxRec) : (s.setCtx x r).rollback = s.rollback := rfl

/-! ### `State.modExch` -/

@[simp] theorem State.modExch_cur (s : State) (d : Nat) (f : Exchange → Exchange) : (s.modExch d f).cur = s.cur := rfl
@[simp] theorem State.modExch_agenda (s : State) (d : Nat) (f : Exchange → Exchange) : (s.modExch d f).agenda = s.agenda := rfl
@[simp] theorem State.modExch_free (s : State) (d : Nat) (f : Exchange → Exchange) : (s.modExch d f).free = s.free := rfl
@[simp] theorem State.modExch_tick (s : State) (d : Nat) (f : Exchange → Exchange) : (s.modExch d f).tick = s.tick := rfl
@[simp] theorem State.modExch_cores (s : State) (d : Nat) (f : Exchange → Exchange) : (s.modExch d f).cores = s.cores := rfl
@[simp] theorem State.modExch_slices (s : State) (d : Nat) (f : Exchange → Exchange) : (s.modExch d f).slices = s.slices := rfl
@[simp] theorem State.modExch_clusters (s : State) (d : Nat) (f : Exchange → Exchange) : (s.modExch d f).clusters = s.clusters := rfl
@[simp] theorem State.modExch_mem (s : State) (d : Nat) (f : Exchange → Exchange) : (s.modExch d f).mem = s.mem := rfl
@[simp] theorem State.modExch_mtags (s : State) (d : Nat) (f : Exchange → Exchange) : (s.modExch d f).mtags = s.mtags := rfl
@[simp] theorem State.modExch_host (s : State) (d : Nat) (f : Exchange → Exchange) : (s.modExch d f).host = s.host := rfl
@[simp] theorem State.modExch_contexts (s : State) (d : Nat) (f : Exchange → Exchange) : (s.modExch d f).contexts = s.contexts := rfl
@[simp] theorem State.modExch_criers (s : State) (d : Nat) (f : Exchange → Exchange) : (s.modExch d f).criers = s.criers := rfl
@[simp] theorem State.modExch_walks (s : State) (d : Nat) (f : Exchange → Exchange) : (s.modExch d f).walks = s.walks := rfl
@[simp] theorem State.modExch_chits (s : State) (d : Nat) (f : Exchange → Exchange) : (s.modExch d f).chits = s.chits := rfl
@[simp] theorem State.modExch_asks (s : State) (d : Nat) (f : Exchange → Exchange) : (s.modExch d f).asks = s.asks := rfl
@[simp] theorem State.modExch_askBacks (s : State) (d : Nat) (f : Exchange → Exchange) : (s.modExch d f).askBacks = s.askBacks := rfl
@[simp] theorem State.modExch_watchMsgs (s : State) (d : Nat) (f : Exchange → Exchange) : (s.modExch d f).watchMsgs = s.watchMsgs := rfl
@[simp] theorem State.modExch_scForms (s : State) (d : Nat) (f : Exchange → Exchange) : (s.modExch d f).scForms = s.scForms := rfl
@[simp] theorem State.modExch_nextId (s : State) (d : Nat) (f : Exchange → Exchange) : (s.modExch d f).nextId = s.nextId := rfl
@[simp] theorem State.modExch_dev (s : State) (d : Nat) (f : Exchange → Exchange) : (s.modExch d f).dev = s.dev := rfl
@[simp] theorem State.modExch_fabcfg (s : State) (d : Nat) (f : Exchange → Exchange) : (s.modExch d f).fabcfg = s.fabcfg := rfl
@[simp] theorem State.modExch_doubling (s : State) (d : Nat) (f : Exchange → Exchange) : (s.modExch d f).doubling = s.doubling := rfl
@[simp] theorem State.modExch_routes (s : State) (d : Nat) (f : Exchange → Exchange) : (s.modExch d f).routes = s.routes := rfl
@[simp] theorem State.modExch_ports (s : State) (d : Nat) (f : Exchange → Exchange) : (s.modExch d f).ports = s.ports := rfl
@[simp] theorem State.modExch_packets (s : State) (d : Nat) (f : Exchange → Exchange) : (s.modExch d f).packets = s.packets := rfl
@[simp] theorem State.modExch_out (s : State) (d : Nat) (f : Exchange → Exchange) : (s.modExch d f).out = s.out := rfl
@[simp] theorem State.modExch_owners (s : State) (d : Nat) (f : Exchange → Exchange) : (s.modExch d f).owners = s.owners := rfl
@[simp] theorem State.modExch_owned (s : State) (d : Nat) (f : Exchange → Exchange) : (s.modExch d f).owned = s.owned := rfl
@[simp] theorem State.modExch_pageOrder (s : State) (d : Nat) (f : Exchange → Exchange) : (s.modExch d f).pageOrder = s.pageOrder := rfl
@[simp] theorem State.modExch_acksDue (s : State) (d : Nat) (f : Exchange → Exchange) : (s.modExch d f).acksDue = s.acksDue := rfl
@[simp] theorem State.modExch_migcfg (s : State) (d : Nat) (f : Exchange → Exchange) : (s.modExch d f).migcfg = s.migcfg := rfl
@[simp] theorem State.modExch_holds (s : State) (d : Nat) (f : Exchange → Exchange) : (s.modExch d f).holds = s.holds := rfl
@[simp] theorem State.modExch_migrations (s : State) (d : Nat) (f : Exchange → Exchange) : (s.modExch d f).migrations = s.migrations := rfl
@[simp] theorem State.modExch_installs (s : State) (d : Nat) (f : Exchange → Exchange) : (s.modExch d f).installs = s.installs := rfl
@[simp] theorem State.modExch_relays (s : State) (d : Nat) (f : Exchange → Exchange) : (s.modExch d f).relays = s.relays := rfl
@[simp] theorem State.modExch_stubSent (s : State) (d : Nat) (f : Exchange → Exchange) : (s.modExch d f).stubSent = s.stubSent := rfl
@[simp] theorem State.modExch_queues (s : State) (d : Nat) (f : Exchange → Exchange) : (s.modExch d f).queues = s.queues := rfl
@[simp] theorem State.modExch_evicts (s : State) (d : Nat) (f : Exchange → Exchange) : (s.modExch d f).evicts = s.evicts := rfl
@[simp] theorem State.modExch_held (s : State) (d : Nat) (f : Exchange → Exchange) : (s.modExch d f).held = s.held := rfl
@[simp] theorem State.modExch_mail (s : State) (d : Nat) (f : Exchange → Exchange) : (s.modExch d f).mail = s.mail := rfl
@[simp] theorem State.modExch_sysMem (s : State) (d : Nat) (f : Exchange → Exchange) : (s.modExch d f).sysMem = s.sysMem := rfl
@[simp] theorem State.modExch_fwRead (s : State) (d : Nat) (f : Exchange → Exchange) : (s.modExch d f).fwRead = s.fwRead := rfl
@[simp] theorem State.modExch_saves (s : State) (d : Nat) (f : Exchange → Exchange) : (s.modExch d f).saves = s.saves := rfl
@[simp] theorem State.modExch_am (s : State) (d : Nat) (f : Exchange → Exchange) : (s.modExch d f).am = s.am := rfl
@[simp] theorem State.modExch_life (s : State) (d : Nat) (f : Exchange → Exchange) : (s.modExch d f).life = s.life := rfl
@[simp] theorem State.modExch_flash (s : State) (d : Nat) (f : Exchange → Exchange) : (s.modExch d f).flash = s.flash := rfl
@[simp] theorem State.modExch_keyHash (s : State) (d : Nat) (f : Exchange → Exchange) : (s.modExch d f).keyHash = s.keyHash := rfl
@[simp] theorem State.modExch_rollback (s : State) (d : Nat) (f : Exchange → Exchange) : (s.modExch d f).rollback = s.rollback := rfl

/-! ### `State.modCrier` -/

@[simp] theorem State.modCrier_cur (s : State) (d : Nat) (f : Crier → Crier) : (s.modCrier d f).cur = s.cur := rfl
@[simp] theorem State.modCrier_agenda (s : State) (d : Nat) (f : Crier → Crier) : (s.modCrier d f).agenda = s.agenda := rfl
@[simp] theorem State.modCrier_free (s : State) (d : Nat) (f : Crier → Crier) : (s.modCrier d f).free = s.free := rfl
@[simp] theorem State.modCrier_tick (s : State) (d : Nat) (f : Crier → Crier) : (s.modCrier d f).tick = s.tick := rfl
@[simp] theorem State.modCrier_cores (s : State) (d : Nat) (f : Crier → Crier) : (s.modCrier d f).cores = s.cores := rfl
@[simp] theorem State.modCrier_slices (s : State) (d : Nat) (f : Crier → Crier) : (s.modCrier d f).slices = s.slices := rfl
@[simp] theorem State.modCrier_clusters (s : State) (d : Nat) (f : Crier → Crier) : (s.modCrier d f).clusters = s.clusters := rfl
@[simp] theorem State.modCrier_mem (s : State) (d : Nat) (f : Crier → Crier) : (s.modCrier d f).mem = s.mem := rfl
@[simp] theorem State.modCrier_mtags (s : State) (d : Nat) (f : Crier → Crier) : (s.modCrier d f).mtags = s.mtags := rfl
@[simp] theorem State.modCrier_host (s : State) (d : Nat) (f : Crier → Crier) : (s.modCrier d f).host = s.host := rfl
@[simp] theorem State.modCrier_contexts (s : State) (d : Nat) (f : Crier → Crier) : (s.modCrier d f).contexts = s.contexts := rfl
@[simp] theorem State.modCrier_exchanges (s : State) (d : Nat) (f : Crier → Crier) : (s.modCrier d f).exchanges = s.exchanges := rfl
@[simp] theorem State.modCrier_walks (s : State) (d : Nat) (f : Crier → Crier) : (s.modCrier d f).walks = s.walks := rfl
@[simp] theorem State.modCrier_chits (s : State) (d : Nat) (f : Crier → Crier) : (s.modCrier d f).chits = s.chits := rfl
@[simp] theorem State.modCrier_asks (s : State) (d : Nat) (f : Crier → Crier) : (s.modCrier d f).asks = s.asks := rfl
@[simp] theorem State.modCrier_askBacks (s : State) (d : Nat) (f : Crier → Crier) : (s.modCrier d f).askBacks = s.askBacks := rfl
@[simp] theorem State.modCrier_watchMsgs (s : State) (d : Nat) (f : Crier → Crier) : (s.modCrier d f).watchMsgs = s.watchMsgs := rfl
@[simp] theorem State.modCrier_scForms (s : State) (d : Nat) (f : Crier → Crier) : (s.modCrier d f).scForms = s.scForms := rfl
@[simp] theorem State.modCrier_nextId (s : State) (d : Nat) (f : Crier → Crier) : (s.modCrier d f).nextId = s.nextId := rfl
@[simp] theorem State.modCrier_dev (s : State) (d : Nat) (f : Crier → Crier) : (s.modCrier d f).dev = s.dev := rfl
@[simp] theorem State.modCrier_fabcfg (s : State) (d : Nat) (f : Crier → Crier) : (s.modCrier d f).fabcfg = s.fabcfg := rfl
@[simp] theorem State.modCrier_doubling (s : State) (d : Nat) (f : Crier → Crier) : (s.modCrier d f).doubling = s.doubling := rfl
@[simp] theorem State.modCrier_routes (s : State) (d : Nat) (f : Crier → Crier) : (s.modCrier d f).routes = s.routes := rfl
@[simp] theorem State.modCrier_ports (s : State) (d : Nat) (f : Crier → Crier) : (s.modCrier d f).ports = s.ports := rfl
@[simp] theorem State.modCrier_packets (s : State) (d : Nat) (f : Crier → Crier) : (s.modCrier d f).packets = s.packets := rfl
@[simp] theorem State.modCrier_out (s : State) (d : Nat) (f : Crier → Crier) : (s.modCrier d f).out = s.out := rfl
@[simp] theorem State.modCrier_owners (s : State) (d : Nat) (f : Crier → Crier) : (s.modCrier d f).owners = s.owners := rfl
@[simp] theorem State.modCrier_owned (s : State) (d : Nat) (f : Crier → Crier) : (s.modCrier d f).owned = s.owned := rfl
@[simp] theorem State.modCrier_pageOrder (s : State) (d : Nat) (f : Crier → Crier) : (s.modCrier d f).pageOrder = s.pageOrder := rfl
@[simp] theorem State.modCrier_acksDue (s : State) (d : Nat) (f : Crier → Crier) : (s.modCrier d f).acksDue = s.acksDue := rfl
@[simp] theorem State.modCrier_migcfg (s : State) (d : Nat) (f : Crier → Crier) : (s.modCrier d f).migcfg = s.migcfg := rfl
@[simp] theorem State.modCrier_holds (s : State) (d : Nat) (f : Crier → Crier) : (s.modCrier d f).holds = s.holds := rfl
@[simp] theorem State.modCrier_migrations (s : State) (d : Nat) (f : Crier → Crier) : (s.modCrier d f).migrations = s.migrations := rfl
@[simp] theorem State.modCrier_installs (s : State) (d : Nat) (f : Crier → Crier) : (s.modCrier d f).installs = s.installs := rfl
@[simp] theorem State.modCrier_relays (s : State) (d : Nat) (f : Crier → Crier) : (s.modCrier d f).relays = s.relays := rfl
@[simp] theorem State.modCrier_stubSent (s : State) (d : Nat) (f : Crier → Crier) : (s.modCrier d f).stubSent = s.stubSent := rfl
@[simp] theorem State.modCrier_queues (s : State) (d : Nat) (f : Crier → Crier) : (s.modCrier d f).queues = s.queues := rfl
@[simp] theorem State.modCrier_evicts (s : State) (d : Nat) (f : Crier → Crier) : (s.modCrier d f).evicts = s.evicts := rfl
@[simp] theorem State.modCrier_held (s : State) (d : Nat) (f : Crier → Crier) : (s.modCrier d f).held = s.held := rfl
@[simp] theorem State.modCrier_mail (s : State) (d : Nat) (f : Crier → Crier) : (s.modCrier d f).mail = s.mail := rfl
@[simp] theorem State.modCrier_sysMem (s : State) (d : Nat) (f : Crier → Crier) : (s.modCrier d f).sysMem = s.sysMem := rfl
@[simp] theorem State.modCrier_fwRead (s : State) (d : Nat) (f : Crier → Crier) : (s.modCrier d f).fwRead = s.fwRead := rfl
@[simp] theorem State.modCrier_saves (s : State) (d : Nat) (f : Crier → Crier) : (s.modCrier d f).saves = s.saves := rfl
@[simp] theorem State.modCrier_am (s : State) (d : Nat) (f : Crier → Crier) : (s.modCrier d f).am = s.am := rfl
@[simp] theorem State.modCrier_life (s : State) (d : Nat) (f : Crier → Crier) : (s.modCrier d f).life = s.life := rfl
@[simp] theorem State.modCrier_flash (s : State) (d : Nat) (f : Crier → Crier) : (s.modCrier d f).flash = s.flash := rfl
@[simp] theorem State.modCrier_keyHash (s : State) (d : Nat) (f : Crier → Crier) : (s.modCrier d f).keyHash = s.keyHash := rfl
@[simp] theorem State.modCrier_rollback (s : State) (d : Nat) (f : Crier → Crier) : (s.modCrier d f).rollback = s.rollback := rfl

/-! ### `State.modQueue` -/

@[simp] theorem State.modQueue_cur (s : State) (q : Nat) (f : Queue → Queue) : (s.modQueue q f).cur = s.cur := rfl
@[simp] theorem State.modQueue_agenda (s : State) (q : Nat) (f : Queue → Queue) : (s.modQueue q f).agenda = s.agenda := rfl
@[simp] theorem State.modQueue_free (s : State) (q : Nat) (f : Queue → Queue) : (s.modQueue q f).free = s.free := rfl
@[simp] theorem State.modQueue_tick (s : State) (q : Nat) (f : Queue → Queue) : (s.modQueue q f).tick = s.tick := rfl
@[simp] theorem State.modQueue_cores (s : State) (q : Nat) (f : Queue → Queue) : (s.modQueue q f).cores = s.cores := rfl
@[simp] theorem State.modQueue_slices (s : State) (q : Nat) (f : Queue → Queue) : (s.modQueue q f).slices = s.slices := rfl
@[simp] theorem State.modQueue_clusters (s : State) (q : Nat) (f : Queue → Queue) : (s.modQueue q f).clusters = s.clusters := rfl
@[simp] theorem State.modQueue_mem (s : State) (q : Nat) (f : Queue → Queue) : (s.modQueue q f).mem = s.mem := rfl
@[simp] theorem State.modQueue_mtags (s : State) (q : Nat) (f : Queue → Queue) : (s.modQueue q f).mtags = s.mtags := rfl
@[simp] theorem State.modQueue_host (s : State) (q : Nat) (f : Queue → Queue) : (s.modQueue q f).host = s.host := rfl
@[simp] theorem State.modQueue_contexts (s : State) (q : Nat) (f : Queue → Queue) : (s.modQueue q f).contexts = s.contexts := rfl
@[simp] theorem State.modQueue_exchanges (s : State) (q : Nat) (f : Queue → Queue) : (s.modQueue q f).exchanges = s.exchanges := rfl
@[simp] theorem State.modQueue_criers (s : State) (q : Nat) (f : Queue → Queue) : (s.modQueue q f).criers = s.criers := rfl
@[simp] theorem State.modQueue_walks (s : State) (q : Nat) (f : Queue → Queue) : (s.modQueue q f).walks = s.walks := rfl
@[simp] theorem State.modQueue_chits (s : State) (q : Nat) (f : Queue → Queue) : (s.modQueue q f).chits = s.chits := rfl
@[simp] theorem State.modQueue_asks (s : State) (q : Nat) (f : Queue → Queue) : (s.modQueue q f).asks = s.asks := rfl
@[simp] theorem State.modQueue_askBacks (s : State) (q : Nat) (f : Queue → Queue) : (s.modQueue q f).askBacks = s.askBacks := rfl
@[simp] theorem State.modQueue_watchMsgs (s : State) (q : Nat) (f : Queue → Queue) : (s.modQueue q f).watchMsgs = s.watchMsgs := rfl
@[simp] theorem State.modQueue_scForms (s : State) (q : Nat) (f : Queue → Queue) : (s.modQueue q f).scForms = s.scForms := rfl
@[simp] theorem State.modQueue_nextId (s : State) (q : Nat) (f : Queue → Queue) : (s.modQueue q f).nextId = s.nextId := rfl
@[simp] theorem State.modQueue_dev (s : State) (q : Nat) (f : Queue → Queue) : (s.modQueue q f).dev = s.dev := rfl
@[simp] theorem State.modQueue_fabcfg (s : State) (q : Nat) (f : Queue → Queue) : (s.modQueue q f).fabcfg = s.fabcfg := rfl
@[simp] theorem State.modQueue_doubling (s : State) (q : Nat) (f : Queue → Queue) : (s.modQueue q f).doubling = s.doubling := rfl
@[simp] theorem State.modQueue_routes (s : State) (q : Nat) (f : Queue → Queue) : (s.modQueue q f).routes = s.routes := rfl
@[simp] theorem State.modQueue_ports (s : State) (q : Nat) (f : Queue → Queue) : (s.modQueue q f).ports = s.ports := rfl
@[simp] theorem State.modQueue_packets (s : State) (q : Nat) (f : Queue → Queue) : (s.modQueue q f).packets = s.packets := rfl
@[simp] theorem State.modQueue_out (s : State) (q : Nat) (f : Queue → Queue) : (s.modQueue q f).out = s.out := rfl
@[simp] theorem State.modQueue_owners (s : State) (q : Nat) (f : Queue → Queue) : (s.modQueue q f).owners = s.owners := rfl
@[simp] theorem State.modQueue_owned (s : State) (q : Nat) (f : Queue → Queue) : (s.modQueue q f).owned = s.owned := rfl
@[simp] theorem State.modQueue_pageOrder (s : State) (q : Nat) (f : Queue → Queue) : (s.modQueue q f).pageOrder = s.pageOrder := rfl
@[simp] theorem State.modQueue_acksDue (s : State) (q : Nat) (f : Queue → Queue) : (s.modQueue q f).acksDue = s.acksDue := rfl
@[simp] theorem State.modQueue_migcfg (s : State) (q : Nat) (f : Queue → Queue) : (s.modQueue q f).migcfg = s.migcfg := rfl
@[simp] theorem State.modQueue_holds (s : State) (q : Nat) (f : Queue → Queue) : (s.modQueue q f).holds = s.holds := rfl
@[simp] theorem State.modQueue_migrations (s : State) (q : Nat) (f : Queue → Queue) : (s.modQueue q f).migrations = s.migrations := rfl
@[simp] theorem State.modQueue_installs (s : State) (q : Nat) (f : Queue → Queue) : (s.modQueue q f).installs = s.installs := rfl
@[simp] theorem State.modQueue_relays (s : State) (q : Nat) (f : Queue → Queue) : (s.modQueue q f).relays = s.relays := rfl
@[simp] theorem State.modQueue_stubSent (s : State) (q : Nat) (f : Queue → Queue) : (s.modQueue q f).stubSent = s.stubSent := rfl
@[simp] theorem State.modQueue_evicts (s : State) (q : Nat) (f : Queue → Queue) : (s.modQueue q f).evicts = s.evicts := rfl
@[simp] theorem State.modQueue_held (s : State) (q : Nat) (f : Queue → Queue) : (s.modQueue q f).held = s.held := rfl
@[simp] theorem State.modQueue_mail (s : State) (q : Nat) (f : Queue → Queue) : (s.modQueue q f).mail = s.mail := rfl
@[simp] theorem State.modQueue_sysMem (s : State) (q : Nat) (f : Queue → Queue) : (s.modQueue q f).sysMem = s.sysMem := rfl
@[simp] theorem State.modQueue_fwRead (s : State) (q : Nat) (f : Queue → Queue) : (s.modQueue q f).fwRead = s.fwRead := rfl
@[simp] theorem State.modQueue_saves (s : State) (q : Nat) (f : Queue → Queue) : (s.modQueue q f).saves = s.saves := rfl
@[simp] theorem State.modQueue_am (s : State) (q : Nat) (f : Queue → Queue) : (s.modQueue q f).am = s.am := rfl
@[simp] theorem State.modQueue_life (s : State) (q : Nat) (f : Queue → Queue) : (s.modQueue q f).life = s.life := rfl
@[simp] theorem State.modQueue_flash (s : State) (q : Nat) (f : Queue → Queue) : (s.modQueue q f).flash = s.flash := rfl
@[simp] theorem State.modQueue_keyHash (s : State) (q : Nat) (f : Queue → Queue) : (s.modQueue q f).keyHash = s.keyHash := rfl
@[simp] theorem State.modQueue_rollback (s : State) (q : Nat) (f : Queue → Queue) : (s.modQueue q f).rollback = s.rollback := rfl

/-! ### `State.mailTo` -/

@[simp] theorem State.mailTo_cur (s : State) (d : Nat) (m : SvcMsg) : (s.mailTo d m).cur = s.cur := rfl
@[simp] theorem State.mailTo_agenda (s : State) (d : Nat) (m : SvcMsg) : (s.mailTo d m).agenda = s.agenda := rfl
@[simp] theorem State.mailTo_free (s : State) (d : Nat) (m : SvcMsg) : (s.mailTo d m).free = s.free := rfl
@[simp] theorem State.mailTo_tick (s : State) (d : Nat) (m : SvcMsg) : (s.mailTo d m).tick = s.tick := rfl
@[simp] theorem State.mailTo_cores (s : State) (d : Nat) (m : SvcMsg) : (s.mailTo d m).cores = s.cores := rfl
@[simp] theorem State.mailTo_slices (s : State) (d : Nat) (m : SvcMsg) : (s.mailTo d m).slices = s.slices := rfl
@[simp] theorem State.mailTo_clusters (s : State) (d : Nat) (m : SvcMsg) : (s.mailTo d m).clusters = s.clusters := rfl
@[simp] theorem State.mailTo_mem (s : State) (d : Nat) (m : SvcMsg) : (s.mailTo d m).mem = s.mem := rfl
@[simp] theorem State.mailTo_mtags (s : State) (d : Nat) (m : SvcMsg) : (s.mailTo d m).mtags = s.mtags := rfl
@[simp] theorem State.mailTo_host (s : State) (d : Nat) (m : SvcMsg) : (s.mailTo d m).host = s.host := rfl
@[simp] theorem State.mailTo_contexts (s : State) (d : Nat) (m : SvcMsg) : (s.mailTo d m).contexts = s.contexts := rfl
@[simp] theorem State.mailTo_exchanges (s : State) (d : Nat) (m : SvcMsg) : (s.mailTo d m).exchanges = s.exchanges := rfl
@[simp] theorem State.mailTo_criers (s : State) (d : Nat) (m : SvcMsg) : (s.mailTo d m).criers = s.criers := rfl
@[simp] theorem State.mailTo_walks (s : State) (d : Nat) (m : SvcMsg) : (s.mailTo d m).walks = s.walks := rfl
@[simp] theorem State.mailTo_chits (s : State) (d : Nat) (m : SvcMsg) : (s.mailTo d m).chits = s.chits := rfl
@[simp] theorem State.mailTo_asks (s : State) (d : Nat) (m : SvcMsg) : (s.mailTo d m).asks = s.asks := rfl
@[simp] theorem State.mailTo_askBacks (s : State) (d : Nat) (m : SvcMsg) : (s.mailTo d m).askBacks = s.askBacks := rfl
@[simp] theorem State.mailTo_watchMsgs (s : State) (d : Nat) (m : SvcMsg) : (s.mailTo d m).watchMsgs = s.watchMsgs := rfl
@[simp] theorem State.mailTo_scForms (s : State) (d : Nat) (m : SvcMsg) : (s.mailTo d m).scForms = s.scForms := rfl
@[simp] theorem State.mailTo_nextId (s : State) (d : Nat) (m : SvcMsg) : (s.mailTo d m).nextId = s.nextId := rfl
@[simp] theorem State.mailTo_dev (s : State) (d : Nat) (m : SvcMsg) : (s.mailTo d m).dev = s.dev := rfl
@[simp] theorem State.mailTo_fabcfg (s : State) (d : Nat) (m : SvcMsg) : (s.mailTo d m).fabcfg = s.fabcfg := rfl
@[simp] theorem State.mailTo_doubling (s : State) (d : Nat) (m : SvcMsg) : (s.mailTo d m).doubling = s.doubling := rfl
@[simp] theorem State.mailTo_routes (s : State) (d : Nat) (m : SvcMsg) : (s.mailTo d m).routes = s.routes := rfl
@[simp] theorem State.mailTo_ports (s : State) (d : Nat) (m : SvcMsg) : (s.mailTo d m).ports = s.ports := rfl
@[simp] theorem State.mailTo_packets (s : State) (d : Nat) (m : SvcMsg) : (s.mailTo d m).packets = s.packets := rfl
@[simp] theorem State.mailTo_out (s : State) (d : Nat) (m : SvcMsg) : (s.mailTo d m).out = s.out := rfl
@[simp] theorem State.mailTo_owners (s : State) (d : Nat) (m : SvcMsg) : (s.mailTo d m).owners = s.owners := rfl
@[simp] theorem State.mailTo_owned (s : State) (d : Nat) (m : SvcMsg) : (s.mailTo d m).owned = s.owned := rfl
@[simp] theorem State.mailTo_pageOrder (s : State) (d : Nat) (m : SvcMsg) : (s.mailTo d m).pageOrder = s.pageOrder := rfl
@[simp] theorem State.mailTo_acksDue (s : State) (d : Nat) (m : SvcMsg) : (s.mailTo d m).acksDue = s.acksDue := rfl
@[simp] theorem State.mailTo_migcfg (s : State) (d : Nat) (m : SvcMsg) : (s.mailTo d m).migcfg = s.migcfg := rfl
@[simp] theorem State.mailTo_holds (s : State) (d : Nat) (m : SvcMsg) : (s.mailTo d m).holds = s.holds := rfl
@[simp] theorem State.mailTo_migrations (s : State) (d : Nat) (m : SvcMsg) : (s.mailTo d m).migrations = s.migrations := rfl
@[simp] theorem State.mailTo_installs (s : State) (d : Nat) (m : SvcMsg) : (s.mailTo d m).installs = s.installs := rfl
@[simp] theorem State.mailTo_relays (s : State) (d : Nat) (m : SvcMsg) : (s.mailTo d m).relays = s.relays := rfl
@[simp] theorem State.mailTo_stubSent (s : State) (d : Nat) (m : SvcMsg) : (s.mailTo d m).stubSent = s.stubSent := rfl
@[simp] theorem State.mailTo_queues (s : State) (d : Nat) (m : SvcMsg) : (s.mailTo d m).queues = s.queues := rfl
@[simp] theorem State.mailTo_evicts (s : State) (d : Nat) (m : SvcMsg) : (s.mailTo d m).evicts = s.evicts := rfl
@[simp] theorem State.mailTo_held (s : State) (d : Nat) (m : SvcMsg) : (s.mailTo d m).held = s.held := rfl
@[simp] theorem State.mailTo_sysMem (s : State) (d : Nat) (m : SvcMsg) : (s.mailTo d m).sysMem = s.sysMem := rfl
@[simp] theorem State.mailTo_fwRead (s : State) (d : Nat) (m : SvcMsg) : (s.mailTo d m).fwRead = s.fwRead := rfl
@[simp] theorem State.mailTo_saves (s : State) (d : Nat) (m : SvcMsg) : (s.mailTo d m).saves = s.saves := rfl
@[simp] theorem State.mailTo_am (s : State) (d : Nat) (m : SvcMsg) : (s.mailTo d m).am = s.am := rfl
@[simp] theorem State.mailTo_life (s : State) (d : Nat) (m : SvcMsg) : (s.mailTo d m).life = s.life := rfl
@[simp] theorem State.mailTo_flash (s : State) (d : Nat) (m : SvcMsg) : (s.mailTo d m).flash = s.flash := rfl
@[simp] theorem State.mailTo_keyHash (s : State) (d : Nat) (m : SvcMsg) : (s.mailTo d m).keyHash = s.keyHash := rfl
@[simp] theorem State.mailTo_rollback (s : State) (d : Nat) (m : SvcMsg) : (s.mailTo d m).rollback = s.rollback := rfl

/-! ### `State.sysStore` -/

@[simp] theorem State.sysStore_cur (s : State) (a : Nat) (bs : List (Option Byte)) : (s.sysStore a bs).cur = s.cur := rfl
@[simp] theorem State.sysStore_agenda (s : State) (a : Nat) (bs : List (Option Byte)) : (s.sysStore a bs).agenda = s.agenda := rfl
@[simp] theorem State.sysStore_free (s : State) (a : Nat) (bs : List (Option Byte)) : (s.sysStore a bs).free = s.free := rfl
@[simp] theorem State.sysStore_tick (s : State) (a : Nat) (bs : List (Option Byte)) : (s.sysStore a bs).tick = s.tick := rfl
@[simp] theorem State.sysStore_cores (s : State) (a : Nat) (bs : List (Option Byte)) : (s.sysStore a bs).cores = s.cores := rfl
@[simp] theorem State.sysStore_slices (s : State) (a : Nat) (bs : List (Option Byte)) : (s.sysStore a bs).slices = s.slices := rfl
@[simp] theorem State.sysStore_clusters (s : State) (a : Nat) (bs : List (Option Byte)) : (s.sysStore a bs).clusters = s.clusters := rfl
@[simp] theorem State.sysStore_mem (s : State) (a : Nat) (bs : List (Option Byte)) : (s.sysStore a bs).mem = s.mem := rfl
@[simp] theorem State.sysStore_mtags (s : State) (a : Nat) (bs : List (Option Byte)) : (s.sysStore a bs).mtags = s.mtags := rfl
@[simp] theorem State.sysStore_host (s : State) (a : Nat) (bs : List (Option Byte)) : (s.sysStore a bs).host = s.host := rfl
@[simp] theorem State.sysStore_contexts (s : State) (a : Nat) (bs : List (Option Byte)) : (s.sysStore a bs).contexts = s.contexts := rfl
@[simp] theorem State.sysStore_exchanges (s : State) (a : Nat) (bs : List (Option Byte)) : (s.sysStore a bs).exchanges = s.exchanges := rfl
@[simp] theorem State.sysStore_criers (s : State) (a : Nat) (bs : List (Option Byte)) : (s.sysStore a bs).criers = s.criers := rfl
@[simp] theorem State.sysStore_walks (s : State) (a : Nat) (bs : List (Option Byte)) : (s.sysStore a bs).walks = s.walks := rfl
@[simp] theorem State.sysStore_chits (s : State) (a : Nat) (bs : List (Option Byte)) : (s.sysStore a bs).chits = s.chits := rfl
@[simp] theorem State.sysStore_asks (s : State) (a : Nat) (bs : List (Option Byte)) : (s.sysStore a bs).asks = s.asks := rfl
@[simp] theorem State.sysStore_askBacks (s : State) (a : Nat) (bs : List (Option Byte)) : (s.sysStore a bs).askBacks = s.askBacks := rfl
@[simp] theorem State.sysStore_watchMsgs (s : State) (a : Nat) (bs : List (Option Byte)) : (s.sysStore a bs).watchMsgs = s.watchMsgs := rfl
@[simp] theorem State.sysStore_scForms (s : State) (a : Nat) (bs : List (Option Byte)) : (s.sysStore a bs).scForms = s.scForms := rfl
@[simp] theorem State.sysStore_nextId (s : State) (a : Nat) (bs : List (Option Byte)) : (s.sysStore a bs).nextId = s.nextId := rfl
@[simp] theorem State.sysStore_dev (s : State) (a : Nat) (bs : List (Option Byte)) : (s.sysStore a bs).dev = s.dev := rfl
@[simp] theorem State.sysStore_fabcfg (s : State) (a : Nat) (bs : List (Option Byte)) : (s.sysStore a bs).fabcfg = s.fabcfg := rfl
@[simp] theorem State.sysStore_doubling (s : State) (a : Nat) (bs : List (Option Byte)) : (s.sysStore a bs).doubling = s.doubling := rfl
@[simp] theorem State.sysStore_routes (s : State) (a : Nat) (bs : List (Option Byte)) : (s.sysStore a bs).routes = s.routes := rfl
@[simp] theorem State.sysStore_ports (s : State) (a : Nat) (bs : List (Option Byte)) : (s.sysStore a bs).ports = s.ports := rfl
@[simp] theorem State.sysStore_packets (s : State) (a : Nat) (bs : List (Option Byte)) : (s.sysStore a bs).packets = s.packets := rfl
@[simp] theorem State.sysStore_out (s : State) (a : Nat) (bs : List (Option Byte)) : (s.sysStore a bs).out = s.out := rfl
@[simp] theorem State.sysStore_owners (s : State) (a : Nat) (bs : List (Option Byte)) : (s.sysStore a bs).owners = s.owners := rfl
@[simp] theorem State.sysStore_owned (s : State) (a : Nat) (bs : List (Option Byte)) : (s.sysStore a bs).owned = s.owned := rfl
@[simp] theorem State.sysStore_pageOrder (s : State) (a : Nat) (bs : List (Option Byte)) : (s.sysStore a bs).pageOrder = s.pageOrder := rfl
@[simp] theorem State.sysStore_acksDue (s : State) (a : Nat) (bs : List (Option Byte)) : (s.sysStore a bs).acksDue = s.acksDue := rfl
@[simp] theorem State.sysStore_migcfg (s : State) (a : Nat) (bs : List (Option Byte)) : (s.sysStore a bs).migcfg = s.migcfg := rfl
@[simp] theorem State.sysStore_holds (s : State) (a : Nat) (bs : List (Option Byte)) : (s.sysStore a bs).holds = s.holds := rfl
@[simp] theorem State.sysStore_migrations (s : State) (a : Nat) (bs : List (Option Byte)) : (s.sysStore a bs).migrations = s.migrations := rfl
@[simp] theorem State.sysStore_installs (s : State) (a : Nat) (bs : List (Option Byte)) : (s.sysStore a bs).installs = s.installs := rfl
@[simp] theorem State.sysStore_relays (s : State) (a : Nat) (bs : List (Option Byte)) : (s.sysStore a bs).relays = s.relays := rfl
@[simp] theorem State.sysStore_stubSent (s : State) (a : Nat) (bs : List (Option Byte)) : (s.sysStore a bs).stubSent = s.stubSent := rfl
@[simp] theorem State.sysStore_queues (s : State) (a : Nat) (bs : List (Option Byte)) : (s.sysStore a bs).queues = s.queues := rfl
@[simp] theorem State.sysStore_evicts (s : State) (a : Nat) (bs : List (Option Byte)) : (s.sysStore a bs).evicts = s.evicts := rfl
@[simp] theorem State.sysStore_held (s : State) (a : Nat) (bs : List (Option Byte)) : (s.sysStore a bs).held = s.held := rfl
@[simp] theorem State.sysStore_mail (s : State) (a : Nat) (bs : List (Option Byte)) : (s.sysStore a bs).mail = s.mail := rfl
@[simp] theorem State.sysStore_fwRead (s : State) (a : Nat) (bs : List (Option Byte)) : (s.sysStore a bs).fwRead = s.fwRead := rfl
@[simp] theorem State.sysStore_saves (s : State) (a : Nat) (bs : List (Option Byte)) : (s.sysStore a bs).saves = s.saves := rfl
@[simp] theorem State.sysStore_am (s : State) (a : Nat) (bs : List (Option Byte)) : (s.sysStore a bs).am = s.am := rfl
@[simp] theorem State.sysStore_life (s : State) (a : Nat) (bs : List (Option Byte)) : (s.sysStore a bs).life = s.life := rfl
@[simp] theorem State.sysStore_flash (s : State) (a : Nat) (bs : List (Option Byte)) : (s.sysStore a bs).flash = s.flash := rfl
@[simp] theorem State.sysStore_keyHash (s : State) (a : Nat) (bs : List (Option Byte)) : (s.sysStore a bs).keyHash = s.keyHash := rfl
@[simp] theorem State.sysStore_rollback (s : State) (a : Nat) (bs : List (Option Byte)) : (s.sysStore a bs).rollback = s.rollback := rfl

/-! ### `State.physWrite` -/

@[simp] theorem State.physWrite_cur (s : State) (a : Nat) (bs : List Byte) : (s.physWrite a bs).cur = s.cur := rfl
@[simp] theorem State.physWrite_agenda (s : State) (a : Nat) (bs : List Byte) : (s.physWrite a bs).agenda = s.agenda := rfl
@[simp] theorem State.physWrite_free (s : State) (a : Nat) (bs : List Byte) : (s.physWrite a bs).free = s.free := rfl
@[simp] theorem State.physWrite_tick (s : State) (a : Nat) (bs : List Byte) : (s.physWrite a bs).tick = s.tick := rfl
@[simp] theorem State.physWrite_cores (s : State) (a : Nat) (bs : List Byte) : (s.physWrite a bs).cores = s.cores := rfl
@[simp] theorem State.physWrite_slices (s : State) (a : Nat) (bs : List Byte) : (s.physWrite a bs).slices = s.slices := rfl
@[simp] theorem State.physWrite_clusters (s : State) (a : Nat) (bs : List Byte) : (s.physWrite a bs).clusters = s.clusters := rfl
@[simp] theorem State.physWrite_host (s : State) (a : Nat) (bs : List Byte) : (s.physWrite a bs).host = s.host := rfl
@[simp] theorem State.physWrite_contexts (s : State) (a : Nat) (bs : List Byte) : (s.physWrite a bs).contexts = s.contexts := rfl
@[simp] theorem State.physWrite_exchanges (s : State) (a : Nat) (bs : List Byte) : (s.physWrite a bs).exchanges = s.exchanges := rfl
@[simp] theorem State.physWrite_criers (s : State) (a : Nat) (bs : List Byte) : (s.physWrite a bs).criers = s.criers := rfl
@[simp] theorem State.physWrite_walks (s : State) (a : Nat) (bs : List Byte) : (s.physWrite a bs).walks = s.walks := rfl
@[simp] theorem State.physWrite_chits (s : State) (a : Nat) (bs : List Byte) : (s.physWrite a bs).chits = s.chits := rfl
@[simp] theorem State.physWrite_asks (s : State) (a : Nat) (bs : List Byte) : (s.physWrite a bs).asks = s.asks := rfl
@[simp] theorem State.physWrite_askBacks (s : State) (a : Nat) (bs : List Byte) : (s.physWrite a bs).askBacks = s.askBacks := rfl
@[simp] theorem State.physWrite_watchMsgs (s : State) (a : Nat) (bs : List Byte) : (s.physWrite a bs).watchMsgs = s.watchMsgs := rfl
@[simp] theorem State.physWrite_scForms (s : State) (a : Nat) (bs : List Byte) : (s.physWrite a bs).scForms = s.scForms := rfl
@[simp] theorem State.physWrite_nextId (s : State) (a : Nat) (bs : List Byte) : (s.physWrite a bs).nextId = s.nextId := rfl
@[simp] theorem State.physWrite_dev (s : State) (a : Nat) (bs : List Byte) : (s.physWrite a bs).dev = s.dev := rfl
@[simp] theorem State.physWrite_fabcfg (s : State) (a : Nat) (bs : List Byte) : (s.physWrite a bs).fabcfg = s.fabcfg := rfl
@[simp] theorem State.physWrite_doubling (s : State) (a : Nat) (bs : List Byte) : (s.physWrite a bs).doubling = s.doubling := rfl
@[simp] theorem State.physWrite_routes (s : State) (a : Nat) (bs : List Byte) : (s.physWrite a bs).routes = s.routes := rfl
@[simp] theorem State.physWrite_ports (s : State) (a : Nat) (bs : List Byte) : (s.physWrite a bs).ports = s.ports := rfl
@[simp] theorem State.physWrite_packets (s : State) (a : Nat) (bs : List Byte) : (s.physWrite a bs).packets = s.packets := rfl
@[simp] theorem State.physWrite_out (s : State) (a : Nat) (bs : List Byte) : (s.physWrite a bs).out = s.out := rfl
@[simp] theorem State.physWrite_owners (s : State) (a : Nat) (bs : List Byte) : (s.physWrite a bs).owners = s.owners := rfl
@[simp] theorem State.physWrite_owned (s : State) (a : Nat) (bs : List Byte) : (s.physWrite a bs).owned = s.owned := rfl
@[simp] theorem State.physWrite_pageOrder (s : State) (a : Nat) (bs : List Byte) : (s.physWrite a bs).pageOrder = s.pageOrder := rfl
@[simp] theorem State.physWrite_acksDue (s : State) (a : Nat) (bs : List Byte) : (s.physWrite a bs).acksDue = s.acksDue := rfl
@[simp] theorem State.physWrite_migcfg (s : State) (a : Nat) (bs : List Byte) : (s.physWrite a bs).migcfg = s.migcfg := rfl
@[simp] theorem State.physWrite_holds (s : State) (a : Nat) (bs : List Byte) : (s.physWrite a bs).holds = s.holds := rfl
@[simp] theorem State.physWrite_migrations (s : State) (a : Nat) (bs : List Byte) : (s.physWrite a bs).migrations = s.migrations := rfl
@[simp] theorem State.physWrite_installs (s : State) (a : Nat) (bs : List Byte) : (s.physWrite a bs).installs = s.installs := rfl
@[simp] theorem State.physWrite_relays (s : State) (a : Nat) (bs : List Byte) : (s.physWrite a bs).relays = s.relays := rfl
@[simp] theorem State.physWrite_stubSent (s : State) (a : Nat) (bs : List Byte) : (s.physWrite a bs).stubSent = s.stubSent := rfl
@[simp] theorem State.physWrite_queues (s : State) (a : Nat) (bs : List Byte) : (s.physWrite a bs).queues = s.queues := rfl
@[simp] theorem State.physWrite_evicts (s : State) (a : Nat) (bs : List Byte) : (s.physWrite a bs).evicts = s.evicts := rfl
@[simp] theorem State.physWrite_held (s : State) (a : Nat) (bs : List Byte) : (s.physWrite a bs).held = s.held := rfl
@[simp] theorem State.physWrite_mail (s : State) (a : Nat) (bs : List Byte) : (s.physWrite a bs).mail = s.mail := rfl
@[simp] theorem State.physWrite_sysMem (s : State) (a : Nat) (bs : List Byte) : (s.physWrite a bs).sysMem = s.sysMem := rfl
@[simp] theorem State.physWrite_fwRead (s : State) (a : Nat) (bs : List Byte) : (s.physWrite a bs).fwRead = s.fwRead := rfl
@[simp] theorem State.physWrite_saves (s : State) (a : Nat) (bs : List Byte) : (s.physWrite a bs).saves = s.saves := rfl
@[simp] theorem State.physWrite_am (s : State) (a : Nat) (bs : List Byte) : (s.physWrite a bs).am = s.am := rfl
@[simp] theorem State.physWrite_life (s : State) (a : Nat) (bs : List Byte) : (s.physWrite a bs).life = s.life := rfl
@[simp] theorem State.physWrite_flash (s : State) (a : Nat) (bs : List Byte) : (s.physWrite a bs).flash = s.flash := rfl
@[simp] theorem State.physWrite_keyHash (s : State) (a : Nat) (bs : List Byte) : (s.physWrite a bs).keyHash = s.keyHash := rfl
@[simp] theorem State.physWrite_rollback (s : State) (a : Nat) (bs : List Byte) : (s.physWrite a bs).rollback = s.rollback := rfl

/-! ### `State.useFree` -/

@[simp] theorem State.useFree_cur (s : State) : (s.useFree ).cur = s.cur := rfl
@[simp] theorem State.useFree_agenda (s : State) : (s.useFree ).agenda = s.agenda := rfl
@[simp] theorem State.useFree_tick (s : State) : (s.useFree ).tick = s.tick := rfl
@[simp] theorem State.useFree_cores (s : State) : (s.useFree ).cores = s.cores := rfl
@[simp] theorem State.useFree_slices (s : State) : (s.useFree ).slices = s.slices := rfl
@[simp] theorem State.useFree_clusters (s : State) : (s.useFree ).clusters = s.clusters := rfl
@[simp] theorem State.useFree_mem (s : State) : (s.useFree ).mem = s.mem := rfl
@[simp] theorem State.useFree_mtags (s : State) : (s.useFree ).mtags = s.mtags := rfl
@[simp] theorem State.useFree_host (s : State) : (s.useFree ).host = s.host := rfl
@[simp] theorem State.useFree_contexts (s : State) : (s.useFree ).contexts = s.contexts := rfl
@[simp] theorem State.useFree_exchanges (s : State) : (s.useFree ).exchanges = s.exchanges := rfl
@[simp] theorem State.useFree_criers (s : State) : (s.useFree ).criers = s.criers := rfl
@[simp] theorem State.useFree_walks (s : State) : (s.useFree ).walks = s.walks := rfl
@[simp] theorem State.useFree_chits (s : State) : (s.useFree ).chits = s.chits := rfl
@[simp] theorem State.useFree_asks (s : State) : (s.useFree ).asks = s.asks := rfl
@[simp] theorem State.useFree_askBacks (s : State) : (s.useFree ).askBacks = s.askBacks := rfl
@[simp] theorem State.useFree_watchMsgs (s : State) : (s.useFree ).watchMsgs = s.watchMsgs := rfl
@[simp] theorem State.useFree_scForms (s : State) : (s.useFree ).scForms = s.scForms := rfl
@[simp] theorem State.useFree_nextId (s : State) : (s.useFree ).nextId = s.nextId := rfl
@[simp] theorem State.useFree_dev (s : State) : (s.useFree ).dev = s.dev := rfl
@[simp] theorem State.useFree_fabcfg (s : State) : (s.useFree ).fabcfg = s.fabcfg := rfl
@[simp] theorem State.useFree_doubling (s : State) : (s.useFree ).doubling = s.doubling := rfl
@[simp] theorem State.useFree_routes (s : State) : (s.useFree ).routes = s.routes := rfl
@[simp] theorem State.useFree_ports (s : State) : (s.useFree ).ports = s.ports := rfl
@[simp] theorem State.useFree_packets (s : State) : (s.useFree ).packets = s.packets := rfl
@[simp] theorem State.useFree_out (s : State) : (s.useFree ).out = s.out := rfl
@[simp] theorem State.useFree_owners (s : State) : (s.useFree ).owners = s.owners := rfl
@[simp] theorem State.useFree_owned (s : State) : (s.useFree ).owned = s.owned := rfl
@[simp] theorem State.useFree_pageOrder (s : State) : (s.useFree ).pageOrder = s.pageOrder := rfl
@[simp] theorem State.useFree_acksDue (s : State) : (s.useFree ).acksDue = s.acksDue := rfl
@[simp] theorem State.useFree_migcfg (s : State) : (s.useFree ).migcfg = s.migcfg := rfl
@[simp] theorem State.useFree_holds (s : State) : (s.useFree ).holds = s.holds := rfl
@[simp] theorem State.useFree_migrations (s : State) : (s.useFree ).migrations = s.migrations := rfl
@[simp] theorem State.useFree_installs (s : State) : (s.useFree ).installs = s.installs := rfl
@[simp] theorem State.useFree_relays (s : State) : (s.useFree ).relays = s.relays := rfl
@[simp] theorem State.useFree_stubSent (s : State) : (s.useFree ).stubSent = s.stubSent := rfl
@[simp] theorem State.useFree_queues (s : State) : (s.useFree ).queues = s.queues := rfl
@[simp] theorem State.useFree_evicts (s : State) : (s.useFree ).evicts = s.evicts := rfl
@[simp] theorem State.useFree_held (s : State) : (s.useFree ).held = s.held := rfl
@[simp] theorem State.useFree_mail (s : State) : (s.useFree ).mail = s.mail := rfl
@[simp] theorem State.useFree_sysMem (s : State) : (s.useFree ).sysMem = s.sysMem := rfl
@[simp] theorem State.useFree_fwRead (s : State) : (s.useFree ).fwRead = s.fwRead := rfl
@[simp] theorem State.useFree_saves (s : State) : (s.useFree ).saves = s.saves := rfl
@[simp] theorem State.useFree_am (s : State) : (s.useFree ).am = s.am := rfl
@[simp] theorem State.useFree_life (s : State) : (s.useFree ).life = s.life := rfl
@[simp] theorem State.useFree_flash (s : State) : (s.useFree ).flash = s.flash := rfl
@[simp] theorem State.useFree_keyHash (s : State) : (s.useFree ).keyHash = s.keyHash := rfl
@[simp] theorem State.useFree_rollback (s : State) : (s.useFree ).rollback = s.rollback := rfl

/-! ### `Window.wrS` -/

@[simp] theorem Window.wrS_wid (w : Window) (r : SReg) (v : W64) : (w.wrS r v).wid = w.wid := rfl
@[simp] theorem Window.wrS_p (w : Window) (r : SReg) (v : W64) : (w.wrS r v).p = w.p := rfl
@[simp] theorem Window.wrS_m (w : Window) (r : SReg) (v : W64) : (w.wrS r v).m = w.m := rfl
@[simp] theorem Window.wrS_k (w : Window) (r : SReg) (v : W64) : (w.wrS r v).k = w.k := rfl
@[simp] theorem Window.wrS_v (w : Window) (r : SReg) (v : W64) : (w.wrS r v).v = w.v := rfl
@[simp] theorem Window.wrS_drg (w : Window) (r : SReg) (v : W64) : (w.wrS r v).drg = w.drg := rfl
@[simp] theorem Window.wrS_nxt (w : Window) (r : SReg) (v : W64) : (w.wrS r v).nxt = w.nxt := rfl
@[simp] theorem Window.wrS_byt (w : Window) (r : SReg) (v : W64) : (w.wrS r v).byt = w.byt := rfl
@[simp] theorem Window.wrS_hnde (w : Window) (r : SReg) (v : W64) : (w.wrS r v).hnde = w.hnde := rfl
@[simp] theorem Window.wrS_flg (w : Window) (r : SReg) (v : W64) : (w.wrS r v).flg = w.flg := rfl
@[simp] theorem Window.wrS_pthr (w : Window) (r : SReg) (v : W64) : (w.wrS r v).pthr = w.pthr := rfl
@[simp] theorem Window.wrS_rpc (w : Window) (r : SReg) (v : W64) : (w.wrS r v).rpc = w.rpc := rfl
@[simp] theorem Window.wrS_callw (w : Window) (r : SReg) (v : W64) : (w.wrS r v).callw = w.callw := rfl
@[simp] theorem Window.wrS_svc (w : Window) (r : SReg) (v : W64) : (w.wrS r v).svc = w.svc := rfl
@[simp] theorem Window.wrS_adm (w : Window) (r : SReg) (v : W64) : (w.wrS r v).adm = w.adm := rfl
@[simp] theorem Window.wrS_pc (w : Window) (r : SReg) (v : W64) : (w.wrS r v).pc = w.pc := rfl
@[simp] theorem Window.wrS_park (w : Window) (r : SReg) (v : W64) : (w.wrS r v).park = w.park := rfl
@[simp] theorem Window.wrS_fresh (w : Window) (r : SReg) (v : W64) : (w.wrS r v).fresh = w.fresh := rfl
@[simp] theorem Window.wrS_fr (w : Window) (r : SReg) (v : W64) : (w.wrS r v).fr = w.fr := rfl

/-! ### `Window.wrK` -/

@[simp] theorem Window.wrK_wid (w : Window) (r : KReg) (v : Key) : (w.wrK r v).wid = w.wid := rfl
@[simp] theorem Window.wrK_s (w : Window) (r : KReg) (v : Key) : (w.wrK r v).s = w.s := rfl
@[simp] theorem Window.wrK_p (w : Window) (r : KReg) (v : Key) : (w.wrK r v).p = w.p := rfl
@[simp] theorem Window.wrK_m (w : Window) (r : KReg) (v : Key) : (w.wrK r v).m = w.m := rfl
@[simp] theorem Window.wrK_v (w : Window) (r : KReg) (v : Key) : (w.wrK r v).v = w.v := rfl
@[simp] theorem Window.wrK_drg (w : Window) (r : KReg) (v : Key) : (w.wrK r v).drg = w.drg := rfl
@[simp] theorem Window.wrK_nxt (w : Window) (r : KReg) (v : Key) : (w.wrK r v).nxt = w.nxt := rfl
@[simp] theorem Window.wrK_byt (w : Window) (r : KReg) (v : Key) : (w.wrK r v).byt = w.byt := rfl
@[simp] theorem Window.wrK_hnde (w : Window) (r : KReg) (v : Key) : (w.wrK r v).hnde = w.hnde := rfl
@[simp] theorem Window.wrK_flg (w : Window) (r : KReg) (v : Key) : (w.wrK r v).flg = w.flg := rfl
@[simp] theorem Window.wrK_pthr (w : Window) (r : KReg) (v : Key) : (w.wrK r v).pthr = w.pthr := rfl
@[simp] theorem Window.wrK_rpc (w : Window) (r : KReg) (v : Key) : (w.wrK r v).rpc = w.rpc := rfl
@[simp] theorem Window.wrK_callw (w : Window) (r : KReg) (v : Key) : (w.wrK r v).callw = w.callw := rfl
@[simp] theorem Window.wrK_svc (w : Window) (r : KReg) (v : Key) : (w.wrK r v).svc = w.svc := rfl
@[simp] theorem Window.wrK_adm (w : Window) (r : KReg) (v : Key) : (w.wrK r v).adm = w.adm := rfl
@[simp] theorem Window.wrK_pc (w : Window) (r : KReg) (v : Key) : (w.wrK r v).pc = w.pc := rfl
@[simp] theorem Window.wrK_park (w : Window) (r : KReg) (v : Key) : (w.wrK r v).park = w.park := rfl
@[simp] theorem Window.wrK_fresh (w : Window) (r : KReg) (v : Key) : (w.wrK r v).fresh = w.fresh := rfl
@[simp] theorem Window.wrK_fr (w : Window) (r : KReg) (v : Key) : (w.wrK r v).fr = w.fr := rfl

/-! ### `Window.wrV` -/

@[simp] theorem Window.wrV_wid (w : Window) (r : VIdx) (v : VReg) : (w.wrV r v).wid = w.wid := rfl
@[simp] theorem Window.wrV_s (w : Window) (r : VIdx) (v : VReg) : (w.wrV r v).s = w.s := rfl
@[simp] theorem Window.wrV_p (w : Window) (r : VIdx) (v : VReg) : (w.wrV r v).p = w.p := rfl
@[simp] theorem Window.wrV_m (w : Window) (r : VIdx) (v : VReg) : (w.wrV r v).m = w.m := rfl
@[simp] theorem Window.wrV_k (w : Window) (r : VIdx) (v : VReg) : (w.wrV r v).k = w.k := rfl
@[simp] theorem Window.wrV_drg (w : Window) (r : VIdx) (v : VReg) : (w.wrV r v).drg = w.drg := rfl
@[simp] theorem Window.wrV_nxt (w : Window) (r : VIdx) (v : VReg) : (w.wrV r v).nxt = w.nxt := rfl
@[simp] theorem Window.wrV_byt (w : Window) (r : VIdx) (v : VReg) : (w.wrV r v).byt = w.byt := rfl
@[simp] theorem Window.wrV_hnde (w : Window) (r : VIdx) (v : VReg) : (w.wrV r v).hnde = w.hnde := rfl
@[simp] theorem Window.wrV_flg (w : Window) (r : VIdx) (v : VReg) : (w.wrV r v).flg = w.flg := rfl
@[simp] theorem Window.wrV_pthr (w : Window) (r : VIdx) (v : VReg) : (w.wrV r v).pthr = w.pthr := rfl
@[simp] theorem Window.wrV_rpc (w : Window) (r : VIdx) (v : VReg) : (w.wrV r v).rpc = w.rpc := rfl
@[simp] theorem Window.wrV_callw (w : Window) (r : VIdx) (v : VReg) : (w.wrV r v).callw = w.callw := rfl
@[simp] theorem Window.wrV_svc (w : Window) (r : VIdx) (v : VReg) : (w.wrV r v).svc = w.svc := rfl
@[simp] theorem Window.wrV_adm (w : Window) (r : VIdx) (v : VReg) : (w.wrV r v).adm = w.adm := rfl
@[simp] theorem Window.wrV_pc (w : Window) (r : VIdx) (v : VReg) : (w.wrV r v).pc = w.pc := rfl
@[simp] theorem Window.wrV_park (w : Window) (r : VIdx) (v : VReg) : (w.wrV r v).park = w.park := rfl
@[simp] theorem Window.wrV_fresh (w : Window) (r : VIdx) (v : VReg) : (w.wrV r v).fresh = w.fresh := rfl
@[simp] theorem Window.wrV_fr (w : Window) (r : VIdx) (v : VReg) : (w.wrV r v).fr = w.fr := rfl

/-! ### `Window.wrP` -/

@[simp] theorem Window.wrP_wid (w : Window) (r : PReg) (b : Bool) : (w.wrP r b).wid = w.wid := by unfold Window.wrP; split <;> rfl
@[simp] theorem Window.wrP_s (w : Window) (r : PReg) (b : Bool) : (w.wrP r b).s = w.s := by unfold Window.wrP; split <;> rfl
@[simp] theorem Window.wrP_m (w : Window) (r : PReg) (b : Bool) : (w.wrP r b).m = w.m := by unfold Window.wrP; split <;> rfl
@[simp] theorem Window.wrP_k (w : Window) (r : PReg) (b : Bool) : (w.wrP r b).k = w.k := by unfold Window.wrP; split <;> rfl
@[simp] theorem Window.wrP_v (w : Window) (r : PReg) (b : Bool) : (w.wrP r b).v = w.v := by unfold Window.wrP; split <;> rfl
@[simp] theorem Window.wrP_drg (w : Window) (r : PReg) (b : Bool) : (w.wrP r b).drg = w.drg := by unfold Window.wrP; split <;> rfl
@[simp] theorem Window.wrP_nxt (w : Window) (r : PReg) (b : Bool) : (w.wrP r b).nxt = w.nxt := by unfold Window.wrP; split <;> rfl
@[simp] theorem Window.wrP_byt (w : Window) (r : PReg) (b : Bool) : (w.wrP r b).byt = w.byt := by unfold Window.wrP; split <;> rfl
@[simp] theorem Window.wrP_hnde (w : Window) (r : PReg) (b : Bool) : (w.wrP r b).hnde = w.hnde := by unfold Window.wrP; split <;> rfl
@[simp] theorem Window.wrP_flg (w : Window) (r : PReg) (b : Bool) : (w.wrP r b).flg = w.flg := by unfold Window.wrP; split <;> rfl
@[simp] theorem Window.wrP_pthr (w : Window) (r : PReg) (b : Bool) : (w.wrP r b).pthr = w.pthr := by unfold Window.wrP; split <;> rfl
@[simp] theorem Window.wrP_rpc (w : Window) (r : PReg) (b : Bool) : (w.wrP r b).rpc = w.rpc := by unfold Window.wrP; split <;> rfl
@[simp] theorem Window.wrP_callw (w : Window) (r : PReg) (b : Bool) : (w.wrP r b).callw = w.callw := by unfold Window.wrP; split <;> rfl
@[simp] theorem Window.wrP_svc (w : Window) (r : PReg) (b : Bool) : (w.wrP r b).svc = w.svc := by unfold Window.wrP; split <;> rfl
@[simp] theorem Window.wrP_adm (w : Window) (r : PReg) (b : Bool) : (w.wrP r b).adm = w.adm := by unfold Window.wrP; split <;> rfl
@[simp] theorem Window.wrP_pc (w : Window) (r : PReg) (b : Bool) : (w.wrP r b).pc = w.pc := by unfold Window.wrP; split <;> rfl
@[simp] theorem Window.wrP_park (w : Window) (r : PReg) (b : Bool) : (w.wrP r b).park = w.park := by unfold Window.wrP; split <;> rfl
@[simp] theorem Window.wrP_fresh (w : Window) (r : PReg) (b : Bool) : (w.wrP r b).fresh = w.fresh := by unfold Window.wrP; split <;> rfl
@[simp] theorem Window.wrP_fr (w : Window) (r : PReg) (b : Bool) : (w.wrP r b).fr = w.fr := by unfold Window.wrP; split <;> rfl

/-! ### `Window.wrM` -/

@[simp] theorem Window.wrM_wid (w : Window) (r : MReg) (v : W64) : (w.wrM r v).wid = w.wid := by unfold Window.wrM; split <;> rfl
@[simp] theorem Window.wrM_s (w : Window) (r : MReg) (v : W64) : (w.wrM r v).s = w.s := by unfold Window.wrM; split <;> rfl
@[simp] theorem Window.wrM_p (w : Window) (r : MReg) (v : W64) : (w.wrM r v).p = w.p := by unfold Window.wrM; split <;> rfl
@[simp] theorem Window.wrM_k (w : Window) (r : MReg) (v : W64) : (w.wrM r v).k = w.k := by unfold Window.wrM; split <;> rfl
@[simp] theorem Window.wrM_v (w : Window) (r : MReg) (v : W64) : (w.wrM r v).v = w.v := by unfold Window.wrM; split <;> rfl
@[simp] theorem Window.wrM_drg (w : Window) (r : MReg) (v : W64) : (w.wrM r v).drg = w.drg := by unfold Window.wrM; split <;> rfl
@[simp] theorem Window.wrM_nxt (w : Window) (r : MReg) (v : W64) : (w.wrM r v).nxt = w.nxt := by unfold Window.wrM; split <;> rfl
@[simp] theorem Window.wrM_byt (w : Window) (r : MReg) (v : W64) : (w.wrM r v).byt = w.byt := by unfold Window.wrM; split <;> rfl
@[simp] theorem Window.wrM_hnde (w : Window) (r : MReg) (v : W64) : (w.wrM r v).hnde = w.hnde := by unfold Window.wrM; split <;> rfl
@[simp] theorem Window.wrM_flg (w : Window) (r : MReg) (v : W64) : (w.wrM r v).flg = w.flg := by unfold Window.wrM; split <;> rfl
@[simp] theorem Window.wrM_pthr (w : Window) (r : MReg) (v : W64) : (w.wrM r v).pthr = w.pthr := by unfold Window.wrM; split <;> rfl
@[simp] theorem Window.wrM_rpc (w : Window) (r : MReg) (v : W64) : (w.wrM r v).rpc = w.rpc := by unfold Window.wrM; split <;> rfl
@[simp] theorem Window.wrM_callw (w : Window) (r : MReg) (v : W64) : (w.wrM r v).callw = w.callw := by unfold Window.wrM; split <;> rfl
@[simp] theorem Window.wrM_svc (w : Window) (r : MReg) (v : W64) : (w.wrM r v).svc = w.svc := by unfold Window.wrM; split <;> rfl
@[simp] theorem Window.wrM_adm (w : Window) (r : MReg) (v : W64) : (w.wrM r v).adm = w.adm := by unfold Window.wrM; split <;> rfl
@[simp] theorem Window.wrM_pc (w : Window) (r : MReg) (v : W64) : (w.wrM r v).pc = w.pc := by unfold Window.wrM; split <;> rfl
@[simp] theorem Window.wrM_park (w : Window) (r : MReg) (v : W64) : (w.wrM r v).park = w.park := by unfold Window.wrM; split <;> rfl
@[simp] theorem Window.wrM_fresh (w : Window) (r : MReg) (v : W64) : (w.wrM r v).fresh = w.fresh := by unfold Window.wrM; split <;> rfl
@[simp] theorem Window.wrM_fr (w : Window) (r : MReg) (v : W64) : (w.wrM r v).fr = w.fr := by unfold Window.wrM; split <;> rfl

/-! ### `Window.advance` -/

@[simp] theorem Window.advance_wid (w : Window) : (w.advance).wid = w.wid := rfl
@[simp] theorem Window.advance_s (w : Window) : (w.advance).s = w.s := rfl
@[simp] theorem Window.advance_p (w : Window) : (w.advance).p = w.p := rfl
@[simp] theorem Window.advance_m (w : Window) : (w.advance).m = w.m := rfl
@[simp] theorem Window.advance_k (w : Window) : (w.advance).k = w.k := rfl
@[simp] theorem Window.advance_v (w : Window) : (w.advance).v = w.v := rfl
@[simp] theorem Window.advance_drg (w : Window) : (w.advance).drg = w.drg := rfl
@[simp] theorem Window.advance_nxt (w : Window) : (w.advance).nxt = w.nxt := rfl
@[simp] theorem Window.advance_byt (w : Window) : (w.advance).byt = w.byt := rfl
@[simp] theorem Window.advance_hnde (w : Window) : (w.advance).hnde = w.hnde := rfl
@[simp] theorem Window.advance_flg (w : Window) : (w.advance).flg = w.flg := rfl
@[simp] theorem Window.advance_pthr (w : Window) : (w.advance).pthr = w.pthr := rfl
@[simp] theorem Window.advance_rpc (w : Window) : (w.advance).rpc = w.rpc := rfl
@[simp] theorem Window.advance_callw (w : Window) : (w.advance).callw = w.callw := rfl
@[simp] theorem Window.advance_svc (w : Window) : (w.advance).svc = w.svc := rfl
@[simp] theorem Window.advance_adm (w : Window) : (w.advance).adm = w.adm := rfl
@[simp] theorem Window.advance_park (w : Window) : (w.advance).park = w.park := rfl
@[simp] theorem Window.advance_fresh (w : Window) : (w.advance).fresh = w.fresh := rfl
@[simp] theorem Window.advance_fr (w : Window) : (w.advance).fr = w.fr := rfl

/-! ### `Window.begun` -/

@[simp] theorem Window.begun_wid (w : Window) : (w.begun).wid = w.wid := rfl
@[simp] theorem Window.begun_s (w : Window) : (w.begun).s = w.s := rfl
@[simp] theorem Window.begun_p (w : Window) : (w.begun).p = w.p := rfl
@[simp] theorem Window.begun_m (w : Window) : (w.begun).m = w.m := rfl
@[simp] theorem Window.begun_k (w : Window) : (w.begun).k = w.k := rfl
@[simp] theorem Window.begun_v (w : Window) : (w.begun).v = w.v := rfl
@[simp] theorem Window.begun_drg (w : Window) : (w.begun).drg = w.drg := rfl
@[simp] theorem Window.begun_nxt (w : Window) : (w.begun).nxt = w.nxt := rfl
@[simp] theorem Window.begun_byt (w : Window) : (w.begun).byt = w.byt := rfl
@[simp] theorem Window.begun_hnde (w : Window) : (w.begun).hnde = w.hnde := rfl
@[simp] theorem Window.begun_flg (w : Window) : (w.begun).flg = w.flg := rfl
@[simp] theorem Window.begun_pthr (w : Window) : (w.begun).pthr = w.pthr := rfl
@[simp] theorem Window.begun_rpc (w : Window) : (w.begun).rpc = w.rpc := rfl
@[simp] theorem Window.begun_callw (w : Window) : (w.begun).callw = w.callw := rfl
@[simp] theorem Window.begun_svc (w : Window) : (w.begun).svc = w.svc := rfl
@[simp] theorem Window.begun_adm (w : Window) : (w.begun).adm = w.adm := rfl
@[simp] theorem Window.begun_pc (w : Window) : (w.begun).pc = w.pc := rfl
@[simp] theorem Window.begun_fr (w : Window) : (w.begun).fr = w.fr := rfl

@[simp] theorem Window.advance_pc (w : Window) : w.advance.pc = w.pc + 12 := rfl

@[simp] theorem Window.begun_park (w : Window) : w.begun.park = none := rfl

@[simp] theorem Window.begun_fresh (w : Window) : w.begun.fresh = false := rfl

/-! ### `Core.modCx` -/

@[simp] theorem Core.modCx_wins (k : Core) (x : Ctx) (f : CtxCore → CtxCore) : (k.modCx x f).wins = k.wins := rfl
@[simp] theorem Core.modCx_spilled (k : Core) (x : Ctx) (f : CtxCore → CtxCore) : (k.modCx x f).spilled = k.spilled := rfl
@[simp] theorem Core.modCx_thr (k : Core) (x : Ctx) (f : CtxCore → CtxCore) : (k.modCx x f).thr = k.thr := rfl
@[simp] theorem Core.modCx_bufW (k : Core) (x : Ctx) (f : CtxCore → CtxCore) : (k.modCx x f).bufW = k.bufW := rfl
@[simp] theorem Core.modCx_bufA (k : Core) (x : Ctx) (f : CtxCore → CtxCore) : (k.modCx x f).bufA = k.bufA := rfl
@[simp] theorem Core.modCx_bufS (k : Core) (x : Ctx) (f : CtxCore → CtxCore) : (k.modCx x f).bufS = k.bufS := rfl
@[simp] theorem Core.modCx_bufC (k : Core) (x : Ctx) (f : CtxCore → CtxCore) : (k.modCx x f).bufC = k.bufC := rfl
@[simp] theorem Core.modCx_stags (k : Core) (x : Ctx) (f : CtxCore → CtxCore) : (k.modCx x f).stags = k.stags := rfl
@[simp] theorem Core.modCx_l1 (k : Core) (x : Ctx) (f : CtxCore → CtxCore) : (k.modCx x f).l1 = k.l1 := rfl
@[simp] theorem Core.modCx_jrn (k : Core) (x : Ctx) (f : CtxCore → CtxCore) : (k.modCx x f).jrn = k.jrn := rfl
@[simp] theorem Core.modCx_pend (k : Core) (x : Ctx) (f : CtxCore → CtxCore) : (k.modCx x f).pend = k.pend := rfl
@[simp] theorem Core.modCx_defer (k : Core) (x : Ctx) (f : CtxCore → CtxCore) : (k.modCx x f).defer = k.defer := rfl
@[simp] theorem Core.modCx_slots (k : Core) (x : Ctx) (f : CtxCore → CtxCore) : (k.modCx x f).slots = k.slots := rfl
@[simp] theorem Core.modCx_rings (k : Core) (x : Ctx) (f : CtxCore → CtxCore) : (k.modCx x f).rings = k.rings := rfl
@[simp] theorem Core.modCx_copies (k : Core) (x : Ctx) (f : CtxCore → CtxCore) : (k.modCx x f).copies = k.copies := rfl
@[simp] theorem Core.modCx_mjobs (k : Core) (x : Ctx) (f : CtxCore → CtxCore) : (k.modCx x f).mjobs = k.mjobs := rfl
@[simp] theorem Core.modCx_mrun (k : Core) (x : Ctx) (f : CtxCore → CtxCore) : (k.modCx x f).mrun = k.mrun := rfl
@[simp] theorem Core.modCx_trestle (k : Core) (x : Ctx) (f : CtxCore → CtxCore) : (k.modCx x f).trestle = k.trestle := rfl
@[simp] theorem Core.modCx_waiting (k : Core) (x : Ctx) (f : CtxCore → CtxCore) : (k.modCx x f).waiting = k.waiting := rfl
@[simp] theorem Core.modCx_levels (k : Core) (x : Ctx) (f : CtxCore → CtxCore) : (k.modCx x f).levels = k.levels := rfl
@[simp] theorem Core.modCx_bals (k : Core) (x : Ctx) (f : CtxCore → CtxCore) : (k.modCx x f).bals = k.bals := rfl
@[simp] theorem Core.modCx_awns (k : Core) (x : Ctx) (f : CtxCore → CtxCore) : (k.modCx x f).awns = k.awns := rfl
@[simp] theorem Core.modCx_claims (k : Core) (x : Ctx) (f : CtxCore → CtxCore) : (k.modCx x f).claims = k.claims := rfl
@[simp] theorem Core.modCx_barrow (k : Core) (x : Ctx) (f : CtxCore → CtxCore) : (k.modCx x f).barrow = k.barrow := rfl
@[simp] theorem Core.modCx_freed (k : Core) (x : Ctx) (f : CtxCore → CtxCore) : (k.modCx x f).freed = k.freed := rfl
@[simp] theorem Core.modCx_traps (k : Core) (x : Ctx) (f : CtxCore → CtxCore) : (k.modCx x f).traps = k.traps := rfl
@[simp] theorem Core.modCx_scSeq (k : Core) (x : Ctx) (f : CtxCore → CtxCore) : (k.modCx x f).scSeq = k.scSeq := rfl
@[simp] theorem Core.modCx_stamp (k : Core) (x : Ctx) (f : CtxCore → CtxCore) : (k.modCx x f).stamp = k.stamp := rfl
@[simp] theorem Core.modCx_vidle (k : Core) (x : Ctx) (f : CtxCore → CtxCore) : (k.modCx x f).vidle = k.vidle := rfl
@[simp] theorem Core.modCx_captured (k : Core) (x : Ctx) (f : CtxCore → CtxCore) : (k.modCx x f).captured = k.captured := rfl
@[simp] theorem Core.modCx_gates (k : Core) (x : Ctx) (f : CtxCore → CtxCore) : (k.modCx x f).gates = k.gates := rfl

end Sys2Proof.Machine
end

