-- ==== Sys2Proof/Laws/Tables.lean ====
section
/-! SUPPORT. Laws/Tables.lean: reading a table, a core or a register after it is written. -/

namespace Sys2Proof.Machine

section
variable {κ α : Type} [DecidableEq κ]

@[simp] theorem tabGet_tabPut_same (d : α) (k : κ) (v : α) (l : List (κ × α)) : tabGet d k (tabPut k v l) = v := by
  induction l with
  | nil => simp [tabPut, tabGet]
  | cons p r ih =>
    obtain ⟨x, u⟩ := p
    by_cases h : x = k <;> simp [tabPut, tabGet, h, ih]

theorem tabGet_tabPut_ne (d : α) {k j : κ} (h : j ≠ k) (v : α) (l : List (κ × α)) :
    tabGet d j (tabPut k v l) = tabGet d j l := by
  induction l with
  | nil => simp [tabPut, tabGet, h.symm]
  | cons p r ih =>
    obtain ⟨x, u⟩ := p
    by_cases hx : x = k
    · subst hx
      simp [tabPut, tabGet, h.symm]
    · simp [tabPut, tabGet, hx, ih]

theorem tabPut_tabPut (k : κ) (u v : α) (l : List (κ × α)) : tabPut k v (tabPut k u l) = tabPut k v l := by
  induction l with
  | nil => simp [tabPut]
  | cons p r ih =>
    obtain ⟨x, y⟩ := p
    by_cases h : x = k <;> simp [tabPut, h, ih]

theorem mem_tabPut {k : κ} {v : α} {l : List (κ × α)} {p : κ × α} (h : p ∈ tabPut k v l) : p = (k, v) ∨ p ∈ l := by
  induction l with
  | nil => simpa [tabPut] using h
  | cons q r ih =>
    obtain ⟨x, u⟩ := q
    by_cases hx : x = k
    · simp [tabPut, hx] at h
      rcases h with h | h
      · exact .inl h
      · exact .inr (by simp [h])
    · simp [tabPut, hx] at h
      rcases h with h | h
      · exact .inr (by simp [h])
      · rcases ih h with h | h
        · exact .inl h
        · exact .inr (by simp [h])

end

/-! ### Cores -/

@[simp] theorem State.core_setCore (s : State) (c : Nat) (k : Core) : (s.setCore c k).core c = k := by
  simp [State.core, State.setCore]

theorem State.core_setCore_ne (s : State) {c d : Nat} (h : d ≠ c) (k : Core) : (s.setCore c k).core d = s.core d := by
  simp [State.core, State.setCore, tabGet_tabPut_ne _ h]

@[simp] theorem State.core_modCore (s : State) (c : Nat) (f : Core → Core) : (s.modCore c f).core c = f (s.core c) := by
  simp [State.modCore]

theorem State.core_modCore_ne (s : State) {c d : Nat} (h : d ≠ c) (f : Core → Core) :
    (s.modCore c f).core d = s.core d := State.core_setCore_ne s h _

@[simp] theorem State.me_modMe (s : State) (f : Core → Core) : (s.modMe f).me = f s.me := by
  simp [State.me, State.modMe]

@[simp] theorem State.me_setTop (s : State) (w : Window) : (s.setTop w).me = { s.me with wins := w :: s.me.wins.tail } := by
  simp [State.setTop]

@[simp] theorem State.top_setTop (s : State) (w : Window) : (s.setTop w).top = some w := by
  simp [State.top]

theorem State.setCore_setCore (s : State) (c : Nat) (k l : Core) : (s.setCore c k).setCore c l = s.setCore c l := by
  simp [State.setCore, tabPut_tabPut]

theorem State.modCore_modCore (s : State) (c : Nat) (f g : Core → Core) :
    (s.modCore c f).modCore c g = s.modCore c (g ∘ f) := by
  simp [State.modCore, State.setCore_setCore]

theorem State.modMe_modMe (s : State) (f g : Core → Core) : (s.modMe f).modMe g = s.modMe (g ∘ f) :=
  State.modCore_modCore s s.cur f g

theorem State.me_begun (s : State) (w : Window) (dst : List Dst) :
    (s.begun w dst).me = { s.me with
      wins := w.begun :: s.me.wins.tail
      pend := s.me.pend.map fun p => dst.foldl (fun p d => p.discard w.wid d) p } := by
  simp [State.begun]

@[simp] theorem State.top_begun (s : State) (w : Window) (dst : List Dst) : (s.begun w dst).top = some w.begun := by
  simp [State.top, State.me_begun]

@[simp] theorem State.cur_begun (s : State) (w : Window) (dst : List Dst) : (s.begun w dst).cur = s.cur := rfl

/-! ### Per-context registers of a core -/

@[simp] theorem Core.cx_modCx (k : Core) (x : Ctx) (f : CtxCore → CtxCore) : (k.modCx x f).cx x = f (k.cx x) := by
  simp [Core.cx, Core.modCx]

theorem Core.cx_modCx_ne (k : Core) {x y : Ctx} (h : y ≠ x) (f : CtxCore → CtxCore) : (k.modCx x f).cx y = k.cx y := by
  simp [Core.cx, Core.modCx, tabGet_tabPut_ne _ h]

/-! ### Registers of a window (R162) -/

@[simp] theorem Window.rdS_wrS (w : Window) (r : SReg) (v : W64) : (w.wrS r v).rdS r = v := by
  simp [Window.rdS, Window.wrS]

theorem Window.rdS_wrS_ne (w : Window) {r q : SReg} (h : q ≠ r) (v : W64) : (w.wrS r v).rdS q = w.rdS q := by
  simp only [Window.rdS, Window.wrS]
  exact Vector.getElem_set_ne _ _ (fun e => h (Fin.ext e.symm))

@[simp] theorem Window.rdS_begun (w : Window) (r : SReg) : w.begun.rdS r = w.rdS r := rfl

@[simp] theorem Window.rdP_zero (w : Window) : w.rdP 0 = true := rfl

theorem Window.wrP_zero (w : Window) (b : Bool) : w.wrP 0 b = w := rfl

@[simp] theorem Window.rdM_zero (w : Window) : w.rdM 0 = BitVec.allOnes 64 := rfl

theorem Window.wrM_zero (w : Window) (v : W64) : w.wrM 0 v = w := rfl

@[simp] theorem Window.rdM_wrM (w : Window) {r : MReg} (h : r ≠ 0) (v : W64) : (w.wrM r v).rdM r = v := by
  simp [Window.rdM, Window.wrM, h]

theorem Window.rdM_wrM_ne (w : Window) {r q : MReg} (h : q ≠ r) (v : W64) : (w.wrM r v).rdM q = w.rdM q := by
  by_cases hr : r = 0
  · simp [Window.wrM, hr]
  · by_cases hq : q = 0
    · simp [hq]
    · simp only [Window.rdM, Window.wrM, hr, hq, if_false]
      exact Vector.getElem_set_ne _ _ (fun e => h (Fin.ext e.symm))

@[simp] theorem Window.rdK_wrK (w : Window) (r : KReg) (v : Key) : (w.wrK r v).rdK r = v := by
  simp [Window.rdK, Window.wrK]

theorem Window.rdK_wrK_ne (w : Window) {r q : KReg} (h : q ≠ r) (v : Key) : (w.wrK r v).rdK q = w.rdK q := by
  simp only [Window.rdK, Window.wrK]
  exact Vector.getElem_set_ne _ _ (fun e => h (Fin.ext e.symm))

end Sys2Proof.Machine
end

