-- ==== Sys2Proof/Laws/Frame.lean ====
section
/-! SUPPORT. Laws/Frame.lean: the frame of a word that writes its own window, and what a word does whose guard fails or
whose switch marker holds it back, over `issue` and `vecIssue`. -/

namespace Sys2Proof.Machine

/-- Discards touch no field of an outstanding result but its two marks (R211). -/
theorem foldl_discard (wid : Nat) (dst : List Dst) (p : Pend) :
    { (dst.foldl (fun p d => p.discard wid d) p) with dead := false, deadLanes := 0 } = { p with dead := false, deadLanes := 0 } := by
  induction dst generalizing p with
  | nil => rfl
  | cons d r ih =>
    rw [List.foldl_cons, ih]
    unfold Pend.discard
    repeat' split
    all_goals rfl

/-- The frame of a word without flags. -/
theorem put_own (s : State) (w v : Window) (dst : List Dst) : OwnFrame s (s.put w dst v) w v.advance := by
  have hme : (s.put w dst v).me = { s.me with wins := v.advance :: s.me.wins.tail, pend := s.me.pend.map fun p => dst.foldl (fun p d => p.discard w.wid d) p } := by
    simp [State.put, State.me_begun]
  constructor
  · refine ⟨rfl, ?_⟩
    intro c hc
    simp only [State.put, State.begun, State.setTop, State.modMe]
    rw [State.core_modCore_ne, State.core_modCore_ne, State.core_modCore_ne] <;> exact hc
  · rw [hme]; rfl
  · rw [hme]
  · intro x; rw [hme]; rfl
  · intro x _; rw [hme]; rfl
  · rw [hme]
    simp only [SamePend, List.map_map]
    apply List.map_congr_left
    intro p _
    exact foldl_discard _ _ _

/-- The frame of a word that raises flags (R225). -/
theorem after_own (s : State) (w v : Window) (dst : List Dst) (fl) (hf : v.fr = w.fr):
    OwnFrame s (s.after w dst v fl) w { v.advance with flg := v.flg ||| fl } ∧ 
      ((s.after w dst v fl).me.cx w.fr.ctx).cflg = (s.me.cx w.fr.ctx).cflg ||| fl := by
  have hme : (s.after w dst v fl).me = ({ s.me with wins := { v.advance with flg := v.flg ||| fl } :: s.me.wins.tail, pend := s.me.pend.map fun p => dst.foldl (fun p d => p.discard w.wid d) p } : Core).modCx w.fr.ctx fun c => { c with cflg := c.cflg ||| fl } := by
    simp [State.after, State.retire, State.me_begun, hf]
  constructor
  · constructor
    · refine ⟨rfl, ?_⟩
      intro c hc
      simp only [State.after, State.retire, State.begun, State.setTop, State.modMe]
      rw [State.core_modCore_ne, State.core_modCore_ne, State.core_modCore_ne, State.core_modCore_ne] <;> exact hc
    · rw [hme]; rfl
    · rw [hme]; rfl
    · intro x; rw [hme]
      by_cases hx : x = w.fr.ctx
      · subst hx; rw [Core.cx_modCx]; rfl
      · rw [Core.cx_modCx_ne _ hx]; rfl
    · intro x hx; rw [hme, Core.cx_modCx_ne _ hx]; rfl
    · rw [hme]
      simp only [SamePend, Core.modCx_pend, List.map_map]
      apply List.map_congr_left
      intro p _
      exact foldl_discard _ _ _
  · rw [hme, Core.cx_modCx]; rfl

/-- Some destinations under which the word is skipped or held back. -/
def SkipOk (s : State) (w : Window) (h : Hdr) (f : Bool) (o : Out) : Prop :=
  ∃ dst, (w.guard h = false → ((h.sw || f) = true → s.me.outstanding w.fr = false) → o = .next (s.put w dst w.begun)) ∧
    ((h.sw || f) = true → s.me.outstanding w.fr = true → o = .next (s.parkTop .marker))

theorem issue_so {s : State} {w : Window} {h : Hdr} {f : Bool} (ht : s.top = some w) (dst body) :
    SkipOk s w h f (issue h f dst s body) :=
  ⟨dst, fun hg hf => issue_skip ht hf hg, fun hm ho => issue_marked ht hm ho⟩

theorem vec_so {s : State} {w : Window} {h : Hdr} (ht : s.top = some w) (dst body) :
    SkipOk s w h false (vecIssue h dst s body) := by
  refine ⟨dst, ?_, ?_⟩
  · intro hg hf
    unfold vecIssue
    rw [issue_skip ht hf hg]
    dsimp only
    split
    · rfl
    · have : ((s.begun w dst).setTop w.begun.advance).top = some w.begun.advance := by
        simp [State.top, State.me_begun]
      rw [this]; rfl
  · intro hm ho
    unfold vecIssue
    rw [issue_marked ht hm ho]
    dsimp only
    split
    · rfl
    · have : (s.parkTop .marker).top = some { w with park := some .marker } := by
        have : s.me.wins.head? = some w := ht
        cases h : s.me.wins <;> simp_all [State.top, State.parkTop, State.modTop]
      rw [this]; rfl

end Sys2Proof.Machine
end

