-- ==== Sys2Proof/Laws/Memory.lean ====
section
/-! SUPPORT. Laws/Memory.lean: the canonical form of memory, and reading a byte after a write. -/

namespace Sys2Proof.Machine

theorem memWfFrom_mono {m : Mem} {i j : Nat} (h : i ≤ j) (hm : memWfFrom j m = true) : memWfFrom i m = true := by
  cases m with
  | nil => rfl
  | cons p r =>
    obtain ⟨a, b⟩ := p
    simp only [memWfFrom, Bool.and_eq_true, decide_eq_true_eq] at hm ⊢
    exact ⟨⟨by omega, hm.1.2⟩, hm.2⟩

theorem filter_wfFrom {m : Mem} {lo : Nat} (p : Host.Cell → Bool) (hm : memWfFrom lo m = true) :
    memWfFrom lo (m.filter p) = true := by
  induction m generalizing lo with
  | nil => rfl
  | cons q r ih =>
    obtain ⟨a, b⟩ := q
    simp only [memWfFrom, Bool.and_eq_true, decide_eq_true_eq] at hm
    simp only [List.filter]
    split
    · simp only [memWfFrom, Bool.and_eq_true, decide_eq_true_eq]
      exact ⟨hm.1, ih hm.2⟩
    · exact memWfFrom_mono (by omega) (ih hm.2)

theorem memPut_wfFrom {m : Mem} {lo a : Nat} {b : Byte} (hb : b ≠ 0) (hlo : lo ≤ a) (hm : memWfFrom lo m = true)
    (ha : ∀ c ∈ m, c.1 ≠ a) : memWfFrom lo (memPut m a b) = true := by
  induction m generalizing lo with
  | nil => simpa [memPut, memWfFrom, hlo] using hb
  | cons p r ih =>
    obtain ⟨x, v⟩ := p
    simp only [memWfFrom, Bool.and_eq_true, decide_eq_true_eq] at hm
    have hx : x ≠ a := ha (x, v) (List.mem_cons_self ..)
    simp only [memPut]
    split
    · rename_i h
      simp only [memWfFrom, Bool.and_eq_true, decide_eq_true_eq]
      exact ⟨⟨hlo, hb⟩, ⟨by omega, hm.1.2⟩, hm.2⟩
    · rename_i h
      simp only [memWfFrom, Bool.and_eq_true, decide_eq_true_eq]
      exact ⟨hm.1, ih (by omega) hm.2 fun c hc => ha c (List.mem_cons_of_mem _ hc)⟩

theorem memSet_wfFrom {m : Mem} {lo a : Nat} (b : Byte) (hlo : lo ≤ a) (hm : memWfFrom lo m = true) :
    memWfFrom lo (memSet m a b) = true := by
  unfold memSet
  dsimp only
  split
  · exact filter_wfFrom _ hm
  · rename_i hb
    exact memPut_wfFrom hb hlo (filter_wfFrom _ hm) fun c hc => by simpa using (List.mem_filter.mp hc).2

theorem memSet_wf {m : Mem} (a : Nat) (b : Byte) (hm : Memory.wf m = true) : Memory.wf (memSet m a b) = true :=
  memSet_wfFrom b (Nat.zero_le a) hm

theorem memWrite_wf {m : Mem} (a : Nat) (bs : List Byte) (hm : Memory.wf m = true) : Memory.wf (memWrite m a bs) = true := by
  induction bs generalizing m a with
  | nil => exact hm
  | cons b r ih => exact ih (a + 1) (memSet_wf a b hm)

theorem memMask_wf {m : Mem} (a : Nat) (bs : List (Option Byte)) (hm : Memory.wf m = true) :
    Memory.wf (memMask m a bs) = true := by
  induction bs generalizing m a with
  | nil => exact hm
  | cons b r ih =>
    cases b with
    | none => exact ih (a + 1) hm
    | some b => exact ih (a + 1) (memSet_wf a b hm)

theorem memWipe_wf {m : Mem} (lo hi : Nat) (hm : Memory.wf m = true) : Memory.wf (memWipe m lo hi) = true :=
  filter_wfFrom _ hm

theorem memGet_absent {m : Mem} {a : Nat} (h : ∀ c ∈ m, c.1 ≠ a) : memGet m a = 0 := by
  induction m with
  | nil => rfl
  | cons p r ih =>
    have : p.1 ≠ a := h p (List.mem_cons_self ..)
    simp only [memGet, this, if_false]
    exact ih fun c hc => h c (List.mem_cons_of_mem _ hc)

theorem memGet_memPut {m : Mem} {a : Nat} (b : Byte) (h : ∀ c ∈ m, c.1 ≠ a) : memGet (memPut m a b) a = b := by
  induction m with
  | nil => simp [memPut, memGet]
  | cons p r ih =>
    have : p.1 ≠ a := h p (List.mem_cons_self ..)
    simp only [memPut]
    split
    · simp [memGet]
    · simp only [memGet, this, if_false]
      exact ih fun c hc => h c (List.mem_cons_of_mem _ hc)

/-- A byte reads as it was written. -/
theorem memGet_memSet (m : Mem) (a : Nat) (b : Byte) : memGet (memSet m a b) a = b := by
  have h : ∀ c ∈ m.filter (fun c => decide (c.1 ≠ a)), c.1 ≠ a := fun c hc => by simpa using (List.mem_filter.mp hc).2
  unfold memSet
  dsimp only
  split
  · rename_i hb
    rw [hb]
    exact memGet_absent h
  · exact memGet_memPut b h

theorem memGet_memPut_ne {m : Mem} {a c : Nat} (b : Byte) (h : c ≠ a) : memGet (memPut m a b) c = memGet m c := by
  induction m with
  | nil => simp [memPut, memGet, h.symm]
  | cons p r ih =>
    simp only [memPut]
    split
    · simp [memGet, h.symm]
    · simp only [memGet, ih]

theorem memGet_filter_ne {m : Mem} {a c : Nat} (h : c ≠ a) :
    memGet (m.filter fun d => decide (d.1 ≠ a)) c = memGet m c := by
  induction m with
  | nil => rfl
  | cons p r ih =>
    by_cases hp : p.1 = a
    · have : p.1 ≠ c := fun e => h (e.symm.trans hp)
      simp only [List.filter, hp, ne_eq, not_true_eq_false, decide_false, memGet, ih]
      simp [h.symm]
    · simp only [List.filter, hp, ne_eq, not_false_eq_true, decide_true, memGet, ih]

/-- A write leaves every other byte alone. -/
theorem memGet_memSet_ne {m : Mem} {a c : Nat} (b : Byte) (h : c ≠ a) : memGet (memSet m a b) c = memGet m c := by
  unfold memSet
  dsimp only
  split
  · exact memGet_filter_ne h
  · rw [memGet_memPut_ne b h, memGet_filter_ne h]

theorem memGet_memWrite_out {m : Mem} {a c : Nat} (bs : List Byte) (h : c < a ∨ a + bs.length ≤ c) :
    memGet (memWrite m a bs) c = memGet m c := by
  induction bs generalizing m a with
  | nil => rfl
  | cons b r ih =>
    simp only [List.length_cons] at h
    rw [memWrite, ih (by omega), memGet_memSet_ne b (by omega)]

theorem memGet_memMask_out {m : Mem} {a c : Nat} (bs : List (Option Byte)) (h : c < a ∨ a + bs.length ≤ c) :
    memGet (memMask m a bs) c = memGet m c := by
  induction bs generalizing m a with
  | nil => rfl
  | cons b r ih =>
    simp only [List.length_cons] at h
    cases b with
    | none => rw [memMask, ih (by omega)]
    | some b => rw [memMask, ih (by omega), memGet_memSet_ne b (by omega)]

/-- A byte reads as the write of its run left it. -/
theorem memGet_memWrite_in {m : Mem} {a i : Nat} (bs : List Byte) (h : i < bs.length) :
    memGet (memWrite m a bs) (a + i) = bs[i] := by
  induction bs generalizing m a i with
  | nil => simp at h
  | cons b r ih =>
    cases i with
    | zero =>
      rw [memWrite, memGet_memWrite_out r (by omega)]
      simpa using memGet_memSet m a b
    | succ n =>
      have := ih (m := memSet m a b) (a := a + 1) (i := n) (by simpa using h)
      simpa [memWrite, Nat.add_assoc, Nat.add_comm 1 n] using this

/-- A byte of a masked write that is there reads as it was written; one that is not stands. -/
theorem memGet_memMask_in {m : Mem} {a i : Nat} (bs : List (Option Byte)) (h : i < bs.length) :
    memGet (memMask m a bs) (a + i) = bs[i].getD (memGet m (a + i)) := by
  induction bs generalizing m a i with
  | nil => simp at h
  | cons b r ih =>
    cases i with
    | zero =>
      cases b with
      | none => rw [memMask, memGet_memMask_out r (by omega)]; rfl
      | some b => rw [memMask, memGet_memMask_out r (by omega)]; simpa using memGet_memSet m a b
    | succ n =>
      have hn : n < r.length := by simpa using h
      have e : a + (n + 1) = a + 1 + n := by omega
      cases b with
      | none => rw [memMask, e, ih hn]; rfl
      | some b =>
        rw [memMask, e, ih hn, memGet_memSet_ne b (by omega)]
        rfl

/-! ### Host memory and the storage of region 0xFF: every byte written stays listed -/

theorem hostSet_fst {m : Mem} {a : Nat} {b : Byte} {c : Host.Cell} (h : c ∈ hostSet m a b) : c.1 = a ∨ c ∈ m := by
  induction m with
  | nil => left; simp only [hostSet, List.mem_singleton] at h; rw [h]
  | cons p r ih =>
    simp only [hostSet] at h
    split at h
    · rcases List.mem_cons.mp h with rfl | h <;> simp_all
    · split at h
      · rcases List.mem_cons.mp h with rfl | h <;> simp_all
      · rcases List.mem_cons.mp h with rfl | h
        · simp
        · rcases ih h with h | h <;> simp [h]

/-- Addresses stay strictly rising. -/
theorem hostSet_rises {m : Mem} (a : Nat) (b : Byte) (hm : m.Pairwise fun c d => c.1 < d.1) :
    (hostSet m a b).Pairwise fun c d => c.1 < d.1 := by
  induction m with
  | nil => simp [hostSet]
  | cons p r ih =>
    obtain ⟨h1, h2⟩ := List.pairwise_cons.mp hm
    simp only [hostSet]
    split
    · refine List.pairwise_cons.mpr ⟨fun c hc => ?_, hm⟩
      rcases List.mem_cons.mp hc with rfl | hc
      · assumption
      · exact Nat.lt_trans ‹_› (h1 c hc)
    · split
      · rename_i e
        exact List.pairwise_cons.mpr ⟨fun c hc => by have := h1 c hc; omega, h2⟩
      · refine List.pairwise_cons.mpr ⟨fun c hc => ?_, ih h2⟩
        rcases hostSet_fst hc with h | h
        · omega
        · exact h1 c h

theorem hostMask_rises {m : Mem} (a : Nat) (bs : List (Option Byte)) (hm : m.Pairwise fun c d => c.1 < d.1) :
    (hostMask m a bs).Pairwise fun c d => c.1 < d.1 := by
  induction bs generalizing m a with
  | nil => exact hm
  | cons b r ih =>
    cases b with
    | none => exact ih (a + 1) hm
    | some b => exact ih (a + 1) (hostSet_rises a b hm)

/-- A byte written to host memory reads as it was written. -/
theorem hostGet_hostSet (m : Mem) (a : Nat) (b : Byte) : hostGet (hostSet m a b) a = b := by
  induction m with
  | nil => simp [hostSet, hostGet]
  | cons p r ih =>
    simp only [hostSet]
    split
    · simp [hostGet]
    · split
      · simp [hostGet]
      · have : p.1 ≠ a := by omega
        simp only [hostGet, this, if_false, ih]

end Sys2Proof.Machine
end

