-- ==== Sys2Proof/Tests/Slice0.lean ====
section
/-! SUPPORT. Slice0.lean: small tests. Every expected value is from the spec: a worked example of a rule, or a hand
calculation from the rule named beside it. -/

namespace Sys2Proof.Tests

set_option Elab.async false

open Sys2Proof Sys2Proof.Machine

/-- A header with every bit clear. -/
def bare : Hdr := ⟨false, 0, false, 0, false, false, false⟩

/-! ### Well-formedness refuses (R201 to R205, R242, R256, R272, R290, R297, R302, R328) -/

def v3 (t : Ty) (b : Bc) : V3 := ⟨0, t, false, 0, 0, b⟩

theorem smoke_scvt : Instr.wf (.scvt bare .rne .i4 .f32 false 0 0) = false := by decide
theorem smoke_scvt_mode : Instr.wf (.scvt bare .rtz .mk8 .f32 false 0 0) = false := by decide
theorem smoke_scvt_uns : Instr.wf (.scvt bare .rne .f32 .f64 true 0 0) = false := by decide
theorem smoke_ld : Instr.wf (.ld bare ⟨.i4, false, 0, .k 0, .imm 0⟩) = false := by decide
theorem smoke_ld_uns : Instr.wf (.ldaq bare .device ⟨.f32, true, 0, .k 0, .imm 0⟩) = false := by decide
theorem smoke_st : Instr.wf (.st bare ⟨.ci8, .imm 0, .k 0, .imm 0⟩) = false := by decide
theorem smoke_strl : Instr.wf (.strl bare .device ⟨.ci4, .imm 0, .k 0, .imm 0⟩) = false := by decide
theorem smoke_ldb : Instr.wf (.ldb bare .f32 true 0 (.bu 0 0) (.imm 0)) = false := by decide
theorem smoke_stb : Instr.wf (.stb bare .i4 (.imm 0) (.bu 0 0) (.imm 0)) = false := by decide
theorem smoke_amo : Instr.wf (.amo bare .device .rlx .i8 .add 0 (.k 0) (.imm 0)) = false := by decide
theorem smoke_amo_float : Instr.wf (.amo bare .device .rlx .f32 .xor 0 (.k 0) (.imm 0)) = false := by decide
theorem smoke_amo_sc : Instr.wf (.amo bare .die .sc .i64 .add 0 (.k 0) (.imm 0)) = false := by decide
theorem smoke_cas : Instr.wf (.cas bare .device .rlx .i64 1 (.k 0) (.imm 0)) = false := by decide
theorem smoke_fence : Instr.wf (.fence bare false false false) = false := by decide
theorem smoke_fenr : Instr.wf (.fenr bare .device .rlx (.imm 0)) = false := by decide
theorem smoke_vadd : Instr.wf (.vadd bare .ss (v3 .f32 (.v 0))) = false := by decide
theorem smoke_vmul : Instr.wf (.vmul bare (v3 .f32 (.imm 1))) = false := by decide
theorem smoke_vmin : Instr.wf (.vmin bare true (v3 .bf16 (.v 0))) = false := by decide
theorem smoke_vabs : Instr.wf (.vabs bare false ⟨0, .mk8, false, 0, 0⟩) = false := by decide
theorem smoke_vand : Instr.wf (.vand bare (v3 .f16 (.v 0))) = false := by decide
theorem smoke_vcmp : Instr.wf (.vcmp bare 0 .f32 false (.int .ltu) 0 0 (.v 0)) = false := by decide
theorem smoke_vsel : Instr.wf (.vsel bare 0 .i64 0 0 (.v 0)) = false := by decide
theorem smoke_vcvt : Instr.wf (.vcvt bare 0 .i8 .ci8 false false false 0 0 0) = false := by decide
theorem smoke_vcvt_ef : Instr.wf (.vcvt bare 0 .bf16 .f16 false true false 0 0 0) = false := by decide
theorem smoke_vcvt_cont : Instr.wf (.vcvt bare 0 .bf16 .f32 false false true 0 0 0) = false := by decide
theorem smoke_vred : Instr.wf (.vred bare 0 .ci8 .add false 0 0) = false := by decide
theorem smoke_vdot : Instr.wf (.vdot bare 0 .f32 false 3 0 0) = false := by decide
theorem smoke_vscan : Instr.wf (.vscan bare .add false ⟨0, .mk8, false, 0, 0⟩) = false := by decide
theorem smoke_vbc : Instr.wf (.vbc bare 0 .f32 false 0 (.imm 1)) = false := by decide
theorem smoke_vldx : Instr.wf (.vldx bare 0 .i32 false 1 0 (.bu 0 0) 0) = false := by decide
theorem smoke_vexp : Instr.wf (.vexp bare ⟨0, .i32, false, 0, 0⟩) = false := by decide
theorem smoke_vcmul : Instr.wf (.vcmul bare ⟨0, .f32, false, false, 1, 0, 0, 0⟩) = false := by decide
theorem smoke_vclmp : Instr.wf (.vclmp bare true ⟨0, .f32, false, 0, 0⟩ 0) = false := by decide
theorem smoke_mpass : Instr.wf (.mpass bare ⟨.bf16, .i8, .imm 0, .bu 1 0, .bu 0 0⟩) = false := by decide
theorem smoke_mpassc : Instr.wf (.mpassc bare false ⟨.ci8, .i8, .imm 0, .bu 1 0, .bu 0 0⟩) = false := by decide
theorem smoke_mpassr : Instr.wf (.mpassr bare .f32 .bf16 (.imm 0) 0 (.bu 0 0)) = false := by decide
theorem smoke_mdrain : Instr.wf (.mdrain bare .f64 false false 0 (.bu 1 0) (.imm 0)) = false := by decide
theorem smoke_mpack : Instr.wf (.mpack bare .f32 (.bu 0 0) (.bu 1 0) (.bu 3 0)) = false := by decide
theorem smoke_mtrn : Instr.wf (.mtrn bare .i4 (.bu 1 0) (.bu 1 0) (.imm 0)) = false := by decide
theorem smoke_spawn : Instr.wf (.spawn bare (some (.s 0)) (.k 0) (.imm 0)) = false := by decide
theorem smoke_copy : Instr.wf (.copy bare true false false 0 false false (.k 0) (.s 1) (.imm 1)) = false := by decide
theorem smoke_mfs : Instr.wf (.mfs bare 0 0x00A) = false := by decide
theorem smoke_core : Instr.wf (.fenceDone 768) = false := by decide
theorem smoke_slice : Instr.wf (.pageWalkDone 192 0) = false := by decide
theorem smoke_port : Instr.wf (.linkTrained ⟨48, 0⟩) = false := by decide
theorem smoke_die : Instr.wf (.bell 4) = false := by decide
theorem smoke_queue : Instr.wf (.eventWrite 16) = false := by decide
theorem smoke_stub : Instr.wf (.ownerAck 16384) = false := by decide
theorem smoke_redirect : Instr.wf (.misroute (.jrn 0 128)) = false := by decide

/-! ### Decoding: words written out from the encodings -/

-- R223's example: (!p3) add.sw s1, s2, -5.
theorem dec_add : decodeTableWord 96 0xB808_0000_0000_0400_005B_FFFB =
    some (.add { bare with sw := true, g := 3, gn := true } ⟨.w64, .wrap, 1, 2, .imm 0x3FFFB⟩) := by decide +kernel
-- R223's example: movi s4, 0x12_3456_789A.
theorem dec_movi : decodeTableWord 96 0x0100_0000_0000_1091_A2BE_789A = some (.movi bare 4 (.long 0x123456789A)) := by
  decide +kernel
-- R237's example: (p1) cmp.w32.ltu p2, s3, 100.
theorem dec_cmp : decodeTableWord 96 0x1110_000C_A000_0800_0078_0064 =
    some (.cmp { bare with g := 1 } .w32 .ltu 2 3 (.imm 100)) := by decide +kernel
-- OP 0x33, D = s10, B = -1.
theorem dec_loop : decodeTableWord 96 0x0198_0000_0000_2800_001B_FFFF = some (.loop bare 10 (.short 0x3FFFF)) := by
  decide +kernel
-- OP 0x40, TYPE 2, D = s4, A = k3, B = 0xFFC.
theorem dec_ld : decodeTableWord 96 0x0200_0008_0000_1180_0078_0FFC =
    some (.ld bare ⟨.i32, false, 4, .k 3, .imm 0xFFC⟩) := by decide +kernel
-- OP 0x81, MSK = m1, TYPE 7, D = s6, A = v2.
theorem dec_vred : decodeTableWord 96 0x0408_001C_8000_1880_0040_0000 = some (.vred bare 1 .f32 .add false 6 2) := by
  decide +kernel
theorem dec_mpass : decodeTableWord 96 0x0588_0264_6143_E6A0_2014_0000 =
    some (.mpass bare ⟨.mk8, .mk8, .imm 0x050F9, .bu 1 0x100, .bu 0 0⟩) := by decide +kernel
theorem dec_mdrain : decodeTableWord 96 0x05A8_0054_5440_030F_C000_0000 =
    some (.mdrain bare .bf16 true false 0 (.bu 1 0x1000) (.imm 0x7E00)) := by decide +kernel
theorem dec_claim : decodeTableWord 96 0x0690_0000_0000_0000_0018_0001 = some (.claim bare (.imm 1)) := by decide +kernel
theorem dec_bara : decodeTableWord 96 0x06A8_0A00_0000_0000_00D8_0000 = some (.bara bare .device (.s 6) (.imm 0)) := by
  decide +kernel
theorem dec_succ : decodeTableWord 96 0x0740_0000_8000_0000_0018_0201 = some (.succ bare (.byt (.imm (.short 0x201)))) := by
  decide +kernel
-- R232: mov s1, s2 is OP 0x1F with D = s1 and B = s2. A with a bit set is refused.
theorem dec_mov : decodeTableWord 96 (0x1F * 2 ^ 83 + 2 ^ 42 + 2) = some (.mov bare (.ss 1 2)) := by decide +kernel
theorem dec_mov_a : decodeTableWord 96 (0x1F * 2 ^ 83 + 2 ^ 42 + 2 ^ 21 + 2) = none := by decide +kernel
-- R238: fadd.f32.rtz s1, s2, s3 is OP 0x25 with RM 1 and TYPE 7.
theorem dec_fadd : decodeTableWord 96 (0x25 * 2 ^ 83 + (1 + 8 * 7) * 2 ^ 63 + 2 ^ 42 + 2 * 2 ^ 21 + 3) =
    some (.fadd bare ⟨.rtz, false, 1, 2, 3⟩) := by decide +kernel
-- R213 steps 1, 2 and 6: OP 0, bit 77, and a privileged word outside a SYS ticket.
theorem dec_zero : decodeTableWord 96 0 = none := by decide +kernel
theorem dec_bit77 : decodeTableWord 96 (0x1F * 2 ^ 83 + 2 ^ 77 + 2 ^ 42 + 2) = none := by decide +kernel
theorem dec_eret_user : (match decode false 16 (0xE4 * 2 ^ 83) with
    | .error e => e
    | .ok _ => .illegal) = .priv := by decide +kernel
-- R162: a vector register at or above the window's count is refused.
theorem dec_vcount : (match decode false 8 (0x80 * 2 ^ 83 + 2 * 8 * 2 ^ 63 + (2 ^ 18 + 8) * 2 ^ 42 + 2 ^ 39 + 2 ^ 18) with
    | .error _ => true
    | .ok _ => false) = true := by decide +kernel

/-! ### Values from the spec's worked examples -/

-- R7's example: core 137 of CD2.
theorem val_core : clusterOf 521 = 2 * 48 + 41 ∧ posOf 521 = 0 ∧ dieOf 521 = 2 := by decide
-- R27's example: S:0x3_0000 on core 137 of CD2.
theorem val_window : winCore 0x00B4_4E00_0003_0000 = 521 ∧ winBuf 0x00B4_4E00_0003_0000 = 3 ∧
    winOff 0x00B4_4E00_0003_0000 = 0x30000 := by decide +kernel
/-- The key of R48's example. -/
def key46 : Key := ⟨0x00A1_8B00_0000_0000_0000_0040_0010_1234, true⟩
theorem val_key_bounds : key46.bounds = some (0x0040_0010_0000, 0x0040_0020_0000) := by decide +kernel
/-- The fault code of a check; 0 where it passes. -/
def codeOf {α : Type} : Except FaultInfo α → Nat
  | .ok _ => 0
  | .error f => f.code
theorem val_key_checks : codeOf (key46.check pREAD 0x0040_001F_FFF8 8 1 false) = 0 ∧
    codeOf (key46.check pREAD 0x0040_001F_FFFC 8 1 false) = cBOUNDS ∧
    codeOf (key46.check pATOM 0x0040_001F_FFFC 8 3 false) = cPERM := by decide +kernel
-- R93's example: the home slice is slice 24 of CD2.
theorem val_home : homeSlice 0 (vaOf 0 0x40_1280) = 2 * 48 + 24 := by decide +kernel
-- R186's examples.
theorem val_mk8_one : convert .mk8 .f32 false .rne 0x3F80_0000 = (0x41, 0) := by decide +kernel
theorem val_mk8_tenth : convert .mk8 .f32 false .rne 0x3DCC_CCCD = (0x16, fNX) := by decide +kernel
theorem val_mk8_tie : convert .mk8 .f32 false .rne 0x407C_0000 = (0x42, fNX) := by decide +kernel
theorem val_mk8_neg : convert .mk8 .f32 false .rne 0xC4BB_8000 = (0xE0, fNX) := by decide +kernel
theorem val_mk8_sat : convert .mk8 .f32 false .rne 0x459C_4000 = (0x40, fSAT ||| fNX) := by decide +kernel
theorem val_mk8_nan : convert .mk8 .f32 false .rne 0x7FC0_0000 = (0x80, fSPC) := by decide +kernel
-- R243's examples.
theorem val_scvt_i8 : convert .i8 .f32 false .rtz 0xC30A_0000 = (0x80, fSAT) := by decide +kernel
theorem val_scvt_u8 : convert .i8 .f32 true .rtz 0xC30A_0000 = (0, fSAT) := by decide +kernel
-- R189's example: 1.03125 by EF gives 1.0 and keeps 0.03125, then gives 1.0625.
theorem val_ef : (efStep .mk8 0 0x3F84_0000).1 = 0x41 ∧ (efStep .mk8 0 0x3F84_0000).2.2 = 0x3D00_0000 ∧
    (efStep .mk8 0x3D00_0000 0x3F84_0000).1 = 0x43 := by decide +kernel
-- R403's example: CTL = 0x0000_0031_009A_A853.
theorem val_ctl : let i := 0x0000_0031_009A_A853 * 2 ^ 64
    imgPrio i = 3 ∧ imgVwin i = 1 ∧ imgClass i = 1 ∧ imgRadius i = 2 ∧ imgHint i = 192 + 83 ∧ imgHintv i = true ∧
      imgCtx i = 0x31 ∧ imgSys i = false := by decide +kernel
/-- The descriptor of R370's example. -/
def morton : BitVec 256 := 0x2000_0000_0010_0002
def dealt (p : Option (Nat × Nat × Nat)) : List (Option (Nat × Nat × Nat)) :=
  (List.range 6).scanl (fun q _ => q.bind (nextCoord morton.toNat)) p
-- R370's example: the Morton order of a 3 by 2 grid.
theorem val_morton : dealt (some (0, 0, 0)) =
    [some (0, 0, 0), some (1, 0, 0), some (0, 1, 0), some (1, 1, 0), some (2, 0, 0), some (2, 1, 0), none] := by decide +kernel

/-! ### Steps -/

/-- A frame of context 5 at priority 3 that is not SYS. -/
def user : Frame := { probeFrame with ctx := 5, pri := 3, lvl := 3, serial := 1, sys := false }

/-- A window of that frame with these scalar registers and this key in k1. -/
def win (s : List W64) (k : Key := Key.zero) : Window :=
  { probeWindow with s := Vector.ofFn fun i => s.getD i.val 0, k := Vector.ofFn fun i => if i = 1 then k else Key.zero, fr := user }

/-- Context 5, with a fault handler at 0x4000 where `vec` is odd. -/
def ctx5 (vec : W64) : CtxRec := { probeCtx with vec := vec }

/-- A module in which core 0 runs one window. -/
def one (w : Window) (vec : W64 := 0) (f : Core → Core := id) : State :=
  { State.reset with cores := [(0, f { Core.zero with wins := [w], thr := 3 })], contexts := [(5, ctx5 vec)] }

/-- The running window after a step. -/
def topAfter (o : Host.Outcome State Fault Refusal) : Option Window :=
  match o with
  | .next t => t.top
  | _ => none

/-- A scalar register and the flags after a step. -/
def sAfter (o : Host.Outcome State Fault Refusal) (d : SReg) : Option (W64 × BitVec 7) :=
  (topAfter o).map fun w => (w.rdS d, w.flg)

-- R230's examples.
theorem step_div : sAfter (exec (.div bare ⟨.w8, 1, 2, .imm 0x3FFFF⟩) (one (win [0, 0, 0x80]))) 1 =
    some (0xFFFF_FFFF_FFFF_FF80, 0) := by decide +kernel
theorem step_rem : sAfter (exec (.rem bare ⟨.w64, 1, 2, .reg 3⟩) (one (win [0, 0, -7, 2]))) 1 = some (-1, 0) := by
  decide +kernel
theorem step_divz : sAfter (exec (.divz bare ⟨.w64, 1, 2, .imm 0⟩) (one (win [0, 0, 9]))) 1 =
    some (0xFFFF_FFFF_FFFF_FFFF, fDZ) := by decide +kernel
-- R229: 2^63 - 1 plus 1 wraps, or clamps and sets SAT.
theorem step_add : sAfter (exec (.add bare ⟨.w64, .wrap, 1, 2, .imm 1⟩) (one (win [0, 0, 0x7FFF_FFFF_FFFF_FFFF]))) 1 =
    some (0x8000_0000_0000_0000, 0) := by decide +kernel
theorem step_add_sat : sAfter (exec (.add bare ⟨.w64, .ss, 1, 2, .imm 1⟩) (one (win [0, 0, 0x7FFF_FFFF_FFFF_FFFF]))) 1 =
    some (0x7FFF_FFFF_FFFF_FFFF, fSAT) := by decide +kernel
theorem step_sub : sAfter (exec (.sub bare ⟨.w32, .wrap, 2, 2, .imm 1⟩) (one (win [0, 0, 0]))) 2 =
    some (0xFFFF_FFFF_FFFF_FFFF, 0) := by decide +kernel
theorem step_mulh : sAfter (exec (.mulh bare ⟨.w32, 1, 2, .reg 2⟩) (one (win [0, 0, 0x8000_0000]))) 1 =
    some (0x4000_0000, 0) := by decide +kernel
theorem step_rol : sAfter (exec (.rol bare ⟨.w8, 1, 2, .imm 1⟩) (one (win [0, 0, 0x81]))) 1 = some (3, 0) := by decide +kernel
theorem step_shr : sAfter (exec (.shr bare ⟨.w16, 1, 2, .imm 17⟩) (one (win [0, 0, 0x8001]))) 1 = some (0x4000, 0) := by
  decide +kernel
theorem step_sar : sAfter (exec (.sar bare ⟨.w16, 1, 2, .imm 1⟩) (one (win [0, 0, 0x8001]))) 1 =
    some (0xFFFF_FFFF_FFFF_C000, 0) := by decide +kernel
-- R231: BFX of 4 bits from bit 62 reads zeros above bit 63.
theorem step_bfx : sAfter (exec (.bfx bare false 1 2 (.imm (62 + 3 * 64))) (one (win [0, 0, 0xC000_0000_0000_0000]))) 1 =
    some (3, 0) := by decide +kernel
theorem step_bfi : sAfter (exec (.bfi bare 1 2 (.imm (4 + 7 * 64))) (one (win [0, 0xFFFF, 0xAB]))) 1 = some (0xFABF, 0) := by
  decide +kernel
-- R234: MOVH keeps bits 31 to 0.
theorem step_movh : sAfter (exec (.movh bare 1 (.long 0x12345678)) (one (win [0, 0xFFFF_FFFF_9ABC_DEF0]))) 1 =
    some (0x1234_5678_9ABC_DEF0, 0) := by decide +kernel
-- R237's example: s3 = 0xFFFF_FFFF_0000_0063 is below 100 as a word of 32 bits.
theorem step_cmp : (topAfter (exec (.cmp bare .w32 .ltu 2 3 (.imm 100)) (one (win [0, 0, 0, 0xFFFF_FFFF_0000_0063])))).map
    (fun w => w.rdP 2) = some true := by decide +kernel
theorem step_plog : (topAfter (exec (.plog bare 4 2 0 3) (one (win [])))).map (fun w => w.rdP 2) = some true := by decide +kernel
-- R243's examples.
theorem step_scvt : sAfter (exec (.scvt bare .rne .mk8 .f32 false 1 2) (one (win [0, 0, 0x3DCC_CCCD]))) 1 =
    some (0x16, fNX) := by decide +kernel
-- R239: 1 + 1 = 2, and a sum of opposite infinities is invalid.
theorem step_fadd : sAfter (exec (.fadd bare ⟨.rne, false, 1, 2, 2⟩) (one (win [0, 0, 0x3F80_0000]))) 1 =
    some (0x4000_0000, 0) := by decide +kernel
theorem step_fadd_inf : sAfter (exec (.fadd bare ⟨.rne, false, 1, 2, 3⟩) (one (win [0, 0, 0x7F80_0000, 0xFF80_0000]))) 1 =
    some (0x7FC0_0000, fNV) := by decide +kernel
theorem step_fdiv : sAfter (exec (.fdiv bare ⟨.rne, true, 1, 2, 3⟩) (one (win [0, 0, 0x3FF0_0000_0000_0000, 0]))) 1 =
    some (0x7FF0_0000_0000_0000, fDZ) := by decide +kernel
-- R244 and R245: PC + 12 * imm; LOOP entered with 0 wraps and branches.
theorem step_br : (topAfter (exec (.br bare (.short (-2))) (one (win [])))).map Window.pc = some 0xFE8 := by decide +kernel
theorem step_loop : (topAfter (exec (.loop bare 1 (.short 2)) (one (win [])))).map (fun w => (w.pc, w.rdS 1)) =
    some (0x1018, 0xFFFF_FFFF_FFFF_FFFF) := by decide +kernel
-- R246 and R247: the callee sees s8 in s0 and returns s0 in s8.
theorem step_call : (topAfter (exec (.calli bare 1 9) (one (win [1, 0, 0, 0, 0, 0, 0, 0, 7, 0x2000])))).map
    (fun w => (w.pc, w.rdS 0, w.rdS 8, w.rpc)) = some (0x2000, 7, 0, 0x100C) := by decide +kernel
theorem step_ret : (topAfter (exec (.ret bare) (one { win [3] with callw := true, adm := false, rpc := 0x2000 } 0 fun k =>
    { k with wins := k.wins ++ [win [1]] }))).map (fun w => (w.pc, w.rdS 0, w.rdS 8)) = some (0x2000, 1, 3) := by decide +kernel
theorem step_ret_stack : (topAfter (exec (.ret bare) (one (win [3]) 0x4001))).map (fun w => (w.pc, w.rdS 9)) =
    some (0x4000, 0x1000) := by decide +kernel
-- R250 and R450: TRAP 5 enters the handler with code 0x25 and its PC in s9.
theorem step_trap : (topAfter (exec (.trap bare 5) (one (win []) 0x4001))).map
    (fun w => (w.pc, w.rdS 9, w.rdS 10, (w.rdS 8).truncate 8, w.rpc)) = some (0x4000, 0x1000, 5, 0x25#8, 0x100C) := by
  decide +kernel
-- R379 and R380: a service window runs as SYS at priority 7.
theorem step_svc : (topAfter (exec (.svc bare 9) (one (win [4])))).map (fun w => (w.sys, w.fr.pri, w.rdS 1)) =
    some (true, 7, 0) := by decide +kernel
-- R207: a guard of 0 only advances the PC.
theorem step_guard : (topAfter (exec (.movi { bare with gn := true } 1 (.short 5)) (one (win [])))).map
    (fun w => (w.rdS 1, w.pc)) = some (0, 0x100C) := by decide +kernel
-- R252: MFS of CTX (number 2), PRI (1) and THR (0).
theorem step_mfs : sAfter (exec (.mfs bare 1 2) (one (win []))) 1 = some (5, 0) ∧
    sAfter (exec (.mfs bare 1 1) (one (win []))) 1 = some (3, 0) := by decide +kernel
theorem step_mts : (topAfter (exec (.mts bare 0x10 (.imm (.short 0x1FF))) (one (win [])))).map Window.drg = some 0xFF := by
  decide +kernel
-- R267: KADR past the representable range clears the tag; KPRM only masks.
theorem step_kadr : (topAfter (exec (.kadr bare false 2 1 (.reg 0)) (one (win [0x1000_0000_0000] key46)))).map
    (fun w => (w.rdK 2).tag) = some false := by decide +kernel
theorem step_kprm : (topAfter (exec (.kprm bare 1 2 1) (one (win [] key46)))).map (fun w => ((w.rdK 2).perm, (w.rdK 2).tag)) =
    some (1, true) := by decide +kernel
-- R256 and R262: a byte of the S buffer, extended by its sign, in a core buffer of a SYS frame.
theorem step_ldb : sAfter (exec (.ldb bare .i8 false 1 (.bu 3 0x10) (.imm 1))
    (one { win [] with fr := { user with sys := true } } 0 fun k => { k with bufS := [(0x101, 0x80)] })) 1 =
    some (0xFFFF_FFFF_FFFF_FF80, 0) := by decide +kernel
theorem step_stb : (match exec (.stb bare .i16 (.imm 0x1234) (.bu 3 0x10) (.imm 0))
      (one { win [] with fr := { user with sys := true } }) with
    | .next t => t.me.bufS
    | _ => []) = [(0x100, 0x34), (0x101, 0x12)] := by decide +kernel
-- R257 and R25: a load past 2^48 through DRG takes ADDR at the handler.
theorem step_ld_addr : (topAfter (exec (.ld bare ⟨.i64, false, 1, .s 2, .imm 0⟩) (one (win [0, 0, 0x1_0000_0000_0000]) 0x4001))).map
    (fun w => (w.pc, (w.rdS 8).truncate 8)) = some (0x4000, (BitVec.ofNat 8 cADDR)) := by decide +kernel
-- R351: SUCC.CLR clears NXT and BYT.
theorem step_succ : (topAfter (exec (.succ bare .clr) (one { win [] with nxt := 64, byt := 1 }))).map
    (fun w => (w.nxt, w.byt)) = some (0, 0) := by decide +kernel

/-! ### A step fetches and decodes (R200, R213) -/

/-- The module runs `mov s1, s2` of a placed word. -/
theorem step_placed : (topAfter (step (State.reset.withFetchWord 96 (0x1F * 2 ^ 83 + 2 ^ 42 + 6 * 2 ^ 18 + 9)))).map
    (fun w => (w.rdS 1, w.pc)) = some (9, 0x100C) := by decide +kernel
theorem step_illegal : (match step (State.reset.withFetchWord 96 0) with
    | .next t => t.ctxRec 0
    | _ => none).map CtxRec.st = some (.dead (BitVec.ofNat 8 cILLEGAL)) := by decide +kernel

end Sys2Proof.Tests
end

