-- ==== Sys2Proof/Tests/WitnessA.lean ====
section
/-! SUPPORT. WitnessA.lean: for each statement about the words of the scalar, memory and vector families, a concrete state and
operands that meet its hypotheses, clause by clause. -/

namespace Sys2Proof.Tests

set_option Elab.async false

open Sys2Proof Sys2Proof.Machine

/-- A word issues: the decidable form. -/
theorem iss {s : State} {w : Window} {h : Hdr} {f : Bool}
    (e : (decide (s.top = some w) && (!(h.sw || f) || !s.me.outstanding w.fr) && w.guard h) = true) : Issues s w h f := by
  simp only [Bool.and_eq_true, decide_eq_true_eq] at e
  refine ⟨e.1.1, fun hf => ?_, e.2⟩
  have h2 := e.1.2
  rw [hf] at h2
  cases ho : s.me.outstanding w.fr
  · rfl
  · rw [ho] at h2; cases h2

def part1 : Part :=
  { off := 0, n := 8, base := 0, dev := 0, st := .remote, tries := 0, data := [], ktag := false, inval := false }

/-- An outstanding load of the user frame. -/
def pend1 : Pend :=
  { id := 1, wid := 0, kind := .load .i64 false 1, ctx := 5, fr := user, stamp := 0, region := 0, off := 0, n := 8,
    viaKey := false, cached := false, alloc := false, acq := false, rel := false, sc := false, scDone := false,
    wide := false, dead := false, deadLanes := 0, jrn := [], jtag := none, slots := 0, seq := 0, map := [],
    parts := [part1] }

/-- An open journal entry of the user frame. -/
def jrn1 : JEntry :=
  { idx := 0, st := .opened, ctx := 5, serial := 1, region := 0, dev := 0, blk := 0, data := 0, mask := 0xFF,
    stk := false, tag := false, slots := 0, opened := 0, stamp := 0, rel := false, sc := false, viaKey := false,
    tries := 0, fr := user }

/-- A second window of another context below the running one. -/
def under : Window := { win [] with wid := 9, fr := { user with ctx := 6 } }

abbrev s0 : State := one (win [])
abbrev w0 : Window := win []

theorem wit_IntegerResults : Issues s0 w0 bare false ∧ Wid.cut .w64 (w0.si (.imm 1)) ≠ 0 := ⟨iss (by decide +kernel), by decide +kernel⟩

theorem wit_DivisionAndBitFields : Issues s0 w0 bare false ∧ Wid.cut .w64 (w0.si (.imm 0)) = 0 ∧
    (Wid.cut .w8 ((win [0, 0, 0x80]).rdS 2)).toNat = 0x80 ∧ (Wid.cut .w8 (w0.si (.imm 0x3FFFF))).toNat = 0xFF :=
  ⟨iss (by decide +kernel), by decide +kernel⟩

theorem wit_MoveAndPredicateResults : Issues s0 w0 bare false := iss (by decide +kernel)

theorem wit_HardwiredRegisters : Issues s0 w0 bare false ∧ (7 : PReg) ≠ 0 ∧ (1 : PReg) ≠ 0 := ⟨iss (by decide +kernel), by decide +kernel⟩

theorem wit_FloatResults : Issues s0 w0 bare false ∧ (fmtF32.decode 0x7FC00000).isNan = true ∧
    (fmtF32.decode 0x3F800000).isNan = false ∧ (fmtF32.decode 0x3F800000).finite = true ∧
    (fmtF32.decode 0x40000000).rat = (fmtF32.decode 0x3F800000).rat + (fmtF32.decode 0x3F800000).rat ∧
    (fmtF32.decode 0x3F800000).rat = (fmtF32.decode 0x40000000).rat - (fmtF32.decode 0x3F800000).rat ∧
    (fmtF32.decode 0x40000000).rat = (fmtF32.decode 0x40000000).rat * (fmtF32.decode 0x3F800000).rat ∧
    (fmtF32.decode 0x40000000).rat ≠ 0 :=
  ⟨iss (by decide +kernel), by decide +kernel⟩

theorem wit_RegisterWordFrames : regWord (.nop bare) = some ⟨bare, [], [], [], [], 0⟩ ∧ Issues s0 w0 bare false :=
  ⟨rfl, iss (by decide +kernel)⟩

/-- The user frame waits for a load. -/
def s0pend : State := one w0 0 fun k => { k with pend := [pend1] }

theorem wit_GuardAndMarker : wordHdr (.endT { bare with gn := true }) = some ({ bare with gn := true }, true) ∧
    s0.top = some w0 ∧ w0.guard { bare with gn := true } = false ∧ s0.me.outstanding w0.fr = false ∧
    wordHdr (.nop { bare with sw := true }) = some ({ bare with sw := true }, false) ∧
    s0pend.top = some w0 ∧ s0pend.me.outstanding w0.fr = true :=
  ⟨rfl, rfl, by decide +kernel, by decide +kernel, rfl, rfl, by decide +kernel⟩

theorem wit_BranchResults : Issues s0 w0 bare false ∧ w0.pc.toNat = 0x1000 ∧
    (0x1000 + 12 * (BitVec.ofNat 18 1).toInt) % 4 = 0 ∧ 0 ≤ 0x1000 + 12 * (BitVec.ofNat 18 1).toInt ∧ w0.rdS 1 ≠ 1 ∧
    (win [0, 1]).rdS 1 = 1 ∧ (w0.rdS 2).toNat % 4 = 0 ∧ ((win [0, 0, 2]).rdS 2).toNat % 4 ≠ 0 ∧
    2 ^ 48 ≤ ((win [0, 0, 0x1_0000_0000_0000]).rdS 2).toNat ∧ (0x1000 : Int) + 12 * (-1000) < 0 ∧
    ((0x1002 : Int) + 12 * 1) % 4 ≠ 0 :=
  ⟨iss (by decide +kernel), by decide +kernel⟩

/-- A CALL window over another one of the task. -/
def inCall : Window := { w0 with wid := 3, callw := true, adm := false, rpc := 0x2000 }
def sCall : State := one inCall 0 fun k => { k with wins := [inCall, w0] }

theorem wit_CallAndReturnResults : Issues s0 w0 bare true ∧ fitsResident 0 s0.me.wins = true ∧ spillTop s0.me.spilled ≤ 0x10000 ∧
    (w0.rdS 1).toNat % 4 = 0 ∧ Issues sCall inCall bare true ∧ sCall.me.wins = [inCall, w0] ∧ sCall.me.pop.wins = [w0] ∧
    inCall.callw = true ∧ inCall.svc = false ∧ (∀ q ∈ sCall.me.claims, q.wid ≠ inCall.wid) ∧ inCall.rpc.toNat % 4 = 0 ∧
    w0.callw = false ∧ (∃ q ∈ [(⟨0, 3, 3⟩ : Claim)], q.wid = inCall.wid) ∧ ({ inCall with rpc := 0x2002 } : Window).rpc.toNat % 4 ≠ 0 :=
  ⟨iss (by decide +kernel), by decide +kernel, by decide +kernel, by decide +kernel, iss (by decide +kernel), rfl, by decide +kernel,
    rfl, rfl, by decide +kernel, by decide +kernel, rfl, by decide +kernel⟩

/-- A service window over the frame's own. -/
def inSvc : Window := { w0 with wid := 3, callw := true, svc := true, adm := false, rpc := 0x2001 }
def sSvc : State := one inSvc 0 fun k => { k with wins := [inSvc, w0] }
/-- The service's turn, and the one after it. -/
def inServ (p : Park) : Window := { inSvc with fr := { user with sys := true }, park := some p }
def serving (p : Park) : State := one (inServ p) 0 fun k => { k with wins := [inServ p, w0] }
/-- A spill area with no room for another frame. -/
def sFull : State := one w0 0 fun k => { k with wins := List.replicate 32 w0, spilled := List.replicate 200 w0 }

theorem wit_ServiceTrapAndBreak : Issues s0 w0 bare true ∧ (BitVec.ofNat 18 255).toNat < 256 ∧ 256 ≤ (BitVec.ofNat 18 256).toNat ∧
    (fitsResident 0 s0.me.wins = true ∧ spillTop s0.me.spilled ≤ 0x10000) ∧ (sFull.me.push w0).isSome = false ∧
    Issues sSvc inSvc bare true ∧ sSvc.me.pop.wins = [w0] ∧ (inSvc.rpc - 1).toNat % 4 = 0 ∧ inSvc.rpc.getLsbD 0 = true ∧
    w0.rpc.getLsbD 0 = false ∧ (∃ q ∈ [(⟨0, 3, 3⟩ : Claim)], q.wid = inSvc.wid) ∧
    ((serving (.service 3)).top = some (inServ (.service 3)) ∧ (inServ (.service 3)).sys = true ∧ (inServ (.service 2)).rdS 1 = 0) ∧
    (serving .serviceEnd).top = some (inServ .serviceEnd) ∧
    (BitVec.ofNat 18 31).toNat < 32 ∧ 32 ≤ (BitVec.ofNat 18 32).toNat ∧ 2 ^ 17 ≤ (BitVec.ofNat 18 (2 ^ 17)).toNat :=
  ⟨iss (by decide +kernel), by decide +kernel, by decide +kernel, by decide +kernel, by decide +kernel, iss (by decide +kernel),
    by decide +kernel⟩

/-- A task of one window over another task's. -/
def sEnd : State := one w0 0 fun k => { k with wins := [w0, under] }
def sEndBusy : State := one w0 0 fun k => { k with wins := [w0, under], jrn := [jrn1] }

theorem wit_EndResults : Issues sEnd w0 bare true ∧ (∀ q ∈ sEnd.me.claims, q.wid ≠ w0.wid) ∧ w0.adm = true ∧
    sEnd.me.taskClaim = none ∧ sEnd.me.drained w0.fr = true ∧ sEnd.me.wins = [w0, under] ∧ Issues sEndBusy w0 bare true ∧
    sEndBusy.me.drained w0.fr = false ∧
    (Issues (one w0 0 fun k => { k with claims := [⟨0, 3, 0⟩] }) w0 bare true ∧
      (one w0 0 fun k => { k with claims := [⟨0, 3, 0⟩] }).me.taskClaim ≠ none) ∧
    ((one { w0 with park := some .endWait }).topOf 0 = some { w0 with park := some .endWait } ∧
      ((one { w0 with park := some .endWait }).core 0).drained user = true) :=
  ⟨iss (by decide +kernel), by decide +kernel, rfl, by decide +kernel, by decide +kernel, rfl, iss (by decide +kernel),
    by decide +kernel, ⟨iss (by decide +kernel), by decide +kernel⟩, by decide +kernel⟩

abbrev sHand : State := one w0 0x4001

theorem wit_FaultEntry : sHand.top = some w0 ∧ w0.fr.sys = false ∧ w0.svc = false ∧ sHand.ctxRec w0.fr.ctx = some (ctx5 0x4001) ∧
    (ctx5 0x4001).vec.toNat % 2 = 1 ∧ fitsResident 0 sHand.me.wins = true ∧ spillTop sHand.me.spilled ≤ 0x10000 := by
  decide +kernel

theorem wit_FaultUnhandled : s0.top = some w0 ∧ s0.ctxRec w0.fr.ctx = some (ctx5 0) ∧ (ctx5 0).st = .live ∧
    (ctx5 0).vec.toNat % 2 = 0 ∧ (∀ q ∈ s0.cores, q.2.spilled = []) ∧ s0.me.spilled = [] := by decide +kernel

theorem wit_SystemRegisters : Issues s0 w0 bare false ∧ (0x21 : BitVec 12) ≠ 0x30 ∧
    (0 : BitVec 12) ∉ [0x10, 0x11, 0x12, 0x13, 0x20, 0x21] := ⟨iss (by decide +kernel), by decide +kernel⟩

/-- Sealed, and without a permission. -/
def keySealed : Key := ⟨key46.bits ||| 2 ^ 72, true⟩

theorem wit_KeyChecks : (Key.zero).tag = false ∧ keySealed.tag = true ∧ keySealed.sealed = true ∧ key46.tag = true ∧
    key46.sealed = false ∧ key46.region.toNat ≤ 3 ∧ key46.perm &&& pREAD = pREAD ∧ key46.perm &&& pATOM ≠ pATOM ∧
    key46.bounds = some (0x4000100000, 0x4000200000) ∧ (⟨5 * 2 ^ 64, true⟩ : Key).region = 5 ∧
    (⟨0xFF * 2 ^ 64, true⟩ : Key).region = 0xFF ∧ (⟨49 * 2 ^ 105, true⟩ : Key).bounds = none := by decide +kernel

def wFF : Window := { w0 with drg := 0xFF }
def sFF : State := one { wFF with fr := { user with sys := true } }
/-- A key with DERIVE for 64 bytes at 0x1000. -/
def keyD : Key := Key.mk' 0 0x3F 0 0x1000 0x1040 false 0 0x1000 true
/-- A key for the bytes around 2^48. -/
def keyTop : Key := Key.mk' 0 0x3F 34 0 0x8000 false 0 (2 ^ 48 - 4) true

def okv {ε α : Type} (x : Except ε α) : Option α :=
  match x with
  | .ok a => some a
  | .error _ => none
theorem ok_of {ε α : Type} {x : Except ε α} {a : α} (h : okv x = some a) : x = .ok a := by
  cases x with
  | ok b => simpa [okv] using h
  | error e => cases h
theorem ok_ex {ε α : Type} {x : Except ε α} (h : (okv x).isSome = true) : ∃ a, x = .ok a := by
  cases x with
  | ok b => exact ⟨b, rfl⟩
  | error e => cases h

theorem wit_AddressRules : (wFF.drg.setWidth 8 : BitVec 8) = 0xFF ∧ wFF.sys = false ∧
    (((w0.rdS 0).toNat : Int) + (-1)) < 0 ∧ 2 ^ 48 < (((win [0xFFFF_FFFF_FFF9]).rdS 0).toNat : Int) + 0 + 8 ∧
    (((win [0xFFFF_FFFF_FFF8]).rdS 0).toNat : Int) + 0 + 8 ≤ 2 ^ 48 ∧ (w0.drg.setWidth 8 : BitVec 8).toNat ∈ [0, 1] ∧
    2 ^ 64 ≤ (((win [0xFFFF_FFFF_FFFF_FFFF]).rdS 0).toNat : Int) + 1 ∧
    ((win [4]).rdS 0).toNat % 8 ≠ 0 ∧ ({ w0 with drg := 7 } : Window).drg.setWidth 8 = (7 : BitVec 8) ∧
    ({ wFF with fr := { user with sys := true } } : Window).sys = true ∧
    (okv (keyD.check pREAD (keyD.off + 4) 8 1 false)).isSome = true ∧ keyD.region.toNat ≤ 3 ∧
    s0.reachable (accDev s0 5 keyD.region (keyD.off + 4) (some keyD.peer)) = true ∧ keyD.off + 4 + 8 ≤ 2 ^ 48 ∧
    (okv (keyTop.check pREAD keyTop.off 8 1 false)).isSome = true ∧ keyTop.region.toNat ≤ 3 ∧ 2 ^ 48 < keyTop.off + 8 ∧
    (okv (Key.zero.check pREAD 0 8 1 false)).isSome = false := by decide +kernel

/-- The region and offset of a checked access. -/
def accAt (x : Except FaultInfo Acc) : Option (BitVec 8 × Nat) :=
  match x with
  | .ok a => some (a.region, a.off)
  | .error _ => none

theorem accAt_ok {x : Except FaultInfo Acc} {r : BitVec 8} {o : Nat} (h : accAt x = some (r, o)) :
    ∃ a, x = .ok a ∧ a.region = r ∧ a.off = o := by
  cases x with
  | ok a => exact ⟨a, rfl, by simpa [accAt] using congrArg (Option.map Prod.fst) h, by simpa [accAt] using congrArg (Option.map Prod.snd) h⟩
  | error e => cases h

theorem wit_LoadResults : Issues s0 w0 bare false ∧ s0.me.held w0.fr = false ∧
    (∃ a, formAddr s0 w0 (.s 0) 8 8 pREAD 1 = .ok a ∧ a.region = 0 ∧ a.off = 8) ∧
    (∃ a, formAddr s0 w0 (.s 0) 9 8 pREAD 1 = .ok a ∧ a.region = 0 ∧ a.off = 9) ∧
    (∃ a, formAddr s0 w0 (.s 0) 16 16 pREAD 1 = .ok a ∧ a.region = 0 ∧ a.off = 16) ∧ s0.me.scReady w0.fr = true :=
  ⟨iss (by decide +kernel), by decide +kernel, accAt_ok (by decide +kernel), accAt_ok (by decide +kernel), accAt_ok (by decide +kernel),
    by decide +kernel⟩

theorem wit_AtomicResults : Issues s0 w0 bare false ∧ s0.me.held w0.fr = false ∧
    (∃ a, formAddr s0 w0 (.s 0) 8 8 pATOM 3 = .ok a ∧ a.region = 0 ∧ a.off = 8) ∧
    (∀ i : Fin 16, (s0.me.slot i.val).cnt < 65535) ∧ s0.me.scReady w0.fr = true :=
  ⟨iss (by decide +kernel), by decide +kernel, accAt_ok (by decide +kernel), by decide +kernel⟩

/-- Context 5 owns W, A and S of core 0 up to the spill area, and four tiles. -/
def bal5 : Bal := ⟨true, 5, 0, 192, 0, 256, 0, 48, 0xF⟩
def withBal (k : Core) : Core := { k with bals := k.bals.set 0 bal5 }
abbrev sBal : State := one w0 0 withBal

/-- s0 points into the S buffer of core 0 itself. -/
def wOwn : Window := { win [3 * 2 ^ 41 + 0x100] with drg := 0xFE }
def sOwn : State := one wOwn 0 withBal

theorem wit_StoreResults : Issues s0 w0 bare false ∧ s0.me.held w0.fr = false ∧ (∀ i : Fin 16, (s0.me.slot i.val).cnt < 65534) ∧
    2 ≤ s0.me.freeIdx.length ∧ (s0.me.jrn.map JEntry.idx).Nodup ∧
    (∃ a, formAddr s0 w0 (.s 0) 8 8 pWRITE 2 = .ok a ∧ a.region = 0 ∧ a.off = 8) ∧
    (∃ a, formAddr s0 w0 (.s 0) 9 8 pWRITE 2 = .ok a ∧ a.region = 0 ∧ a.off = 9) ∧
    (∃ a, formAddr s0 w0 (.s 0) 16 16 pWRITE 2 = .ok a ∧ a.region = 0 ∧ a.off = 16) ∧ s0.me.scReady w0.fr = true ∧
    (∃ a, formAddr sFF { wFF with fr := { user with sys := true } } (.s 0) 8 8 pWRITE 2 = .ok a ∧ a.region = 0xFF ∧ a.off = 8) ∧
    (∃ a, formAddr sOwn wOwn (.s 0) 0 8 pWRITE 2 = .ok a ∧ a.region = 0xFE ∧ a.off = 3 * 2 ^ 41 + 0x100) ∧
    winCore (3 * 2 ^ 41 + 0x100) = sOwn.cur ∧ sOwn.me.scReady user = true :=
  ⟨iss (by decide +kernel), by decide +kernel, by decide +kernel, by decide +kernel, by decide +kernel, accAt_ok (by decide +kernel),
    accAt_ok (by decide +kernel), accAt_ok (by decide +kernel), by decide +kernel, accAt_ok (by decide +kernel),
    accAt_ok (by decide +kernel), by decide +kernel⟩

/-- Buffer and offset of a checked buffer access. -/
def bufAt (x : Except FaultInfo (Nat × Nat)) : Option (Nat × Nat) :=
  match x with
  | .ok a => some a
  | .error _ => none
theorem bufAt_ok {x : Except FaultInfo (Nat × Nat)} {r : Nat × Nat} (h : bufAt x = some r) : x = .ok r := by
  cases x with
  | ok a => simpa [bufAt] using h
  | error e => cases h

theorem wit_BufferResults : Issues sBal w0 bare false ∧ sBal.me.held w0.fr = false ∧
    formBuf sBal w0 (.bu 3 16) 0 8 1 = .ok (3, 256) ∧ formBuf sBal w0 (.bu 1 0) 8 8 2 = .ok (1, 8) ∧
    (∃ a, formAddr sOwn wOwn (.s 0) 0 8 pWRITE 2 = .ok a ∧ a.region = 0xFE ∧ a.off = 3 * 2 ^ 41 + 0x100) ∧
    (∃ a, formAddr sOwn wOwn (.s 0) 0 16 pWRITE 2 = .ok a ∧ a.region = 0xFE ∧ a.off = 3 * 2 ^ 41 + 0x100) ∧ winBuf (3 * 2 ^ 41 + 0x100) = 3 ∧ winCore (3 * 2 ^ 41 + 0x100) = sOwn.cur :=
  ⟨iss (by decide +kernel), by decide +kernel, bufAt_ok (by decide +kernel), bufAt_ok (by decide +kernel), accAt_ok (by decide +kernel),
    accAt_ok (by decide +kernel), by decide +kernel⟩

abbrev wKey : Window := win [0, 0, 0x20] keyD

theorem wit_KeyResults : Issues (one wKey) wKey bare false ∧ w0.rdK 1 = Key.zero ∧ Key.zero.tag = false ∧
    (win [] keySealed).rdK 1 = keySealed ∧ keySealed.sealed = true ∧ wKey.rdK 1 = keyD ∧ keyD.tag = true ∧ keyD.sealed = false ∧
    keyD.perm &&& pDERIVE ≠ 0 ∧ key46.perm &&& pDERIVE = 0 ∧ keyD.bounds = some (0x1000, 0x1040) ∧
    (keyD.off + 0x20 + 2 ^ 0 - 1) / 2 ^ 0 - keyD.off / 2 ^ 0 ≤ 2 ^ 15 ∧ 0x1040 < (keyD.off + 0x41 + 2 ^ 0 - 1) / 2 ^ 0 ∧
    (Key.mk' 0 0x3F 49 0 0 false 0 0 true).bounds = none :=
  ⟨iss (by decide +kernel), by decide +kernel, rfl, by decide +kernel⟩

theorem wit_KeysNeverWiden : Issues (one wKey) wKey bare false ∧
    Instr.kseal bare 2 1 ∈ [Instr.kder bare 0 2 1 (.imm 0), .kprm bare 0 2 1, .kadr bare false 2 1 (.imm 0), .kseal bare 2 1] :=
  ⟨iss (by decide +kernel), by decide +kernel⟩

/-- A trestle entry of the frame that reads W:0. -/
def tr1 : Tr := ⟨1, [⟨0, 0, 0⟩], [], [], none, user⟩
def sTr : State := one w0 0 fun k => { k with trestle := [tr1] }
/-- Slot 0 valid for context 6 with a count; slot 1 valid for context 5 with a count. -/
def slotsA (k : Core) : Core :=
  { k with slots := (k.slots.set 0 ⟨1, true, 6, 0, 0, 0, 64⟩).set 1 ⟨1, true, 5, 0, 0, 0, 64⟩ }
def sSlot : State := one w0 0 slotsA
def sPhase : State := one w0 0 fun k => { k with jrn := [jrn1] }
/-- Core 0 waits. -/
def waits (p : Park) (f : Core → Core := id) : State := one { w0 with park := some p } 0 f

theorem wit_FenceResults : Issues s0 w0 bare false ∧ Issues sTr w0 bare false ∧
    (tr1 ∈ sTr.me.trestle ∧ tr1.fr.same w0.fr = true ∧ ⟨0, 0, 0⟩ ∈ tr1.reads ++ tr1.writes) ∧ s0.me.trestle = [] ∧
    s0.me.outstanding w0.fr = false ∧ s0.me.phaseReady w0.fr = true ∧ Issues sPhase w0 bare false ∧
    sPhase.me.outstanding w0.fr = false ∧ sPhase.me.phaseReady w0.fr = false ∧ Issues sSlot w0 bare false ∧
    ((1#16).getLsbD 0 = true ∧ (sSlot.me.slot 0).v = true ∧ (sSlot.me.slot 0).ctx ≠ w0.fr.ctx) ∧
    ((2#16).getLsbD 1 = true ∧ (sSlot.me.slot 1).ctx = w0.fr.ctx ∧ (sSlot.me.slot 1).cnt ≠ 0) ∧
    ((waits (.fence true true true)).core 0).fenceReady user true true true = true ∧
    ((waits (.phase .device)).core 0).phaseReady user = true ∧
    (waits (.fenr 1 .device .rel)).topOf 0 = some { w0 with park := some (.fenr 1 .device .rel) } ∧
    ((waits .marker).core 0).outstanding user = false ∧ (waits .stall).topOf 0 = some { w0 with park := some .stall } :=
  ⟨iss (by decide +kernel), iss (by decide +kernel), by decide +kernel, rfl, by decide +kernel, by decide +kernel, iss (by decide +kernel),
    by decide +kernel, by decide +kernel, iss (by decide +kernel), by decide +kernel, by decide +kernel, by decide +kernel⟩

/-- A refused entry of context 5 under index 3. -/
def sRef : State := one w0 0 fun k => { k with jrn := [{ jrn1 with idx := 3, st := .refused }] }

theorem wit_RangeSlotResults : Issues s0 w0 bare false ∧ (s0.me.slot 15).v = false ∧ (w0.rdS 0).toNat + (w0.rdS 1).toNat ≤ 2 ^ 64 ∧
    Issues (one wKey) wKey bare false ∧ (wKey.rdK 1).tag = true ∧ (wKey.rdK 1).sealed = false ∧
    (wKey.rdK 1).bounds = some (0x1000, 0x1040) ∧ (w0.rdK 1).tag = false ∧ ((win [] keySealed).rdK 1).sealed = true ∧
    Issues sSlot w0 bare false ∧ ((sSlot.me.slot 0).v = true ∧ (sSlot.me.slot 0).ctx ≠ w0.fr.ctx) ∧
    s0.me.refused w0.fr.ctx 3 = none ∧ Issues sRef w0 bare false ∧
    sRef.me.refused w0.fr.ctx 3 = some { jrn1 with idx := 3, st := .refused } ∧
    ((s0.me.slot 15).cnt + s0.me.jrn.length + s0.me.pend.length
      + (s0.me.copies.map fun j => ceilDiv j.len 256).foldr (· + ·) 0 ≤ 65535) ∧
    (BitVec.ofNat 18 1).msb = false ∧ (BitVec.ofNat 18 (2 ^ 17)).msb = true ∧
    2 ^ 64 < ((win [0xFFFF_FFFF_FFFF_FFFF, 2]).rdS 0).toNat + ((win [0xFFFF_FFFF_FFFF_FFFF, 2]).si (.reg 1)).toNat ∧
    (jrn1.live = true ∧ jrn1.mask.getLsbD 7 = true ∧ jrn1.blk * 64 + 7 < 0 + 8) :=
  ⟨iss (by decide +kernel), by decide +kernel, by decide +kernel, iss (by decide +kernel), by decide +kernel, by decide +kernel, by decide +kernel, by decide +kernel,
    by decide +kernel, iss (by decide +kernel), by decide +kernel, by decide +kernel, iss (by decide +kernel), by decide +kernel⟩

/-! ### Vector words -/

/-- Core 0's vector unit holds its reservation. -/
def held (s : State) : State :=
  { s with clusters := [(0, { Cluster.zero with resv := [⟨0, .vector, .macroOp, 3, 0, none, false, 5, 0⟩] })] }
abbrev sVec : State := held sBal

theorem wit_VectorIntegerLanes : Issues sVec w0 bare false ∧ sVec.vecHeld sVec.cur = true ∧ Ty.isVInt .i16 = true :=
  ⟨iss (by decide +kernel), by decide +kernel, rfl⟩
theorem wit_VectorFloatLanes : Issues sVec w0 bare false ∧ sVec.vecHeld sVec.cur = true ∧ Ty.isVNum .bf16 = true ∧
    (Ty.fmt .bf16).isSome = true ∧ (fmtF32.decode 0x7FC00000).isNan = true ∧ 0x80000000 % 2 ^ 31 = 0 :=
  ⟨iss (by decide +kernel), by decide +kernel, rfl, rfl, by decide +kernel⟩
theorem wit_VectorComplexLanes : Issues sVec w0 bare false ∧ sVec.vecHeld sVec.cur = true ∧ (Ty.fmt .f16).isSome = true ∧
    Ty.isVFlt .f16 = true := ⟨iss (by decide +kernel), by decide +kernel, rfl, rfl⟩
theorem wit_VectorMovesAndReservation : Issues sVec w0 bare false ∧ sVec.vecHeld sVec.cur = true ∧ Ty.isVWd .i8 = true ∧
    Ty.isVInt .i8 = true ∧ Issues sBal w0 bare false ∧ sBal.vecHeld sBal.cur = false ∧
    (sBal.cluster (clusterOf sBal.cur)).reqs = [] :=
  ⟨iss (by decide +kernel), by decide +kernel, rfl, rfl, iss (by decide +kernel), by decide +kernel⟩
theorem wit_VectorReductions : Issues sVec w0 bare false ∧ sVec.vecHeld sVec.cur = true ∧ Ty.isVInt .i32 = true ∧
    (w0.rdM 0).getLsbD (0 * 32 / 32) = true ∧ (∀ j < 64, (w0.rdM 1).getLsbD (j * 32 / 32) = false) ∧
    0 * (2048 / max 32 16) + 2048 / max 32 16 ≤ 2048 / min 32 16 ∧ w0.fr.lvl < 8 :=
  ⟨iss (by decide +kernel), by decide +kernel, rfl, by decide +kernel⟩
/-- A shape record at S:64: one tile of 16 by 16 FP32 elements, at VCUR `v`. -/
def shapeV (v : Nat) : Nat :=
  3 + 16 * 2 ^ 16 + 16 * 2 ^ 32 + 16 * 2 ^ 64 + 16 * 2 ^ 96 + 2 ^ 128 + 2 ^ 160 + 64 * 2 ^ 192 + v * 2 ^ 416
def sShape (v : Nat) : State := one w0 0 fun k => { withBal k with bufS := memWrite [] 64 (natBytes 64 (shapeV v)) }

theorem wit_VectorMemory : Issues sVec w0 bare false ∧ sVec.vecHeld sVec.cur = true ∧ sVec.me.held w0.fr = false ∧
    formBufA sVec w0 (.bu 1 16) 0 256 16 1 = .ok (1, 256) ∧ formBufA sVec w0 (.bu 3 16) 0 256 16 2 = .ok (3, 256) ∧
    0 * 64 + 64 ≤ 2048 / 32 ∧ (∀ j < 64, (w0.rdM 1).getLsbD j = false) ∧
    formBuf sVec w0 (.bu 1 16) 0 4 1 = .ok (1, 256) ∧
    (∃ a, formAddr sVec w0 (.s 0) 256 256 pREAD 1 = .ok a ∧ a.region = 0 ∧ a.off = 256) ∧
    (∃ a, formAddr sVec w0 (.s 0) 256 256 pWRITE 2 = .ok a ∧ a.region = 0 ∧ a.off = 256) ∧ 5 ≤ sVec.me.freeIdx.length ∧ (∀ i : Fin 16, (sVec.me.slot i.val).cnt < 65531) ∧
    (sVec.me.jrn.map JEntry.idx).Nodup ∧
    (∃ a, formAddr sFF { wFF with fr := { user with sys := true } } (.s 0) 0 256 pWRITE 2 = .ok a ∧ a.region = 0xFF ∧ a.off = 0) ∧
    (∃ a, formAddr sOwn wOwn (.s 0) 0 256 pWRITE 2 = .ok a ∧ a.region = 0xFE ∧ a.off = 3 * 2 ^ 41 + 0x100) ∧
    (let t := Shape.ofNat (memNat (sShape 0).me.bufS 64 64)
     (sShape 0).me.bufOk 5 3 64 64 = true ∧ t.valid = true ∧ t.tileBytes % 256 = 0 ∧ (chunkBytes t 0 1 t.vcur).isSome = true) ∧
    (let t := Shape.ofNat (memNat (sShape 99).me.bufS 64 64)
     t.valid = true ∧ t.tileBytes % 256 = 0 ∧ chunkBytes t 0 1 t.vcur = none) :=
  ⟨iss (by decide +kernel), by decide +kernel, by decide +kernel, bufAt_ok (by decide +kernel), bufAt_ok (by decide +kernel), by decide +kernel, by decide +kernel,
    bufAt_ok (by decide +kernel), accAt_ok (by decide +kernel), accAt_ok (by decide +kernel), by decide +kernel, by decide +kernel,
    by decide +kernel, accAt_ok (by decide +kernel), accAt_ok (by decide +kernel), by decide +kernel⟩

end Sys2Proof.Tests
end

