-- ==== Sys2Proof/Tests/WitnessB.lean ====
section
/-! SUPPORT. WitnessB.lean: for each statement about the words of the matrix engine, of tasks, rings and copies, and about the
events of a core, a concrete state and operands that meet its hypotheses, clause by clause. -/

namespace Sys2Proof.Tests

set_option Elab.async false

open Sys2Proof Sys2Proof.Machine

/-! ### The matrix engine -/

/-- Context 5's matrix registers: four tiles in F2 mode. -/
def cx5 : CtxCore := { CtxCore.zero with tileL := 4, tileMap := [0, 1, 2, 3], lmode := [.f2, .f2, .f2, .f2] }
def withCx (k : Core) : Core := { withBal k with ctxs := [(5, cx5)] }
/-- A packing record at S:64: K = 8, row stride 128 bytes. -/
def sMat : State := one w0 0 fun k => { withCx k with bufS := [(120, 8), (122, 128)] }
/-- A key for 0x1000 to 0x2000 with MOPER. -/
def keyM : Key := Key.mk' 0 0x3F 0 0x1000 0x2000 false 0 0x1000 true

theorem wit_MatrixIssue : Issues sMat w0 bare false ∧ captureCheck sMat w0 true = .ok () ∧ sMat.me.trestle.length < 64 ∧
    (3 < (sMat.me.cx 5).tileL ∧ (sMat.me.cx 5).mode 0 = passMode .bf16 ∧ (sMat.me.cx 5).mode 0 = .f2) ∧
    0 ≤ Ty.planes .bf16 ∧ w0.buS (.bu 1 0) = some (1, 0) ∧ sMat.me.bufOk 5 1 0 (64 * (8 * 16 / 8)) = true ∧
    sMat.me.bufOk 5 0 0 (8 / 8 * Ty.slabBytes .bf16) = true ∧ operandKey sMat w0 keyM (64 * (8 * 16 / 8)) = .ok () ∧
    sMat.me.bufOk 5 3 0 256 = true ∧ drainSuits .f2 .bf16 true = true ∧
    w0.buS (.bu 3 4) = some (3, 64) ∧ memNat sMat.me.bufS 64 64 / 2 ^ 448 % 2 ^ 16 = 8 ∧
    memNat sMat.me.bufS 64 64 / 2 ^ 464 % 2 ^ 16 = 128 ∧ memNat sMat.me.bufS 64 64 / 2 ^ 480 % 2 ^ 16 = 0 ∧
    memNat sMat.me.bufS 64 64 / 2 ^ 496 % 2 ^ 16 = 0 ∧ sMat.me.bufOk 5 1 128 (8 * 8 * 2) = true ∧
    0 + 8 * 8 * 2 ≤ 128 :=
  ⟨iss (by decide +kernel), ok_of (by decide +kernel), by decide +kernel, by decide +kernel, by decide +kernel,
    by decide +kernel, by decide +kernel, by decide +kernel, ok_of (by decide +kernel), by decide +kernel⟩

/-- A drain of row 0 of tile 0 to A:0, and a pass over one slab. -/
def drain1 : MJob :=
  { tid := 1, word := 0, ctx := 5, fr := user, stamp := 0, op := .drain .bf16 .f2 true false 0 0 1 1 0 0, tile := 0, old := none,
    hnde := 0, nxt := 0, byt := 0, act := true, held := false, cur := 0, cancel := false, adata := [], rows := [],
    counted := 0 }
def pass1 : MJob := { drain1 with op := .pass .bf16 .bf16 false false 8 8 64 0 0 }
def withJob (j : MJob) (run : Bool) (k : Core) : Core := { withCx k with mjobs := [j], mrun := if run then some 1 else none }
abbrev sJob (j : MJob) (run : Bool) : State := one w0 0 (withJob j run)
def parked (p : Park) (f : Core → Core) : State := one { w0 with park := some p } 0 f

theorem wit_MatrixControlAndRenaming : Issues sMat w0 bare false ∧ Issues (sJob pass1 false) w0 bare false ∧
    (∃ b, (sJob drain1 false).me.bal 5 = some b ∧ b.cmask.getLsbD 4 = false) ∧
    3 < (4 : BitVec 18).toNat ∧ sMat.me.mstatReady w0.fr = true ∧
    (sJob pass1 false).me.mstatReady w0.fr = false ∧
    (w0.si (.imm 15)).toNat % 2 ^ 18 < 16 ∧ (∀ j ∈ sMat.me.mjobs, j.ctx ≠ 5) ∧
    ((w0.si (.imm 0x24)).toNat % 2 ^ 18 < 64 ∧ (w0.si (.imm 0x24)).toNat % 2 ^ 18 % 16 = 4 ∧ 4 ≤ (sMat.me.tilesOf 5).length) ∧
    (∀ j ∈ (sJob { pass1 with act := false } false).me.mjobs, j.ctx = 5 → j.fr.lvl = w0.fr.lvl →
      j.bound = false ∧ (sJob { pass1 with act := false } false).me.mrun ≠ some j.tid) ∧
    (pass1 ∈ (sJob pass1 true).me.mjobs ∧ pass1.fr.lvl = w0.fr.lvl ∧ (sJob pass1 true).me.mrun = some pass1.tid) ∧
    (parked (.mstat 1 0) withCx).topOf 0 = some { w0 with park := some (.mstat 1 0) } ∧
    ((parked (.mstat 1 0) withCx).core 0).mstatReady user = true ∧
    (∀ j ∈ ((parked .mcancel withCx).core 0).mjobs, j.ctx = 5 → j.fr.lvl ≠ user.lvl) ∧
    (drain1 ∈ (sJob drain1 false).me.mjobs ∧ drain1.tile = ((sJob drain1 false).me.cx 5).phys 0) ∧
    (one w0 0 fun k => { withJob drain1 false k with bals := k.bals.set 0 { bal5 with cmask := 0x1F } }).me.rename 5 0 = (4, some 0) :=
  ⟨iss (by decide +kernel), iss (by decide +kernel), ⟨bal5, by decide +kernel⟩, by decide +kernel⟩

theorem wit_MatrixTileFaults : Issues sMat w0 bare false ∧ 8 ≤ (w0.si (.imm 8)).toNat % 2 ^ 18 ∧
    (sMat.me.cx 5).tileL ≤ (w0.si (.imm 5)).toNat % 2 ^ 18 ∧ (w0.si (.imm 5)).toNat % 2 ^ 18 < 8 :=
  ⟨iss (by decide +kernel), by decide +kernel⟩

/-! ### Tasks -/

/-- Awning 7 of context 5 with ceiling 5 (or 7), free or held, at record 0. -/
def withAwn (ceil : Nat) (h : Bool) (k : Core) : Core := { k with awns := k.awns.set 0 ⟨true, 7, ceil, 5, h⟩ }
def sClaimed : State := one w0 0 fun k => { withAwn 5 true k with claims := [⟨0, 3, 0⟩] }

theorem wit_SuccessorsAndClaims : Issues (one w0 0 (withAwn 5 false)) w0 bare false ∧ Issues sClaimed w0 bare false ∧ (w0.si (.imm 0)).toNat = 0 ∧
    255 < (w0.si (.imm 256)).toNat ∧ s0.me.awnIdx 5 7 = none ∧ (one w0 0 (withAwn 5 false)).me.awnIdx 5 7 = some 0 ∧
    ((one w0 0 (withAwn 5 true)).me.awn 0).held = true ∧ ((one w0 0 (withAwn 7 false)).me.awn 0).ceil = 7 ∧ w0.sys = false ∧
    ((one w0 0 (withAwn 5 false)).me.awn 0).held = false ∧ (one w0 0 (withAwn 5 false)).me.claims.length < 32 ∧
    sClaimed.me.claims = [⟨0, 3, 0⟩] ∧ sClaimed.me.awnIdx 5 7 = some 0 ∧ w0.wid = 0 ∧
    sClaimed.me.awnIdx 5 8 ≠ some 0 ∧ s0.me.claims = [] :=
  ⟨iss (by decide +kernel), iss (by decide +kernel), by decide +kernel⟩

/-- A task descriptor of a crier at S:0. -/
def sDesc : State := one w0 0 fun k => { withBal k with bufS := natCells 0 32 morton.toNat }
where natCells (a n v : Nat) : Mem := memWrite [] a (natBytes n v)

theorem wit_ObjectMessagesAndAsks : Issues s0 w0 bare false ∧ (∃ x, chitAddr s0 w0 .rel (.s 0) (.imm 64) = .ok x) ∧
    (∃ x, chitAddr s0 w0 .bar (.s 0) (.imm 64) = .ok x) ∧ (w0.si (.imm 0)).toNat = 0 ∧ 1024 < (w0.si (.imm 1025)).toNat ∧
    (w0.si (.imm 1024)).toNat ≤ 1024 ∧ s0.me.held w0.fr = false ∧
    (∃ x, objAddr s0 w0 (.s 0) 0 (32 + 8 * 1024) pATOM 3 32 [0, 1] = .ok x) ∧
    (∃ x, objAddr s0 w0 (.s 0) 32 32 pATOM 3 32 [0, 1] = .ok x) ∧ (∃ x, objAddr s0 w0 (.s 0) 8 8 pATOM 3 8 [0, 1] = .ok x) ∧
    captureCheck s0 w0 false = .ok () ∧ 16 ≤ (w0.si (.imm 16)).toNat ∧ (w0.si (.imm 15)).toNat < 16 ∧
    Issues sDesc w0 bare false ∧ formBufA sDesc w0 (.bu 3 1) 0 8 8 2 = .ok (3, 16) ∧ captureCheck sDesc w0 false = .ok () ∧
    w0.buS (.bu 3 0) = some (3, 0) ∧ sDesc.me.bufOk 5 3 0 32 = true ∧ descOk (memNat sDesc.me.bufS 0 32) = true ∧
    descOk (2 ^ 20 - 1 + 2 ^ 62) = false :=
  ⟨iss (by decide +kernel), ok_ex (by decide +kernel), ok_ex (by decide +kernel), by decide +kernel, by decide +kernel,
    by decide +kernel, by decide +kernel, ok_ex (by decide +kernel), ok_ex (by decide +kernel), ok_ex (by decide +kernel),
    ok_of (by decide +kernel), by decide +kernel, by decide +kernel, iss (by decide +kernel), bufAt_ok (by decide +kernel),
    ok_of (by decide +kernel), by decide +kernel⟩

/-- A ticket image of context 5 at priority 3 without a footprint, as the bytes of a read that has come back. -/
def image5 : Nat := 0x1000 + (3 + 5 * 2 ^ 32) * 2 ^ 64
def pendSpawn (img : Nat) : Pend :=
  { pend1 with
    kind := .spawn
    off := 64
    n := 64
    parts := [{ part1 with off := 64, n := 64, base := 64, st := .done, data := natBytes 64 img }] }
def sSpawned (img : Nat) : State := parked (.spawn none (.s 0) (.imm 64)) fun k => { k with pend := [pendSpawn img] }

theorem wit_SpawnResults : Issues s0 w0 bare false ∧ s0.me.held w0.fr = false ∧
    (∃ x, objAddr s0 w0 (.s 0) 64 64 pSPAWN 6 64 [0] = .ok x) ∧
    (sSpawned image5).topOf 0 = some { w0 with park := some (.spawn none (.s 0) (.imm 64)) } ∧
    (((sSpawned image5).core 0).pend.filter fun q => q.kind = .spawn && q.wid = w0.wid) = [pendSpawn image5] ∧
    (∀ q ∈ (pendSpawn image5).parts, q.st = .done) ∧ footReadable (imgFoot (pendSpawn image5).value) = false ∧
    (pendSpawn image5).value = image5 ∧
    (okv (({ sSpawned image5 with cur := 0 }.spawnReads 0 [pendSpawn image5]).imageCheck 0 image5 false 5 [])).isSome = true ∧
    (okv (shapeOf (sSpawned image5) w0 none)).isSome = true ∧
    (okv (({ sSpawned (image5 + 2 ^ 67) with cur := 0 }.spawnReads 0 [pendSpawn (image5 + 2 ^ 67)]).imageCheck 0
      (image5 + 2 ^ 67) false 5 [])).isSome = false :=
  ⟨iss (by decide +kernel), by decide +kernel, ok_ex (by decide +kernel), by decide +kernel⟩

/-- The same ticket with a footprint record of 128 zero bytes at 0x100, and the read of it. -/
def imageF : Nat := image5 + 256 * 2 ^ 192
def pendFoot : Pend :=
  { pendSpawn 0 with
    id := 2
    off := 256
    n := 128
    parts := [{ part1 with off := 256, n := 128, base := 256, st := .done, data := List.replicate 128 0 }] }
def sFoot (us : List Pend) : State :=
  parked (.spawn none (.s 0) (.imm 64)) fun k => { k with pend := pendSpawn imageF :: us }

theorem wit_SpawnResults_footprint : (sFoot []).topOf 0 = some { w0 with park := some (.spawn none (.s 0) (.imm 64)) } ∧
    (((sFoot []).core 0).pend.filter fun q => q.kind = .spawn && q.wid = w0.wid) = [pendSpawn imageF] ∧
    footReadable (imgFoot (pendSpawn imageF).value) = true ∧
    (((sFoot [pendFoot]).core 0).pend.filter fun q => q.kind = .spawn && q.wid = w0.wid) = [pendSpawn imageF, pendFoot] ∧
    (∀ r ∈ [pendSpawn imageF, pendFoot], ∀ q ∈ r.parts, q.st = .done) ∧
    (okv (({ sFoot [pendFoot] with cur := 0 }.spawnReads 0 [pendSpawn imageF, pendFoot]).imageCheck 0 imageF false 5
      (natBytes 128 pendFoot.value))).isSome = true ∧
    (okv (shapeOf (sFoot [pendFoot]) w0 (some (.bu 1 0)))).isSome = false := by
  decide +kernel

/-- A landing handler and a row handler on top of another task. -/
def wLand : Window := { w0 with fr := { user with kind := .landing 1 0, args := [0, 0, 16] } }
def wRow : Window := { w0 with fr := { user with kind := .row 1 0, args := [2 ^ 20, 0, 512] } }
def over2 (w : Window) (f : Core → Core := id) : State := one w 0 fun k => f { k with wins := [w, under] }

theorem wit_HandlerEnds : Issues s0 w0 bare true ∧ w0.fr.kind = .plain ∧ Issues (over2 wLand) wLand bare true ∧
    wLand.fr.kind = .landing 1 0 ∧ wLand.adm = true ∧ (∀ q ∈ (over2 wLand).me.claims, q.wid ≠ wLand.wid) ∧
    (over2 wLand).me.drained wLand.fr = true ∧ (over2 wLand).me.wins = [wLand, under] ∧ Issues (over2 wRow) wRow bare true ∧
    (over2 wRow).me.drained wRow.fr = true ∧ (over2 wRow).me.wins = [wRow, under] ∧
    (over2 wRow (fun k => { k with mjobs := [{ drain1 with op := .drain .bf16 .f2 true true 0 0 1 1 0 0 }] })).me.mjob 1 =
      some { drain1 with op := .drain .bf16 .f2 true true 0 0 1 1 0 0 } ∧ (wRow.fr.args.getD 0 0).toNat / 2 ^ 20 = 1 ∧
    (wRow.fr.args.getD 2 0).toNat ≤ 512 ∧
    (over2 wLand (fun k => { k with jrn := [{ jrn1 with fr := wLand.fr }] })).me.drained wLand.fr = false ∧
    ((over2 { w0 with park := some .endWait }).core 0).wins = [{ w0 with park := some .endWait }, under] ∧
    ((over2 { w0 with park := some .endWait }).core 0).drained user = true :=
  ⟨iss (by decide +kernel), by decide +kernel, iss (by decide +kernel), by decide +kernel, by decide +kernel,
    by decide +kernel, by decide +kernel, by decide +kernel, iss (by decide +kernel), by decide +kernel⟩

/-- A drain with a row handler, its row not yet stored, or stored. -/
def drainRow (rs : List Nat) : MJob := { drain1 with op := .drain .bf16 .f2 true true 0 0 1 1 0 0, rows := rs }

theorem wit_HandlerEnds_rows : wRow.fr.kind = .row 1 0 ∧ wRow.adm = true ∧ (over2 wRow).me.mjob 1 = none ∧
    (over2 wRow (fun k => { k with mjobs := [drainRow []] })).me.mjob 1 = some (drainRow []) ∧ 0 - 0 ∉ (drainRow []).rows ∧
    (over2 wRow (fun k => { k with mjobs := [drainRow [0]] })).me.mjob 1 = some (drainRow [0]) ∧ 0 - 0 ∈ (drainRow [0]).rows ∧
    (drainRow []).byt.toNat % 2 = 0 ∧
    (over2 wRow (fun k => { k with jrn := [{ jrn1 with fr := wRow.fr }] })).me.drained wRow.fr = false := by
  decide +kernel

/-! ### Rings, streams and copies -/

/-- RDC2 of R137's example for context 5: an in ring of two slots in the A buffer. -/
def rdcA : Nat := 0x0005_0000_08F9_0003
def ringA (c g : Nat) : Ring := { Ring.zero with rdc := BitVec.ofNat 64 rdcA, cnt := c, gc := g }
def withRing (r : Ring) (k : Core) : Core := { withBal k with rings := k.rings.set 2 r }
def sRing (r : Ring) : State := one (win [BitVec.ofNat 64 rdcA]) 0 (withRing r)
/-- A software ring. -/
def ringS (c f : Nat) : Ring := { Ring.zero with rdc := BitVec.ofNat 64 (rdcA + 2 * 2 ^ 4), cnt := c, fgc := f }

theorem wit_RingSetupAndUse : Issues (sRing Ring.zero) (win [BitVec.ofNat 64 rdcA]) bare false ∧    Issues (sRing (ringA 1 0)) (win [BitVec.ofNat 64 rdcA]) bare false ∧  16 ≤ (w0.si (.imm 16)).toNat ∧
    (w0.si (.imm 2)).toNat < 16 ∧ rdcA / 2 ^ 6 % 4 = 0 ∧ rdcA / 2 ^ 33 % 2 ^ 15 = 0 ∧ rdcA % 2 = 1 ∧ rdcA / 2 % 4 ≠ 2 ∧
    rdcA / 2 ^ 4 % 4 ≠ 3 ∧ (Ring.zero).en = false ∧ (ringA 0 0).en = true ∧ (ringA 0 0).ctx = 5 ∧
    ringFits (sRing Ring.zero) (win [BitVec.ofNat 64 rdcA]) 2 { Ring.zero with rdc := BitVec.ofNat 64 rdcA } = true ∧
    (sRing Ring.zero).me.ringJob 2 = false ∧ (ringA 0 1).gc ≠ 0 ∧ (64 : Nat) / 2 ^ 6 % 4 ≠ 0 ∧
(sRing (ringA 1 0)).me.ring 2 = ringA 1 0 ∧
    (sRing (ringA 1 0)).me.trestle.length < 64 ∧ (ringA 1 0).gc < (ringA 1 0).size ∧ (ringA 1 0).getOk 0 = true ∧
    (ringA 0 0).getOk 0 = false ∧ (ringA 0 0).eos = false ∧ { ringA 0 0 with eos := true }.getOk 0 = false ∧
    (ringA 0 0).isOut = false ∧ 0 < (ringA 1 1).gc ∧ (ringA 1 1).getOk 0 = true ∧ (ringS 0 0).prod = 2 ∧
    (ringS 0 0).fgc < (ringS 0 0).size ∧ (ringS 0 0).fillOk 0 = true ∧ 0 < (ringS 0 1).fgc ∧ (ringS 0 1).fillOk 0 = true :=
  ⟨iss (by decide +kernel), iss (by decide +kernel), by decide +kernel⟩

/-- The ring on which the words below stop. -/
abbrev r0 : Ring := ringA 0 0
def get1 : Get := ⟨0, 64, user, 0, 0⟩

theorem wit_RingFaults : (sRing Ring.zero).me.ring 2 = Ring.zero ∧ (Ring.zero).en = false ∧
    ({ r0 with rdc := BitVec.ofNat 64 (rdcA + 2 ^ 48) } : Ring).ctx ≠ 5 ∧ (r0.en = true ∧ r0.ctx = 5) ∧
    (ringA 0 2).gc = (ringA 0 2).size ∧ r0.gc = 0 ∧ r0.getOk 0 = false ∧
    8 ≤ ({ r0 with gets := List.replicate 8 get1 } : Ring).gets.length ∧ r0.prod ≠ 2 ∧
    ((ringS 0 2).prod = 2 ∧ (ringS 0 2).fgc = (ringS 0 2).size) ∧ (ringS 0 0).fgc = 0 ∧
    ((ringS 2 0).fillOk 0 = false ∧ 8 ≤ ({ ringS 2 0 with fgets := List.replicate 8 get1 } : Ring).fgets.length) := by
  decide +kernel

theorem wit_RingSetup_faults : (BitVec.ofNat 64 (rdcA + 2 ^ 6)).toNat / 2 ^ 6 % 4 ≠ 0 ∧
    (BitVec.ofNat 64 (rdcA + 2 ^ 33)).toNat / 2 ^ 33 % 2 ^ 15 ≠ 0 ∧ (BitVec.ofNat 64 (rdcA - 1)).toNat % 2 = 0 ∧
    ({ r0 with bound := true } : Ring).bound = true ∧ rdcA % 2 = 1 ∧
    (BitVec.ofNat 64 (rdcA - 2 ^ 1 + 2 ^ 2)).toNat / 2 % 4 = 2 ∧ (BitVec.ofNat 64 (rdcA + 3 * 2 ^ 4)).toNat / 2 ^ 4 % 4 = 3 ∧
    ringFits (one w0) w0 2 { Ring.zero with rdc := BitVec.ofNat 64 rdcA } = false := by
  decide +kernel

/-- A card: 64 bytes from S:0 to A:0. -/
def card256 : Nat := 3 * 2 ^ 20 * 2 ^ 64 + 2 ^ 20 + 63 * 2 ^ 128 + 2 ^ 152 + 2 ^ 155

theorem wit_CopyAndBytebarIssue : Issues sBal w0 bare false ∧ captureCheck sBal w0 true = .ok () ∧
    (let c : Card := ⟨copyEnd w0 (.bu 1 0) false false, copyEnd w0 (.bu 3 0) false false, 64, false, 3⟩
     cardCheck sBal w0 c = .ok () ∧ sBal.me.tagsFull (packetTags sBal sBal.cur w0.fr.ctx c) = false) ∧ 3 ≤ w0.fr.pri ∧
    sBal.me.copies.length + 1 ≤ 32 ∧ sBal.me.trestle.length + 1 ≤ 64 ∧ w0.buS (.bu 3 16) = some (3, 256) ∧
    (∃ cs, readChain (one w0 0 fun k => { withBal k with bufS := memWrite [] 256 (natBytes 32 card256) }) w0 32 256 = .ok cs) ∧
    2 ^ 40 ≤ ((win [0, 0x100_0000_0000]).si (.reg 1)).toNat ∧ (w0.si (.imm 64)).toNat % 64 = 0 ∧ (w0.si (.imm 65)).toNat % 64 ≠ 0 ∧
    2 ^ 48 ≤ ((win [0, 0x1_0000_0000_0000]).si (.reg 1)).toNat ∧ (w0.si (.imm 64)).toNat < 2 ^ 48 ∧ 256 % 16 = 0 ∧
    sBal.me.bufOk 5 3 256 16 = true :=
  ⟨iss (by decide +kernel), ok_of (by decide +kernel), ⟨ok_of (by decide +kernel), by decide +kernel⟩, by decide +kernel,
    by decide +kernel, by decide +kernel, by decide +kernel, ok_ex (by decide +kernel), by decide +kernel⟩

/-- A job of no bytes, a chain and a bytebar outside the allocation. -/
theorem wit_CopyAndBytebar_faults : (okv (cardCheck sBal w0 ⟨copyEnd w0 (.bu 1 0) false false, copyEnd w0 (.bu 3 0) false false, 0, false, 3⟩)).isSome = false ∧
    w0.fr.pri < 4 ∧ (okv (readChain s0 w0 32 256)).isSome = false ∧
    s0.me.bufOk 5 3 256 16 = false := by
  decide +kernel

/-- The shape record of R137's example at S:64; with PMODE cyclic where `cyc`. -/
def shape137 (cyc : Bool) : Nat :=
  2 + (if cyc then 2 * 2 ^ 8 else 0) + 64 * 2 ^ 16 + 64 * 2 ^ 32 + 64 * 2 ^ 64 + 200 * 2 ^ 96 + 2 ^ 128 + 2 ^ 160 + 128 * 2 ^ 192
def sStream (w : Window) (r : Ring) (cyc : Bool) : State :=
  one w 0 fun k => { withRing r k with bufS := memWrite [] 64 (natBytes 64 (shape137 cyc)) }
/-- Rank 7 of 8: it has no tile of four. -/
def wRank7 : Window := { w0 with fr := { user with rank := 7, fansz := 8 } }
def hasTile (s : State) (w : Window) : Option Bool := (okv (psubCheck s w (.bu 3 4) (.s 0) (.imm 2))).map fun x => x.2.tile.isSome

theorem wit_StreamWords : Issues (sStream w0 (ringA 0 0) false) w0 bare false ∧
    hasTile (sStream w0 (ringA 0 0) false) w0 = some true ∧ Issues (sStream wRank7 (ringA 0 0) true) wRank7 bare false ∧
    hasTile (sStream wRank7 (ringA 0 0) true) wRank7 = some false ∧ (w0.si (.imm 2)).toNat < 16 ∧
    ((sStream w0 (ringA 0 0) false).me.ring 2).en = true ∧ ((sStream w0 (ringA 0 0) false).me.ring 2).ctx = w0.fr.ctx ∧
    captureCheck (sStream w0 (ringA 0 0) false) w0 false = .ok () ∧ (ringA 0 0).bound = false ∧
    (let s := sStream w0 { ringA 0 0 with drop := [⟨0, 64, user, 0, 0⟩] } false
     ((s.core 0).ring 2).drop ≠ [] ∧ ((s.core 0).ring 2).bound = false ∧ ((s.core 0).ring 2).midSlot = false) :=
  ⟨iss (by decide +kernel), by decide +kernel, iss (by decide +kernel), by decide +kernel, by decide +kernel,
    by decide +kernel, by decide +kernel, ok_of (by decide +kernel), by decide +kernel⟩

/-! ### Events of a core -/

def atTick (n : Nat) (s : State) : State := { s with tick := BitVec.ofNat 64 n }
def withJrn (e : JEntry) : State := one w0 0 fun k => { withBal k with jrn := [e] }
def withPend (p : Pend) : State := one w0 0 fun k => { withBal k with pend := [p] }
def pendDone : Pend := { pend1 with parts := [{ part1 with st := .done, data := List.replicate 8 0 }] }
/-- A release for a ticket of context 5 at 0x40, deferred by the user frame. -/
def chit1 (k : ChitKind) (off : Nat) (arg : W64) : Chit := s0.chitTo k 3 5 ⟨0, off, 64, 0, false, none⟩ arg
def defer1 (what : Send) : Defer := ⟨1, 5, 0, false, what, user, []⟩
def sDefer (what : Send) : State := one w0 0 fun k => { k with defer := [defer1 what] }
def sTrap : State := one w0 0x4001 fun k => { k with jrn := [{ jrn1 with st := .refused }], traps := [⟨0, user⟩] }
/-- The window address of S:0x100 on core 0. -/
def winS : Nat := 3 * 2 ^ 41 + 0x100
def pendWin : Pend := { pend1 with region := 0xFE, off := winS, parts := [{ part1 with off := winS, base := winS, st := .queued }] }
def jrnWin : JEntry := { jrn1 with st := .draining, region := 0xFE, blk := winS / 64 }

theorem wit_CoreEvents :
    ((s0pend.core 0).pend.find? fun r => r.id = pend1.id) = some pend1 ∧
    pend1.parts[0]? = some part1 ∧
    part1.st = .remote ∧
    (((withPend pendDone).core 0).pend.find? fun r => r.id = pendDone.id) = some pendDone ∧
    pendDone.sc = false ∧
    pendDone.kind = .load .i64 false 1 ∧
    (∀ q ∈ pendDone.parts, q.st = .done) ∧
    (withPend pendDone).topOf 0 = some w0 ∧
    w0.wid = pendDone.wid := by
  decide +kernel

theorem wit_CoreEvents_traps :
    ((withJrn jrn1).core 0).entry 0 = some jrn1 ∧
    jrn1.opened + openTicks 0 ≤ (atTick 1000 (withJrn jrn1)).tick.toNat ∧
    (withJrn { jrn1 with st := .closed }).mayEmit 0 { jrn1 with st := .closed } = true ∧
    ((withJrn { jrn1 with st := .performed }).core 0).entry 0 = some { jrn1 with st := .performed } ∧
    ((withJrn { jrn1 with st := .refusing }).core 0).running user = true ∧
    ((sDefer (.chit (chit1 .release 64 0))).core 0).defer[0]? = some (defer1 (.chit (chit1 .release 64 0))) ∧
    (sDefer (.chit (chit1 .release 64 0))).objBusy 0 0 (defer1 (.chit (chit1 .release 64 0))) = false ∧
    (sDefer (.chit (chit1 .release 64 0))).holds? 5 = true ∧
    (chit1 .release 64 0).tdev = s0.dev := by
  decide +kernel

theorem wit_CoreEvents_windows :
    (sTrap.topOf 0 = some w0 ∧ ((sTrap.core 0).traps.find? fun t => t.fr.same w0.fr) = some ⟨0, user⟩ ∧
      sTrap.boundary 0 = true ∧ sTrap.frozen 5 = false ∧ bestCand (sTrap.candidates 0) = none ∧ sTrap.handled 5 = true ∧
      fitsResident 0 (sTrap.core 0).wins = true) ∧
    (waits (.brk 5)).topOf 0 = some { w0 with park := some (.brk 5) } ∧
    (let s := { atTick 100 s0pend with scForms := [⟨0, 0, 0, 1, 5, 0, true⟩] }
     (s.scForms.find? fun f => decide (f.core = 0) && decide (f.id = 1)) = some ⟨0, 0, 0, 1, 5, 0, true⟩ ∧
     8 * (0 + 7) ≤ s.tick.toNat ∧ ((s.core 0).pend.find? fun p => p.id = 1) = some pend1) ∧
    ((withPend pendWin).winAsk (.pend 0 1 0)).map (fun a => (a.own, a.sc, winCore a.off, (withPend pendWin).holds? a.x)) =
      some (true, false, 0, true) ∧
    (withPend pendWin).scBusy 5 (vaOf 0xFE winS / 128) = false ∧
    ((withJrn jrnWin).winAsk (.jrn 0 0)).map (fun a => (a.own, a.sc, winCore a.off, a.store.isSome, winBuf a.off)) =
      some (true, false, 0, true, 3) ∧
    ({ part1 with st := .egress } : Part).st = .egress ∧
    pend1.region ≠ 1 := by
  decide +kernel

/-- A context's record, not dead. -/
theorem live_of {s : State} {x : Ctx} {r : CtxRec} (h : s.ctxRec x = some r) (e : r.st = .live) : s.live x :=
  ⟨r, h, fun _ hc => by rw [e] at hc; cases hc⟩

/-- An entry that has left for device 7. -/
def jrn7 : JEntry := { jrn1 with st := .draining, dev := 7 }
/-- A window that stands at BRK 5, with its message in its die's mail. -/
def wBrk : Window := { w0 with park := some (.brk 5) }
def sBrk (dbg : Bool) : State :=
  { one wBrk with
    mail := vmod 0 (fun _ => [.brk 0 0 5 64 0x1000 5]) s0.mail
    contexts := [(5, { ctx5 0 with debugger := dbg })] }
/-- Sixteen refused entries beside one at device 7. -/
def full16 : State :=
  one w0 0 fun k => { k with jrn := { jrn7 with idx := 20 } :: (List.range 16).map fun i => { jrn1 with idx := i, st := .refused } }

theorem wit_CoreEvents_replies : s0.live 5 ∧ (s0pend.core 0).unackedAway pend1 part1 = false ∧ pend1.kind ≠ .pref ∧
    ({ pend1 with kind := .pref } : Pend).kind = .pref ∧ pendDone.dead = false ∧ ({ pendDone with dead := true } : Pend).dead = true ∧
    (sTrap.topOf 0 = some w0 ∧ w0.sys = false ∧ spillTop (sTrap.core 0).spilled ≤ 0x10000) :=
  ⟨live_of (r := ctx5 0) (by decide +kernel) (by decide +kernel), by decide +kernel⟩

theorem wit_CoreEvents_entries :
    ((withJrn { jrn1 with st := .closed }).entryGo 0 { jrn1 with st := .closed } false = true ∧
      (withJrn { jrn1 with st := .closed }).entryDev { jrn1 with st := .closed } = s0.dev) ∧
    ((withJrn { jrn1 with st := .closed, dev := 7 }).entryGo 0 { jrn1 with st := .closed, dev := 7 } false = true ∧
      (withJrn { jrn1 with st := .closed, dev := 7 }).entryDev { jrn1 with st := .closed, dev := 7 } ≠ s0.dev) ∧
    (let e : JEntry := { jrn1 with st := .closed, region := 1 }
     ((withJrn e).egressRaw e.ctx (e.blk * 64) ((withJrn e).entryDev e)).isSome = true) ∧
    jrn7.away s0.dev = true ∧ ((withJrn jrn7).core 0).entry 0 = some jrn7 ∧ ((withJrn jrn7).core 0).running user = true ∧
    (let e := { jrn7 with fr := { user with serial := 9 } }
     ((withJrn e).core 0).running e.fr = false ∧ (withJrn e).handled 5 = false) ∧
    (let e := { jrn7 with fr := { user with serial := 9 } }
     let s := one w0 0x4001 fun k => { withBal k with jrn := [e] }
     (s.core 0).running e.fr = false ∧ s.handled 5 = true) ∧
    jrn7.orphan = false ∧
    (let e := { jrn1 with st := .refusing, orphan := true }
     ((withJrn e).core 0).entry 0 = some e ∧ e.st = .refusing ∧ e.orphan = true) ∧
    ((full16.core 0).entry 20 = some { jrn7 with idx := 20 } ∧
      16 ≤ ((full16.core 0).jrn.filter fun o => o.st = .refused && decide (o.ctx = 5)).length) := by
  decide +kernel

theorem wit_CoreEvents_sends : ((s0.core 0).settled user 0 = true) ∧
    (let d := defer1 (.watch 0 0 64 1 64)
     (sDefer d.what).objBusy 0 0 d = false) ∧
    (let d := defer1 (.chit { chit1 .release 64 0 with tdev := 7 })
     d.what = .chit { chit1 .release 64 0 with tdev := 7 } ∧ (7 : Nat) ≠ s0.dev) ∧ s0.ticketDie 5 64 < 4 := by
  decide +kernel

theorem wit_CoreEvents_stops : (vget [] (sBrk true).mail (dieOf 0)).any (SvcMsg.stopOf 0 0) = true ∧ dieOf 0 < s0.mail.size ∧
    (sBrk true).serves (dieOf 0) = true ∧ ((sBrk true).core 0).findWin 0 = some wBrk ∧ wBrk.wid = 0 ∧ wBrk.park = some (.brk 5) ∧
    ((sBrk true).ctxRec 5).map CtxRec.debugger = some true ∧ ((sBrk false).ctxRec 5).map CtxRec.debugger = some false := by
  decide +kernel

/-- A service task stands on the service core of die 0. -/
def busySvc : State :=
  { s0 with cores := [(0, s0.core 0), (191, { Core.zero with thr := 7, wins := [w0] })] }

theorem wit_serves : s0.serves 0 = true ∧ s0.books (.jrn 0 0) = true ∧ busySvc.serves 0 = false ∧
    busySvc.books (.jrn 0 0) = false := by decide +kernel

/-- A load of another core's window, where the context has an allocation and where it has none. -/
def pendFar (o : Nat) : Pend :=
  { pend1 with region := 0xFE, off := o, parts := [{ part1 with off := o, base := o, st := .queued }] }
def farS : Nat := 2 ^ 43 + winS
def sFar (there : Bool) : State :=
  { one w0 0 fun k => { k with pend := [pendFar farS] } with
    cores := [(0, { Core.zero with wins := [w0], pend := [pendFar farS] }), (1, if there then withBal Core.zero else Core.zero)] }
/-- A part that waits at the egress, for this device or device 7. -/
def egressPart (dev : Nat) : Part := { part1 with st := .egress, dev := dev }
def pendEg (region : BitVec 8) (dev : Nat) : Pend := { pend1 with region := region, parts := [egressPart dev] }

theorem wit_CoreEvents_far : winCore farS = 1 ∧
    ((sFar true).winAsk (.pend 0 1 0)).map (fun a => (a.own, a.sc, (sFar true).retained (clusterOf 1), (sFar true).flipped 1 a.x,
      ((sFar true).core 1).winOk a.x a.sys (winBuf a.off) a.span.1 a.span.2)) = some (false, false, false, false, true) ∧
    ((sFar false).winAsk (.pend 0 1 0)).map (fun a => ((sFar false).core 1).winOk a.x a.sys (winBuf a.off) a.span.1 a.span.2) =
      some false ∧
    ((withPend (pendEg 0 0)).partGo 0 (pendEg 0 0) (egressPart 0) = true ∧ (egressPart 0).dev = s0.dev) ∧
    ((withPend (pendEg 0 7)).partGo 0 (pendEg 0 7) (egressPart 7) = true ∧
      (withPend (pendEg 0 7)).pathFree 0 5 0 7 0 = true ∧ (egressPart 7).dev ≠ s0.dev) ∧
    ((withPend (pendEg 1 7)).partGo 0 (pendEg 1 7) (egressPart 7) = true ∧
      ((withPend (pendEg 1 7)).egressRaw 5 0 7).isSome = true) := by
  decide +kernel

end Sys2Proof.Tests
end

