-- ==== Sys2Proof/Tests/WitnessC.lean ====
section
/-! SUPPORT. WitnessC.lean: witnesses for the statements about the agents outside the cores: slices, migration, fabric,
engines, messages, Exchanges, admission, save areas, power, queues, commands, and the machine as a whole. -/

namespace Sys2Proof.Tests

set_option Elab.async false

open Sys2Proof Sys2Proof.Machine

/-! ### Slices -/

/-- Region 0 page 0: RD, WR and AT, physical 0x100_0000. -/
def pteData : Nat := 1 + 2 ^ 3 + 2 ^ 4 + 2 ^ 5 + 0x100 * 2 ^ 31
def home0 : Nat := s0.home 5 0 0
def withPte (e : Nat) (s : State) : State := { s with slices := [(home0, { Slice.zero with tlb := [tlbOf 5 0 0 e] })] }
def withTlb (s : State) : State := withPte pteData s
def queued (p : Pend) : Pend := { p with parts := [{ part1 with st := .queued }] }
def sLoad : State := withTlb (withPend (queued pend1))
def sStore : State := withTlb (withJrn { jrn1 with st := .draining })
def pendAmo : Pend := queued { pend1 with kind := .amo .add .i64 1 3 }
def sAmo : State := withTlb (withPend pendAmo)
/-- A peer's request of context 5's region. -/
def peer0 (kind : PKind) : PeerReq := { dev := 9, core := 0, id := 1, ctx := 5, region := 0, off := 0, n := 8, kind := kind, fc := 0 }
/-- An access and what its slice makes of it: kind, turn, slice, entry. -/
def passes (s : State) (r : AccRef) : Option (AccKind × Bool × Nat × Nat) :=
  match s.askOf r with
  | some a => match s.slicePass (.acc r) a with
    | .ok _ sl e => some (a.kind, a.wr, sl, e)
    | _ => none
  | none => none
/-- Whether a slice denies a write, or misses. -/
def slEnd (s : State) (r : AccRef) : Option (Bool × Bool) :=
  match s.askOf r with
  | some a => match s.slicePass (.acc r) a with
    | .denied _ => some (true, a.sys)
    | .missed _ sl => if sl = home0 && !a.wr && !a.pref && !s.progWait r then some (false, a.sys) else none
    | _ => none
  | none => none

/-- The table's entry of region 0 page 0 in memory, and a walk for it. -/
def tr5 : Nat := s0.trans 5
def table (e : Nat) (region : BitVec 8) : Mem :=
  memWrite [] (bucketAddr tr5 0 (vpnOf 0 region 0)) (natBytes 8 (withTag e (tagOf tr5 0 region 0)))
def walk1 : Walk := ⟨5, 0, .load, 0, 0, false, .acc (.pend 0 1 0)⟩
def fault1 (a : Option Bool) (stale : Bool := false) : PFault := ⟨5, 0, .load, 0, 0, a, [], stale⟩
def sWalk : State := { s0 with mem := table pteData 0, slices := [(0, { Slice.zero with walks := [walk1] })] }
def sPf (a : Option Bool) (stale : Bool := false) : State :=
  { s0 with
    slices := [(0, { Slice.zero with faults := [fault1 a stale] })]
    mail := vmod 0 (fun _ => [.fault 0 5 0 .load 0 0]) s0.mail }

theorem wit_SliceEvents :
    passes sLoad (.pend 0 1 0) = some (.load, false, home0, pteData) ∧
    sLoad.progWait (.pend 0 1 0) = false ∧
    passes sStore (.jrn 0 0) = some (.store, true, home0, pteData) ∧ (sStore.core 0).olderDrain 0 = false ∧
    passes sAmo (.pend 0 1 0) = some (.atomic, false, home0, pteData) ∧ sAmo.atomicReady (.pend 0 1 0) = true ∧
    sAmo.home 5 0 0 = home0 ∧ sAmo.atomicOp (.pend 0 1 0) 4 = some (8, 7) ∧
    passes (withTlb s0) (.peer (peer0 .load)) = some (.load, false, home0, pteData) ∧
    passes (withTlb s0) (.peer (peer0 (.store [] false))) = some (.store, true, home0, pteData) ∧
    passes (withTlb s0) (.peer (peer0 (.amo .add .i64 3))) = some (.atomic, false, home0, pteData) ∧
    pteKind pteData = 0 ∧ paExists (ptePa pteData 0) = true :=
  ⟨by decide +kernel, by decide +kernel, by decide +kernel, by decide +kernel⟩

/-- An entry that grants nothing. -/
def sMiss (f : Frame) : State := withPte (1 + 0x100 * 2 ^ 31) (withPend { queued pend1 with fr := f })

theorem wit_SliceEvents_refusals :
    slEnd (withPte (1 + 2 ^ 3 + 0x100 * 2 ^ 31) (withJrn { jrn1 with st := .draining })) (.jrn 0 0) = some (true, false) ∧
    slEnd (sMiss user) (.pend 0 1 0) = some (false, false) ∧
    slEnd (sMiss { user with sys := true }) (.pend 0 1 0) = some (false, true) ∧
    ((sMiss user).slice home0).joins 5 0 = false ∧ ((sMiss user).slice home0).faults = [] ∧ home0 < 192 ∧
    s0.ctxRec 5 = some (ctx5 0) ∧ (ctx5 0).st = .live := by
  decide +kernel

theorem wit_SliceEvents_walks : (sWalk.slice 0).walks[0]? = some walk1 ∧
    walk sWalk.mem (sWalk.trans 5) 0 0 = .hit pteData ∧ ((sPf none).slice 0).faults[0]? = some (fault1 none) ∧
    (sPf none).serves 0 = true ∧
    ((sPf (some false) true).slice 0).faults[0]? = some (fault1 (some false) true) ∧ (fault1 (some false)).stale = false ∧
    (vget [] (sPf none).mail 0).any (SvcMsg.faultOf 0 (fault1 none)) = true ∧
    ((sPf (some true)).slice 0).faults[0]? = some (fault1 (some true)) ∧
    ((sPf (some false)).slice 0).faults[0]? = some (fault1 (some false)) ∧ s0.holds? 5 = true ∧ s0.evicted 5 = false ∧
    ((s0.useLine 0 5 0 0 pteData).1.slice 0).lines.length = 1 ∧ (s0.slice 0).lines = [] ∧
    ({ sPf (some false) with contexts := [(5, { ctx5 0 with st := .evicted })] }.evicted 5 = true) := by
  decide +kernel

/-! ### Migration -/

def pteMig : Nat := 1 + 2 ^ 3 + 2 ^ 4 + 0x200 * 2 ^ 31
def migr1 : Migr := ⟨5, 0, false, 7, 2, 1, 0, 9⟩
def sMigr : State := { s0 with mem := table pteMig 1, migrations := [migr1], holds := [⟨5, 0, false⟩] }
def sInst : State := { s0 with mem := table pteMig 1, installs := [⟨5, 0, false, 3⟩], holds := [⟨5, 0, false⟩] }
/-- A stub of context 5's page 0, in the state `st` with `acks` outstanding; the table lies above 0x8_0000. -/
def stub1 (st acks sharers : Nat) : Stub := ⟨7, st, false, 2, acks, 0, sharers, 5, 0⟩
def sStub (st acks sharers : Nat) (n : Nat := 0) : State :=
  atTick n (({ s0 with migcfg := 20 + 2 ^ 19 }).setStub 3 (stub1 st acks sharers))
/-- A peer's load of region 0x01, sent by device `d`. -/
def req1 (d fc : Nat) : PeerReq := { peer0 .load with dev := d, region := 1, fc := fc }
def sRelay (d : Nat) : State := { sStub 1 0 0 with relays := [⟨3, req1 d 1⟩] }
def sSent : State := { sStub 2 4 0 (2 ^ 24 + 1) with stubSent := [(3, 1)] }
/-- The stub's entry in the TLB of the page's slice. -/
def sAtStub : State :=
  { sStub 1 0 0 with slices := [(s0.home 5 1 0, { Slice.zero with tlb := [tlbOf 5 1 0 (1 + 2 ^ 3 + 2 * 2 ^ 7 + 3 * 2 ^ 31)] })] }
def stubHit (s : State) (r : PeerReq) : Option Nat :=
  match s.askOf (.peer r) with
  | some a => match s.slicePass (.acc (.peer r)) a with
    | .stub _ i => some i
    | _ => none
  | none => none
/-- A load of region 0x01 page 0 that stands as `st` toward device 7. -/
def pendAway (st : PartSt) (tries : Nat) : Pend :=
  { pend1 with region := 1, parts := [{ part1 with st := st, dev := 7, tries := tries }] }
def sAway (st : PartSt) (tries : Nat := 0) : State :=
  { withPend (pendAway st tries) with mail := vmod 0 (fun _ => [.misroute (.pend 0 1 0) 5 0]) s0.mail }
/-- A store entry of the page that has left for device 7. -/
def jrnAway (tries : Nat) : JEntry := { jrn7 with region := 1, tries := tries }

theorem wit_MigrationEvents : sMigr.migrations[0]? = some migr1 ∧ sMigr.freeStub = some 0 ∧
    (sMigr.slotOf (sMigr.trans 5) 0 1 0).isSome = true ∧ migr1.queue < sMigr.queues.size ∧
    (s0.holds? 5 = true ∧ 2 ^ 26 ≤ 0x400 * 2 ^ 16 ∧ s0.stubOf 5 0 = none ∧ s0.mapStatus 5 1 0 (installEntry false 15 0x400) = 0) ∧
    ((sInst.installs.find? fun i => decide (i.ctx = 5) && decide (i.page = 0) && i.big = false) = some ⟨5, 0, false, 3⟩ ∧
      (sInst.slotOf (sInst.trans 5) 0 1 0).isSome = true) ∧
    (stubHit sAtStub (req1 9 1) = some 3 ∧ stubHit sAtStub (req1 9 2) = some 3 ∧
      stubHit sAtStub { req1 9 1 with pref := true } = some 3 ∧ (sAtStub.stub 3).on = true) ∧
    ((sRelay 9).relays[0]? = some ⟨3, req1 9 1⟩ ∧ backDev (req1 9 1) ≠ (sRelay 9).dev ∧ backDev (req1 0 1) = (sRelay 0).dev ∧
      (sRelay 0).books (refOf (req1 0 1)) = true ∧
      { sRelay 0 with cores := busySvc.cores }.books (refOf (req1 0 1)) = false) ∧
    ((sStub 1 0 1 (2 ^ 20)).stub 3 = stub1 1 0 1 ∧ (sStub 1 0 1 (2 ^ 20)).stubMin ≤ 2 ^ 20 ∧
      (sharerGroups 1).length = 1 ∧ { sStub 1 0 1 with fabcfg := 0 }.q = 5 ∧ Memory.wf (sStub 1 0 1).mem = true) ∧
    (((sStub 2 4 0).stub 3).acks = 4 ∧ ((sStub 2 1 0).stub 3).acks = 1 ∧ ((sStub 2 1 0).stub 3).st = 2) ∧
    ((sSent.stubSent.find? fun p => p.1 = 3) = some (3, 1) ∧ (sSent.stub 3).st = 2) := by
  decide +kernel

theorem wit_MigrationEvents_away : (sAway .remote).outside (.pend 0 1 0) = some (5, 0, 7) ∧
    (sAway .remote).isPref (.pend 0 1 0) = false ∧ (sAway .remote).books (.pend 0 1 0) = true ∧ ((sAway .remote).triesOf (.pend 0 1 0) < 3 ∧ dieOf 0 < s0.mail.size) ∧
    3 ≤ (sAway .remote 3).triesOf (.pend 0 1 0) ∧
    ((withJrn (jrnAway 0)).outside (.jrn 0 0) = some (5, 0, 7) ∧ (withJrn (jrnAway 0)).triesOf (.jrn 0 0) < 3 ∧
      (withJrn (jrnAway 0)).books (.jrn 0 0) = true) ∧
    (sAway .misrouted 1).awayOf (.pend 0 1 0) .misrouted .misrouted = some (5, 0, 7) ∧
    (sAway .misrouted 1).serves (dieOf 0) = true ∧ (vget [] (sAway .misrouted 1).mail (dieOf 0)).any (SvcMsg.misrouteOf (.pend 0 1 0)) = true ∧
    ((sAway .redirected).quiet 5 0 false 7 = true ∧ (sAway .redirected).earlierRedirect (.pend 0 1 0) 5 0 = false ∧
      (sAway .redirected).pageBig 5 0 = false ∧ (sAway .redirected).pathFree 0 5 1 7 0 = true ∧
      ((sAway .redirected).egressRaw 5 0 7).isSome = true) ∧
    (s0.dev ≠ 7 ∧ s0.owners = []) ∧
    (let s := { s0 with acksDue := [⟨5, 0, false, 7, 3⟩, ⟨5, 0, false, 0, 3⟩] }
     s.acksDue[0]? = some ⟨5, 0, false, 7, 3⟩ ∧ s.quiet 5 0 false 7 = true ∧ s.acksDue[1]? = some ⟨5, 0, false, 0, 3⟩ ∧
      s.quiet 5 0 false 0 = true) := by
  decide +kernel

/-! ### Fabric -/

/-- A device of a q = 5 fabric, device 0. -/
def sFab : State := { s0 with fabcfg := 2 ^ 14 }
def upPort (n r : Nat) (s : State) : State := { s with ports := vmod n (fun _ => { Port.down with up := true, replays := r }) s.ports }
def pack7 (c : TClass) (im : Option Nat) (dst : Nat) (body : Option OutMsg) : Packet :=
  { cls := c, src := 9, dst := dst, hc := 0, im := im, ctx := 5, flits := 1, body := body }
abbrev packOrd : Packet := pack7 .ordered none 7 none
def sPack : State := { upPort 0 0 sFab with packets := [(0, packOrd)] }
/-- The way to device 7 leaves by port 0. -/
def sRoute : State := { sFab with routes := [(7, 1)] }
def toOwn (p : Nat) : State := { sRoute with out := [.request 7 (req1 0 0)], ports := (upPort p 0 sFab).ports }
def hostPk (k : PKind) : Packet := pack7 .ordered none 0 (some (.hostReq 0 (peer0 k) 0x100))

theorem wit_FabricEvents : sFab.portOn 0 = true ∧ ((upPort 0 0 sFab).port 0).up = true ∧ 9 ≤ ((upPort 0 9 sFab).port 0).replays ∧
    (sPack.packets[0]? = some (0, packOrd) ∧ sPack.mayLeave 0 0 packOrd = true) ∧
    (packOrd.dst ≠ sRoute.dev ∧ packOrd.im ≠ some sRoute.dev ∧ sRoute.routeOf 7 % 2 = 1 ∧ packOrd.hc < hopsOf packOrd.cls ∧
      sRoute.portOn (sRoute.wayOf packOrd) = true) ∧
    ({ sFab with fabcfg := 2 ^ 14 + 2 ^ 16 }.portOn 38 = true ∧ 0 = dport sFab.doubling (38 - 38) ∧ 1 ≠ dport sFab.doubling (38 - 38) ∧
      sFab.portOn 9 = false ∧ s0.portOn 37 = true) ∧
    (let m : OutMsg := .request 7 (req1 0 0)
     (toOwn 0).out[0]? = some m ∧ wireHead m = (7, 5, .ordered) ∧ (toOwn 0).out.take 0 = [] ∧ (toOwn 0).routeOf 7 % 2 = 1) ∧
    (pack7 .adaptive (some 0) 7 none).im = some sRoute.dev ∧
    ((hostPk .load).dst = s0.dev ∧ (s0.port 37).up = false ∧ ((upPort 37 0 s0).port 37).up = true ∧
      (hostPk (.store [] false)).body = some (.hostReq 0 (peer0 (.store [] false)) 0x100)) ∧
    (s0.fabcfg.getLsbD 14 = false ∧ (BitVec.ofNat 64 (2 ^ 14)).getLsbD 14 = true ∧ s0.fabricOn = false ∧
      (5 : Nat) ≤ (BitVec.ofNat 64 (2 ^ 14 + 5 * 2 ^ 4)).toNat / 2 ^ 4 % 2 ^ 5) ∧
    (sFab.fabcfg.getLsbD 14 = true ∧ (7 : W64).getLsbD 14 = false ∧ (∃ p ∈ sFab.contexts, sFab.holds? p.1 = true)) ∧
    (1 : Nat) % 2 = 1 := by
  decide +kernel

/-! ### Porters, copies and the matrix engine -/

/-- A tensor of one byte: one tile of one row, of which `row` have moved. -/
def shape1 : Nat := 1 + 2 ^ 16 + 2 ^ 32 + 2 ^ 64 + 2 ^ 96 + 2 ^ 128 + 2 ^ 160
def stream1 : Stream := ⟨BitVec.ofNat 512 shape1, 0, 0, none, 0, 1, 0, user, 0, []⟩
/-- Ring 2 bound to it: an in ring, or an out ring with a full slot. -/
def ringIn : Ring := { ringA 0 0 with bound := true, stream := some stream1 }
def ringOut : Ring := { ringIn with rdc := BitVec.ofNat 64 (rdcA + 2 ^ 3), cnt := 1 }
def sPorter (r : Ring) : State := withTlb (one w0 0 (withRing r))
/-- The outcome of an engine access: completed, or waiting. -/
def engOk {α : Type} : EngRes α → Bool
  | .ok _ _ => true
  | _ => false
def engWaits {α : Type} : EngRes α → Bool
  | .wait _ => true
  | _ => false
theorem eng_ex {α : Type} {x : EngRes α} (h : engOk x = true) : ∃ s a, x = .ok s a := by
  cases x with
  | ok s a => exact ⟨s, a, rfl⟩
  | _ => cases h
theorem wait_ex {α : Type} {x : EngRes α} (h : engWaits x = true) : ∃ s, x = .wait s := by
  cases x with
  | wait s => exact ⟨s, rfl⟩
  | _ => cases h

/-- The state of an out porter's turn, which has taken its slot's bytes. -/
def sTaken (s : State) : State := s.modStream 0 2 fun t => { t with data := [0] }
def rowsLeft : List Nat := (List.range stream1.sh.tile1).drop stream1.row

theorem wit_CopyEvents_porters : (sPorter ringIn).porterTurn 0 2 false = some (ringIn, stream1, 0) ∧ ringIn.wp = 0 ∧
    ((sPorter ringIn).slotOut 0 ringIn stream1).isNone = true ∧
    (∃ u v, (sPorter ringIn).readRows 0 2 ringIn stream1 0 rowsLeft = .ok u v) ∧
    (∃ u, (one w0 0 (withRing ringIn)).readRows 0 2 ringIn stream1 0 rowsLeft = .wait u) ∧
    (sPorter ringOut).porterTurn 0 2 true = some (ringOut, stream1, 0) ∧
    ((sPorter ringOut).slotOut 0 ringOut stream1).isNone = true ∧ stream1.data.isEmpty = true ∧
    memRead (((sPorter ringOut).core 0).buf ringOut.bufNo) (ringOut.slotAt ringOut.wp) stream1.sh.tileBytes = [0] ∧
    (∃ u v, (sTaken (sPorter ringOut)).writeRows 0 2 stream1 [0] ((stream1.rows 0).drop stream1.row) = .ok u v) ∧
    (∃ u, (sTaken (one w0 0 (withRing ringOut))).writeRows 0 2 stream1 [0] ((stream1.rows 0).drop stream1.row) = .wait u) ∧
    (let s := one w0 0 fun k => { withRing ringIn k with bals := Core.zero.bals }
     s.porterTurn 0 2 false = some (ringIn, stream1, 0) ∧ (s.slotOut 0 ringIn stream1).isSome = true) ∧
    (let s := one w0 0 fun k => { withRing ringOut k with bals := Core.zero.bals }
     s.porterTurn 0 2 true = some (ringOut, stream1, 0) ∧ (s.slotOut 0 ringOut stream1).isSome = true) :=
  ⟨by decide +kernel, by decide +kernel, by decide +kernel, eng_ex (by decide +kernel), wait_ex (by decide +kernel),
    by decide +kernel, by decide +kernel, by decide +kernel, by decide +kernel, eng_ex (by decide +kernel),
    wait_ex (by decide +kernel), by decide +kernel⟩

/-- A job of 300 bytes from S:0 to A:0x200. -/
def copy1 : CopyJob :=
  { tid := 1, ctx := 5, fr := user, stamp := 0, dst := ⟨1, 2 ^ 20 + 0x200, 0, none, 0, 0⟩, src := ⟨1, 3 * 2 ^ 20, 0, none, 0, 0⟩, len := 300
    xf := false, hpri := 0, hnde := 0x7000, nxt := 0, byt := 0, chain := 0, started := false, issued := 0, packets := [], counted := 0
    tags := [] }
def copy2 (p : PkSt) (xf : Bool) : CopyJob :=
  { copy1 with started := true, xf := xf, issued := 1, packets := [⟨0, p, [1, 2, 3]⟩] }
def sCopy (j : CopyJob) (granted : Bool) : State :=
  { one w0 0 fun k => { withBal k with copies := [j] } with
    clusters := [(0, { Cluster.zero with resv := if granted then [⟨0, .copy 1, .copy, 3, 0, none, false, 5, 0⟩] else [] })] }

/-- A job from a ring to its own buffer. -/
def copyR : CopyJob := { copy1 with src := ⟨3, 2, 0, none, 0, 0⟩, started := true, counted := 2 }

theorem wit_CopyEvents : ((sCopy copy1 true).core 0).job 1 = some copy1 ∧ ((sCopy copy1 true).core 0).startable copy1 = true ∧
    (sCopy copy1 true).stopped 0 5 = false ∧ (sCopy copy1 true).granted 0 (.copy 1) = true ∧
    (∀ o ∈ ((sCopy copy1 true).core 0).copies, o.before copy1 = false) ∧ (sCopy copy1 false).granted 0 (.copy 1) = false ∧
    (let j := { copy1 with started := true }
     let s := sCopy j true
     s.mayIssue 0 j = true ∧ (s.core 0).inFlight < 32 ∧ j.src.at s 0 5 (256 * j.issued) = .own 3 0 ∧
      ∀ x ∈ (s.core 0).copies, s.mayIssue 0 x = true → x.before j = false) ∧
    (let j := copy2 .put false
     let s := sCopy j true
     (j.packets.find? fun q => q.k = 0) = some ⟨0, .put, [1, 2, 3]⟩ ∧ s.blocked (.packet 0 1 0) = false ∧ j.byt.toNat % 2 = 0 ∧
      j.dst.at s 0 5 0 = .own 1 0x200 ∧ ([1, 2, 3] : List Byte) ≠ []) ∧
    (∃ u v, (sCopy (copy2 .put false) true).writeDest 0 (copy2 .put false) 0 [1, 2, 3] = .ok u v) ∧
    (copy2 .flight true).xf = true ∧ (copy2 .flight false).xf = false ∧
    (let j := { copy2 .performed false with counted := 2 }
     j.started = true ∧ j.len ≤ 256 * j.counted ∧ ((sCopy j true).core 0).job 1 = some j) ∧
    (copyR.rings.filter fun p => p.1 = 2).length = 1 :=
  ⟨by decide +kernel, by decide +kernel, by decide +kernel, by decide +kernel, by decide +kernel, by decide +kernel,
    by decide +kernel, by decide +kernel, eng_ex (by decide +kernel), by decide +kernel⟩

/-- The matrix engine of core 0 with one job, and a reservation of that class where it holds one. -/
def sEng (j : MJob) (run : Bool) (r : Option RClass) : State :=
  { sJob j run with
    clusters := [(0, { Cluster.zero with resv := match r with
      | some c => [⟨0, .matrix, c, 3, 0, none, false, 5, 0⟩]
      | none => [] })] }
def passr1 : MJob := { drain1 with op := .passr .bf16 .bf16 8 8 1 0 keyM }
def scale1 : MJob := { drain1 with op := .scale 0 false 1 0 3 0 }
def drainH : MJob := { drain1 with op := .drain .bf16 .f2 true true 0 0 1 1 0 0 }

/-- A pass of two slabs that has been cancelled, or that a job of level 7 outranks. -/
def passC : MJob := { pass1 with op := .pass .bf16 .bf16 false false 16 8 64 0 0, cancel := true }
def pass7 : MJob := { pass1 with tid := 9, fr := { user with lvl := 7 } }
/-- A drain of two rows that waits for a staging row. -/
def drainW : MJob := { drain1 with op := .drain .bf16 .f2 true true 0 0 2 1 0 0, cur := 1 }
def sStaged : State := { sEng drainW true none with
  cores := [(0, { withCx Core.zero with wins := [w0], mjobs := [drainW, pass7], mrun := some 1, waiting := List.replicate 4 ⟨.row 9 0, 3, 0x5000, 5, [], [], 0, none⟩ })] }
def sPair : State := { sEng pass1 true none with
  cores := [(0, { withCx Core.zero with wins := [w0], mjobs := [pass1, pass7], mrun := some 1 })] }

theorem wit_MatrixEvents : (s0.core 0).mrun = none ∧ s0.mBest 0 = none ∧
    ((sEng pass1 false (some .pass16)).mBest 0 = some pass1 ∧
      (sEng pass1 false (some .pass16)).mResv 0 = some ⟨0, .matrix, .pass16, 3, 0, none, false, 5, 0⟩ ∧ pass1.op.cls = .pass16 ∧
      ((sEng pass1 false (some .pass16)).core 0).mrun = none) ∧
    (sEng pass1 false none).mResv 0 = none ∧ pass1.op.cls ≠ .pass8 ∧
    (((sEng pass1 true none).core 0).running? = some pass1 ∧ pass1.cancel = false ∧ pass1.cur < pass1.op.steps ∧
      pass1.waits = false) ∧
    (((sEng passC true none).core 0).running? = some passC ∧ passC.cancel = true ∧ passC.cur + 1 < passC.op.steps) ∧
    ((sPair.core 0).running? = some pass1 ∧ sPair.mStartable 0 pass7 = true ∧ pass1.fr.lvl < pass7.fr.lvl) ∧
    ((sStaged.core 0).running? = some drainW ∧ drainW.stages (sStaged.core 0) = true ∧ drainW.cancel = false ∧
      sStaged.mBest 0 = some pass7 ∧ pass7.tid ≠ drainW.tid) ∧
    (((sEng scale1 true none).core 0).running? = some scale1 ∧ scale1.cur < 64) ∧
    (((sEng drain1 true none).core 0).running? = some drain1 ∧ drain1.cur < 1 ∧ drain1.byt.toNat % 2 = 0) ∧
    (((sEng drainH true none).core 0).running? = some drainH ∧ ((sEng drainH true none).core 0).stagedRows < 4) ∧
    (let j := { drain1 with cur := 1 }
     ((sEng j true none).core 0).running? = some j ∧ j.op.steps ≤ j.cur ∧ j.rowsDone = true) := by
  decide +kernel

theorem wit_MatrixEvents_fetch : ((sEng passr1 false none).core 0).mjob 1 = some passr1 ∧ (passr1.fetch 0).isSome = true ∧
    ((sEng passr1 false none).core 0).unblocked 1 = true ∧ ((sEng passr1 false none).core 0).oldest passr1 = true ∧
    (sEng passr1 false none).stopped 0 5 = false ∧ (sEng passr1 false none).blocked (.operand 0 1) = false ∧
    ((passr1.fetch 0).map fun a => engOk ((withTlb (sEng passr1 false none)).placeGet a)) = some true ∧
    ((passr1.fetch 0).map fun a => engWaits ((sEng passr1 false none).placeGet a)) = some true := by
  decide +kernel

/-! ### Messages -/

def flying (k : ChitKind) (off : Nat) (arg : W64) : Flying := ⟨chit1 k off arg, 0, user, none⟩
def die64 : Nat := s0.ticketDie 5 64
/-- A launch of the ticket at 0x40 with a predecessor count. -/
def launch1 (n : Nat) : LaunchRec := ⟨40, 5, 64, n, [], [], 1, none⟩
def withExch (d : Nat) (e : Exchange) (s : State) : State := { s with exchanges := vmod d (fun _ => e) s.exchanges }
def sRel (n : Nat) : State :=
  withExch die64 { Exchange.zero with launches := if n = 0 then [] else [launch1 n] }
    { s0 with chits := [flying .release 64 0] }
/-- A ticket whose parked instance QRESET discarded while it awaited two releases. -/
def sGone : State := withExch die64 { Exchange.zero with gone := [(5, 64, 2)] } { s0 with chits := [flying .release 64 0] }
def sObj (k : ChitKind) : State := withTlb { s0 with chits := [flying k 0 1] }
/-- An object's lines, where the slice takes them all: context, region, offset, size and slice of each. -/
def objTaken (s : State) (f : Flying) (l : List (Nat × Nat)) : Option (List (List Nat)) :=
  match s.objPass f l with
  | .inl (.ok _ l) => some (l.map fun p => [p.1.x.toNat, p.1.region.toNat, p.1.off, p.1.n, p.2.1, p.2.2])
  | _ => none
/-- A barrier record of two tasks at 0, none arrived; or one that nobody has set. -/
def sBar (cnt : Nat) : State :=
  { sObj .barArrive with mem := memWrite (table pteData 0) 0x100_0000 (natBytes 16 cnt) }
def fBar : Flying := flying .barArrive 0 1
def watch1 : Watch := ⟨0, 0, 5, 0, 0, 1, 64, user⟩
def sWatch : State := withTlb { s0 with watchMsgs := [watch1] }
/-- An arrival of 8 bytes at the bytebar S:0x100 of core 0. -/
def arrive8 : Flying := { flying .byteArrive 0 8 with c := { chit1 .byteArrive 0 8 with off := winS } }
def sArr : State := { one w0 0 withBal with chits := [arrive8] }
def ask1 : AskMsg := ⟨0, 2, 0, 5, 0x100, 64, 0, user⟩
def crier1 : Crier := { Crier.zero with chans := [(2, ⟨5, morton, some (0, 1, 0)⟩)] }
def sAsk : State := { s0 with asks := [ask1], criers := vmod 0 (fun _ => crier1) s0.criers }
def sBack : State := { s0 with askBacks := [⟨0, 0, 5, 0x100, 64, 3, 0, user⟩] }
def sCrinit (n : Nat) : State := parked (.crinit true 2 morton n) id

theorem wit_MessageEvents_releases :
    (sRel 3).mayDecr die64 = true ∧ ((sRel 0).exch die64).laneLate 0 3 = false ∧ ((sRel 0).exch die64).lost 5 64 = false := by
  decide +kernel

theorem wit_MessageEvents_gone :
    ((((sGone.takeChit (.sent 0) fun k => k = .release || k = .depDecr).map fun p => p.1) = some (flying .release 64 0)) ∧
      (sGone.exch die64).parkedAt 5 64 = none ∧ (sGone.exch die64).lost 5 64 = true ∧ sGone.mayDecr die64 = true ∧
      (sGone.exch die64).laneLate sGone.tick.toNat 3 = false) ∧
    (let s := withExch die64 { Exchange.zero with decrs := [(5, 64)] } s0
     (s.exch die64).decrs[0]? = some (5, 64) ∧ (s.exch die64).parkedAt 5 64 = none ∧ (s.exch die64).lost 5 64 = false) ∧
    (let s := withExch die64 { Exchange.zero with launches := [launch1 3], decrs := [(5, 64)] } s0
     (s.exch die64).decrs[0]? = some ((launch1 3).ctx, (launch1 3).tkt) ∧ s.mayDecr die64 = true ∧
      (s.exch die64).parkedAt 5 64 = some (launch1 3) ∧ (s.exch die64).launchRec 40 = some (launch1 3)) := by
  decide +kernel

theorem wit_MessageEvents :
    (((sRel 0).takeChit (.sent 0) fun k => k = .release || k = .depDecr).map fun p => p.1) = some (flying .release 64 0) ∧
    die64 < 4 ∧ ((sRel 0).exch die64).parkedAt 5 64 = none ∧ ((sRel 3).exch die64).parkedAt 5 64 = some (launch1 3) ∧
    ((sRel 3).exch die64).launchRec 40 = some (launch1 3) ∧
    ((sRel 0).takeChit (.sent 0) fun k => k = .release || k = .depDecr).any (fun p => p.2.mayDecr die64) = true ∧
    (objTaken (sObj .barInit) (flying .barInit 0 1) [(0, 16)] = some [[5, 0, 0, 16, home0, pteData]] ∧
      objTaken (sObj .tlSet) (flying .tlSet 0 1) [(0, 8)] = some [[5, 0, 0, 8, home0, pteData]] ∧
      objTaken (sObj .tlAdd) (flying .tlAdd 0 1) [(0, 8)] = some [[5, 0, 0, 8, home0, pteData]] ∧
      chitFirst (sObj .tlSet).chits 0 = true ∧ (sObj .tlSet).holds? 5 = true) ∧
    (((sBar 0).entryFor 5 0 0).isSome = true ∧ (sBar 0).peekNat 5 0 0 16 % 2 ^ 32 = 0 ∧
      objTaken (sBar 0) fBar [(0, 32)] = some [[5, 0, 0, 32, home0, pteData]]) ∧
    ((sBar 2).peekNat 5 0 0 16 = 2 ∧ objTaken (sBar 2) fBar (recordLines 0 2) =
        some [[5, 0, 0, 32, home0, pteData], [5, 0, 32, 16, home0, pteData]] ∧
      ((sBar 2).useLine home0 5 0 0 pteData).2.data.length = 128) := by
  decide +kernel

theorem wit_MessageEvents_arrivals :
    objTaken sWatch (watch1.fly sWatch) [(0, 8)] = some [[5, 0, 0, 8, home0, pteData]] ∧
    (sWatch.watchMsgs[0]? = some watch1 ∧ (sWatch.slice home0).watches.length < 256 ∧
      watchMet (BitVec.ofNat 64 (leNat (sliceBytes (sWatch.useLine home0 5 0 0 pteData).2.data 0 8))) 1 = false) ∧
    (sArr.chits[0]? = some arrive8 ∧ winCore arrive8.c.off = 0 ∧ winOff arrive8.c.off = 0x100 ∧ sArr.retained 0 = false ∧
      sArr.flipped 0 5 = false ∧ (sArr.core 0).winOk 5 arrive8.fr.sys 3 0x100 16 = true) ∧
    (sAsk.asks[0]? = some ask1 ∧ askFirst sAsk.asks 0 = true ∧ (vget Crier.zero sAsk.criers 0).chan 2 = some ⟨5, morton, some (0, 1, 0)⟩ ∧
      (vget Crier.zero s0.criers 0).chan 2 = none) ∧
    (backFirst sBack.askBacks 0 = true ∧ sBack.retained 0 = false ∧ sBack.flipped 0 5 = false) ∧
    ((sCrinit 0).topOf 0 = some { w0 with park := some (.crinit true 2 morton 0) } ∧
      ((sCrinit 0).core 0).crinitWin = (sCrinit 0).topOf 0 ∧ (Crier.zero.take 5 2 morton).isSome = true ∧
      crier1.take 6 2 morton = none) ∧
    (sCrinit 1).topOf 0 = some { w0 with park := some (.crinit true 2 morton 1) } := by
  decide +kernel

/-! ### The Exchange and admission -/

/-- A ticket image of context 5 at priority `pri`, with entry 0x1000 and no footprint. -/
def image (pri : Nat) : BitVec 512 := BitVec.ofNat 512 (0x1000 + (pri + 5 * 2 ^ 32) * 2 ^ 64)
def cre (k : CreKind) : Creation := ⟨5, 64, k, 0, false, none, false⟩
def creImg (foot : List Range) : Creation := cre (.image (image 3) foot 0 0 none)
def rangeA : Range := ⟨0, 0, 1, true⟩
def sIn (c : Creation) (ls : List LaunchRec) : State := withExch 0 { Exchange.zero with input := [c], launches := ls } (withTlb s0)
/-- Eight launches of another context that fill the range table. -/
def full : List LaunchRec := List.replicate 8 ⟨40, 6, 64, 0, List.replicate 256 rangeA, [], 1, none⟩
/-- An instance that asks for core 0, and one in the queue of priority 3. -/
def inst (st : InstSt) (pri : Nat) : Inst :=
  { newInst 50 40 (creImg []) (image 3).toNat 0 1 (some (0, 0)) [] none 0 0 with st := st, prio := pri }
def sReady (hi : Bool) (n : Nat) : State :=
  atTick n (withExch 0 { Exchange.zero with
    insts := [inst .ready 3], queues := vmod 3 (fun _ => [50]) (Vector.replicate 8 []),
    hi := vmod 3 (fun _ => hi) (Vector.replicate 8 false), age := vmod 3 (fun _ => 1) (Vector.replicate 8 0) } s0)
/-- A walk toward row 2, column 1 of die 0, at column `col` of row 0. -/
def walkTo (col r : Nat) (back : Bool) : MeshWalk := ⟨50, 0, 0, 0, col, 2, 1, r, back, 0⟩
def sWalks (w : MeshWalk) (st : CtxSt) : State :=
  atTick 100 (withExch 0 { Exchange.zero with insts := [inst .walking 3] }
    { s0 with walks := [w], contexts := [(5, { ctx5 0 with st := st })], cores := [(0, { withBal Core.zero with wins := [], thr := 0 })] })
def barrow1 : BarrowEntry := ⟨50, 0, 3, 0⟩
def instFree : Inst := { inst .waiting 3 with hint := none }
def sBarrow (f : Core → Core) (i : Inst) (n : Nat) : State :=
  atTick n (withExch 0 { Exchange.zero with insts := [i], launches := [⟨40, 5, 64, 0, [], [], 1, none⟩] }
    { s0 with cores := [(0, f (withBal Core.zero))] })
def wait1 : Waiting := ⟨.landing 1 0, 3, 0x5000, 5, [1, 2], [], 0, none⟩
def launchMsg (x : Ctx) : Launch := ⟨7, x, 64, image 3, none, 0, 1, 0, false, 3, none, 0, false⟩

theorem wit_ExchangeEvents : ((sIn (creImg []) []).exch 0).input = [creImg []] ∧ (sIn (creImg []) []).holds? 5 = true ∧
    ((sIn (creImg []) []).mayCreate 0 = true ∧ (sIn (creImg [rangeA]) full).mayCreate 0 = true) ∧
    ((sIn (creImg []) []).exch 0).fits 5 [] = true ∧ s0.fanSize (imgFan (image 3).toNat) = 1 ∧ imgPrio (image 3).toNat = 3 ∧
    ((sIn (creImg [rangeA]) full).exch 0).fits 5 [rangeA] = false ∧
    ((sIn (cre .release) []).exch 0).parkedAt 5 64 = none ∧
    (∃ u bs, (sIn (cre .release) []).exchRead 0 5 64 64 = .ok u bs) ∧
    footReadable (imgFoot (image 3).toNat) = false ∧
    (∃ l, (sIn (cre (.ticket (image 3))) []).imageCheck 0 (image 3).toNat (false || false) 5 [] = .ok l) ∧
    (let m := BitVec.ofNat 512 ((image 3).toNat + 256 * 2 ^ 192)
     footReadable (imgFoot m.toNat) = true ∧ (∃ u bs, (sIn (cre (.ticket m)) []).exchRead 0 5 (imgFoot m.toNat) 128 = .ok u bs) ∧
      ∃ l, s0.imageCheck 0 m.toNat false 5 (List.replicate 128 0) = .ok l) :=
  ⟨by decide +kernel, by decide +kernel, by decide +kernel, by decide +kernel, by decide +kernel, by decide +kernel,
    by decide +kernel, by decide +kernel, eng_ex (by decide +kernel), by decide +kernel, ok_ex (by decide +kernel),
    ⟨by decide +kernel, eng_ex (by decide +kernel), ok_ex (by decide +kernel)⟩⟩

theorem wit_ExchangeEvents_places : ((sReady false 100).step4 0).nextReady 0 = some (3, inst .ready 3) ∧ imgAwn (image 3).toNat = 0 ∧
    (inst .ready 3).hint = some 0 ∧ (inst .ready 3).hdev = s0.dev ∧ (((sReady false 100).step4 0).exch 0).mayStep 100 6 1 = true ∧
    (let u := (sReady true 20000).step4 0
     (∀ p < 6, p ≠ 3 → u.liveQueue 0 p = []) ∧ vget false (u.exch 0).hi 3 = true ∧
      (u.exch 0).bell ≤ 20001 - vget 0 (u.exch 0).age 3 ∧
      (((u.exch 0).queue 3).filterMap (u.exch 0).inst).find? u.mayRise = some (inst .ready 3) ∧
      ((u.exch 0).queue 4).length < 1024 ∧ (u.exch 0).mayStep 20000 5 1 = true) ∧
    (let s := atTick 100 (withExch 0 { Exchange.zero with insts := [inst .parked 3], zeroQ := [50] } s0)
     (s.exch 0).zeroQ = [50] ∧ (s.exch 0).inst 50 = some (inst .parked 3) ∧ (inst .parked 3).since < 100 ∧
      ((s.exch 0).queue 3).length < 1024 ∧ (s.exch 0).mayStep 100 4 1 = true) ∧
    s0.tick.toNat % 16 = 0 ∧
    (let w := walkTo 0 1 false
     let s := sWalks w .live
     s.walks[0]? = some w ∧ (s.exch 0).inst 50 = some (inst .walking 3) ∧ w.due ≤ 100 ∧ s.walkBefore 0 w = false ∧
      s.holds? 5 = true ∧ s.frozen 5 = false ∧ w.radius < w.dist) ∧
    (let w := walkTo 0 3 false
     let s := sWalks w .live
     w.dist ≤ w.radius ∧ s.retained (clusterOf w.core) = false ∧ (inst .walking 3).allows w.core = true ∧
      (s.core w.core).wins = [] ∧ (s.core w.core).canTake (inst .walking 3) = true ∧ (s.core w.core).barrowRoom 100 = true) ∧
    ((sWalks (walkTo 0 3 false) .frozen).frozen 5 = true ∧ (sWalks (walkTo 0 3 false) .frozen).holds? 5 = true) ∧
    (walkTo 0 3 true).start + (walkTo 0 3 true).row + (walkTo 0 3 true).col ≤ 100 ∧
    (let s := sBarrow (fun k => { k with barrow := [barrow1] }) instFree 20000
     (s.core 0).barrow[0]? = some barrow1 ∧ (s.exch 0).inst 50 = some instFree ∧ instFree.fixed = false ∧
      barrow1.since + (s.exch 0).bell ≤ 20000) ∧
    (s0.holds? 9 = false ∧ s0.ticketDie 5 64 = die64 ∧ (launchMsg 5).ready = false ∧ (launchMsg 5).ended = false) ∧
    (let l := { launchMsg 5 with launch := 40, ended := true }
     l.ended = true ∧ ((sRel 1).exch die64).launchRec l.launch = some (launch1 1) ∧ (launch1 1).left ≤ 1 ∧
      (withExch die64 { Exchange.zero with launches := [{ launch1 0 with left := 2 }] } s0 |>.exch die64).launchRec 40 =
        some { launch1 0 with left := 2 }) := by
  decide +kernel

theorem wit_AdmissionEvents :
    (let s := sBarrow (fun k => { k with barrow := [barrow1] }) (inst .waiting 3) 100
     s.boundary 0 = true ∧ bestCand (s.candidates 0) = some (.ticket barrow1 (inst .waiting 3)) ∧ (inst .waiting 3).shape = none) ∧
    (let s := sBarrow (fun k => { k with waiting := [wait1] }) (inst .waiting 3) 100
     s.boundary 0 = true ∧ bestCand (s.candidates 0) = some (.handler 0 wait1)) := by
  decide +kernel

/-- An instance whose image names awning 7, or which carries a shape record for S:64. -/
def instAwn : Inst := { inst .waiting 3 with image := BitVec.ofNat 512 ((image 3).toNat + 7 * 2 ^ 88) }
def instShape : Inst := { inst .waiting 3 with shape := some (64, List.replicate 64 0) }

theorem wit_AdmissionEvents_claims :
    (let s := sBarrow (fun k => { withAwn 5 false k with barrow := [barrow1] }) instAwn 100
     s.boundary 0 = true ∧ bestCand (s.candidates 0) = some (.ticket barrow1 instAwn) ∧ imgAwn instAwn.image.toNat = 7 ∧
      (s.core 0).awnIdx 5 7 = some 0 ∧ ((s.core 0).awn 0).ceil ≠ 7) ∧
    (let s := sBarrow (fun k => { k with barrow := [barrow1] }) instShape 100
     bestCand (s.candidates 0) = some (.ticket barrow1 instShape) ∧ (s.core 0).covers 5 3 64 64 = true) := by
  decide +kernel

theorem wit_ExchangeEvents_more : ((sIn (creImg []) []).exch 0).insts = [] ∧
    (((sIn (creImg []) []).exch 0).queue 3).length < 1024 ∧ ((sIn (creImg []) []).exch 0).edgesOf 5 [] = [] ∧
    ((launchMsg 5).ready = false ∧ (let l := { launchMsg 5 with ready := true }; l.ready = true ∧ l.prio < 8)) ∧
    (s0.holds? 5 = true ∧ (∀ i ∈ (s0.exch die64).insts, i.id < s0.nextId) ∧ ((s0.exch die64).queue 3).length < 1024) := by
  decide +kernel

/-! ### Saving, power and arbiters -/

/-- s1 names context 5, s2 an area; core 0 holds the context. -/
def wSave (area : W64) : Window := win [0, 5, area]
def sSave (area : W64) (p : Option Park) : State := one { wSave area with park := p } 0 withBal
def area0 : SaveArea := (withBal Core.zero).saveArea 0 0 5 user
/-- An area without an allocation, for a core without one; `n` of its entries were refused. -/
def areaN (n : Nat) : SaveArea := { area0 with bal := none, refused := List.replicate n jrn1 }
/-- It stands at 0x40. -/
def stored (n : Nat) (at' : Nat) (s : State) : State :=
  { s with saves := [(at', areaN n)], sysMem := hostMask [] at' ((areaN n).image.map some) }
def sAreas (n : Nat) (f : Core → Core) : State := stored n 0x40 (one { wSave 0x40 with park := some (.ctxload 5 0x40) } 0 f)
theorem sized (n : Nat) (h : n = 0 ∨ n = 129) : (areaN n).image.length = (areaN n).size ∧ 64 ≤ (areaN n).size ∧ (areaN n).ctx = 5 := by
  rcases h with rfl | rfl <;> decide +kernel
theorem stored_at {n at' : Nat} (h : n = 0 ∨ n = 129) (s : State) : (stored n at' s).areaAt 5 at' = some (areaN n) := by
  obtain ⟨h1, h2, h3⟩ := sized n h
  have e : (stored n at' s).sysMem = hostMask [] at' ((areaN n).image.map some) := by rw [stored]
  refine areaAt_saved e h1 h2 ?_
  simp only [stored, List.find?_cons, h3, decide_true, Bool.and_self]
def evict1 (cores : List Nat) : Evict := ⟨5, 0, 9, 0, cores, [], false, false⟩

theorem wit_ContextSaving : Issues (sSave 0x40 none) (wSave 0x40) bare false ∧ ((wSave 0x40).rdS 1).truncate 16 = (5 : Ctx) ∧
    (sSave 0x40 none).me.holds 5 = true ∧ (one (wSave 0x40)).me.holds 5 = false ∧ Issues (one (wSave 0x40)) (wSave 0x40) bare false ∧
    ((wSave 0x40).rdS 2).toNat % 64 = 0 ∧ ((wSave 0x41).rdS 2).toNat % 64 ≠ 0 ∧ (sSave 0x40 none).evicts = [] ∧
    (sSave 0x40 (some (.ctxsave (some 3) 5 0x40))).topOf 0 = some { wSave 0x40 with park := some (.ctxsave (some 3) 5 0x40) } ∧
    (sSave 0x40 (some (.ctxsave (some 3) 5 0x40))).saveReady 0 5 = true ∧
    (sSave 0x40 (some (.ctxload 5 0x40))).topOf 0 = some { wSave 0x40 with park := some (.ctxload 5 0x40) } ∧
    (sSave 0x40 (some (.ctxload 5 0x40))).saves = [] ∧
    ((sAreas 0 id).areaAt 5 0x40 = some (areaN 0) ∧ (areaN 0).bal = ((sAreas 0 id).core 0).bal 5 ∧
      (areaN 0).refused.length ≤ ((sAreas 0 id).core 0).freeIdx.length ∧
      ((sAreas 0 id).core 0).copies.length + (areaN 0).copies.length ≤ 32 ∧
      ((sAreas 0 id).core 0).trestleRoom ((areaN 0).copies.length + (areaN 0).mjobs.length) = true ∧
      (sAreas 0 id).streams 0 + (areaN 0).streams ≤ 32 ∧ (areaN 0).wins = [] ∧ (areaN 0).msgs = [] ∧
      ((sAreas 0 id).core 0).spilled = [] ∧ fitsResident 0 ((sAreas 0 id).core 0).wins = true) ∧
    ((sAreas 129 id).areaAt 5 0x40 = some (areaN 129) ∧ ((sAreas 129 id).core 0).freeIdx.length < (areaN 129).refused.length) ∧
    ((sAreas 0 withBal).areaAt 5 0x40 = some (areaN 0) ∧ (areaN 0).bal ≠ ((sAreas 0 withBal).core 0).bal 5) ∧
    (let s := { s0 with evicts := [evict1 [0]] }
     s.evicts.find? (fun e => decide (e.ctx = 5) && !e.isRestore && !e.spilling) = some (evict1 [0]) ∧
      s.fabricOn = false ∧ { s with fabcfg := 2 ^ 14 }.fabricOn = true ∧ (s.cutCounts 5).1 = (s.cutCounts 5).2 ∧ s.migrations = [] ∧ (evict1 [0]).left = []) ∧
    (evict1 []).cores = [] :=
  ⟨iss (by decide +kernel), by decide +kernel, by decide +kernel, by decide +kernel, iss (by decide +kernel), by decide +kernel,
    by decide +kernel, by decide +kernel, by decide +kernel, by decide +kernel, by decide +kernel, by decide +kernel,
    ⟨stored_at (.inl rfl) _, by decide +kernel⟩, ⟨stored_at (.inr rfl) _, by decide +kernel⟩,
    ⟨stored_at (.inl rfl) _, by decide +kernel⟩, by decide +kernel⟩

def sCl (c : Cluster) (n : Nat) : State := atTick n { s0 with cores := [], clusters := [(0, c)] }

theorem wit_PowerAndArbiterEvents : (0 % 48 ≠ 47 ∧ 47 % 48 = 47) ∧
    (let s := sCl { Cluster.zero with retreq := true } 0
     (s.cluster 0).retreq = true ∧ (s.cluster 0).rst = .active ∧ (s.cluster 0).resv = [] ∧
      ∀ p < 4, (s.core (coreAt 0 p)).idle = true) ∧
    (let s := sCl { Cluster.zero with rst := .entering } 64
     (s.cluster 0).rst = .entering ∧ (s.cluster 0).rstSince + 64 ≤ s.tick.toNat) ∧
    (let s := { sCl { Cluster.zero with rst := .exiting } 512 with cores := [(0, withBal Core.zero)] }
     (s.cluster 0).rst = .exiting ∧ (s.cluster 0).rstSince + 512 ≤ s.tick.toNat ∧ s.residents 0 = [5]) ∧
    (clusterOf 0 = 0 ∧ ((sCl Cluster.zero 64).core 0).vidle + idleTicks 0 ≤ 64) ∧ s0.tick.toNat % 1050000 = 0 ∧
    (let r : Resv := ⟨0, .vector, .macroOp, 3, 0, none, false, 5, 0⟩
     r.down = none ∧ (sCl { Cluster.zero with resv := [r] } 0).ended 0 r = false) := by
  decide +kernel

theorem wit_PowerAndArbiterEvents_passes :
    (s0.tick.toNat % 1050000 = 0 ∧ sumNat ((List.range 192).map (s0.passTarget ((List.range 192).map fun i => (i, 0)))) ≤ Config.railLimit) ∧
    (boundaryAt 0 4 = true ∧ boundaryAt 0 5 = false ∧ (sCl Cluster.zero 4).tick.toNat = 4 ∧ Cluster.zero.last ≠ 4 + 1) ∧ s0.held = [] :=
  ⟨⟨by decide +kernel, le_of_eq_of_le (b := 0) (by decide +kernel) (Nat.zero_le _)⟩, by decide +kernel⟩

/-! ### Queues and commands -/

def withQ (n : Nat) (q : Queue) (s : State) : State := { upPort 37 0 s with queues := vmod n (fun _ => q) s.queues }
/-- An entry with HSEQ 1 and this operation at its place in queue 0's ring, and HTAIL 1. -/
def sSub (hseq opc : Nat) : State :=
  withQ 0 Queue.zero0 { s0 with mem := memWrite (memWrite [] 0x1080 (natBytes 16 (hseq + opc * 2 ^ 64))) 0 (natBytes 8 1) }
def sTick (taddr : Nat) : State := withQ 1 { Queue.absent with st := .running, ns := 4, ne := 4, ctx := 5, tickets := [(1, taddr, image 3)] } s0
def sEv : State := withQ 0 { Queue.zero0 with events := [Event.mk0 5 1 0] } s0
/-- Command `opc` of queue `n`, with CARG `v`. -/
def sCmd (n opc v : Nat) (s : State := s0) : State :=
  withQ n { Queue.absent with st := .running, base := 0x10000, ns := 4, ne := 4, ctx := if n = 0 then 0 else 5, cmds := [⟨1, opc, BitVec.ofNat 384 v⟩] } s

theorem wit_QueueEvents : ((sSub 1 0).queue 0).st = .running ∧ ((sSub 1 0).queue 0).lacc < ((sSub 1 0).queue 0).htail (sSub 1 0) ∧
    ((sSub 1 0).queue 0).accAt ≠ (sSub 1 0).tick.toNat + 1 ∧ ((sSub 1 0).queue 0).full (sSub 1 0) = false ∧
    ((sSub 1 0).queue 0).stale = [] ∧ ({ Queue.zero0 with stale := [1] } : Queue).stale.contains 1 = true ∧ (sSub 1 0).bridgeUp (sSub 1 0).dev = true ∧ (sSub 2 0).arena 0x1080 8 ≠ 1 ∧ (sSub 1 0).arena 0x1080 8 = 1 ∧ (sSub 1 0).arena 0x1088 8 = 0 ∧
    (sSub 1 0).arena 0x1098 40 = 0 ∧ 14 < (sSub 1 15).arena 0x1088 8 ∧ (sSub 1 14).arena 0x1088 8 = 14 ∧
    (((sTick 64).queue 1).tickets = [(1, 64, image 3)] ∧ (sTick 64).ticketStatus 1 64 (image 3).toNat = 0 ∧
      (sTick 64).ticketDie 5 64 < 4) ∧ (sTick 65).ticketStatus 1 65 (image 3).toNat ≠ 0 ∧
    ((sEv.queue 0).events = [Event.mk0 5 1 0] ∧ (sEv.queue 0).full sEv = false ∧ sEv.bridgeUp sEv.dev = true) ∧
    (sCmd 1 1 0).command 1 1 = some ⟨1, 1, 0⟩ ∧ (sCmd 0 3 0).command 0 3 = some ⟨1, 3, 0⟩ ∧
    (sCmd 0 2 0).command 0 2 = some ⟨1, 2, 0⟩ ∧ (sCmd 0 2 0).ctxRec 0 = none := by
  decide +kernel

def cmd (opc v : Nat) : Cmd := ⟨1, opc, BitVec.ofNat 384 v⟩
/-- CARG of MAP, ALLOC, AWNING and KEYPUT: dwords and a wide field. -/
def carg (a b c : Nat) : Nat := a + b * 2 ^ 64 + c * 2 ^ 128
def allocV : Nat := 192 * 2 ^ 8 + 48 * 2 ^ 40 + 5 * 2 ^ 64
def allocGood : Nat := 128 * 2 ^ 8 + 48 * 2 ^ 40 + 5 * 2 ^ 64
def awnV : Nat := 1 + 7 * 2 + 5 * 2 ^ 9 + 5 * 2 ^ 12

theorem wit_ContextCommands : (sCmd 0 1 0x100).command 0 1 = some (cmd 1 0x100) ∧ (cmd 1 0x100).block 80 = some 0x100 ∧
    (s0.ctxRec 0 = none ∧ s0.acceptsContexts = true) ∧
    ((sCmd 0 2 5).command 0 2 = some (cmd 2 5) ∧ (cmd 2 5).ctx = 5) ∧
    (let s := sCmd 0 2 5 { s0 with contexts := [(5, { ctx5 0 with st := .dead 7 })] }
     (s.ctxRec 5).map (fun r => r.st) = some (.dead 7)) ∧
    (sCmd 1 3 0).nameStatus 1 5 = 0 ∧
    (let c := cmd 3 (carg 0 0 pteData)
     let s := sCmd 1 3 (carg 0 0 pteData)
     s.command 1 3 = some c ∧ pteV (c.arg 16 8) = true ∧ s.mapStatus 5 (c.arg 8 8) (c.arg 0 8) (c.arg 16 8) = 0 ∧
      s.slotOf tr5 0 0 0 = none ∧ (s.freeSlot tr5 0 0 0).isSome = true ∧
      ({ s with mem := table pteData 0 }.slotOf tr5 0 0 0).isSome = true ∧ s.mapStatus 5 9 0 pteData ≠ 0 ∧ ptnOk tr5 = true) ∧
    (let c := cmd 4 (carg 0 0 allocGood)
     c.arg 0 2 < 768 ∧ (sCmd 1 4 0).retained (clusterOf 0) = false ∧ c.arg 16 16 = allocGood ∧ BitVec.ofNat 16 (bitsOf allocGood 79 64) = (5 : Ctx) ∧
      (Core.zero).balFits (balOf allocGood 5) = true ∧ (Core.zero).balFits (balOf allocV 5) = false) := by
  decide +kernel

theorem wit_ContextCommands_awnings :
    (let c := cmd 5 (carg 0 awnV 0)
     c.arg 8 8 = awnV ∧ awnV % 2 = 1 ∧ bitsOf awnV 8 1 = 7 ∧ BitVec.ofNat 16 (bitsOf awnV 27 12) = (5 : Ctx) ∧ s0.awnHome 5 7 = none ∧
      findAt (fun a : Awn => !a.v) Core.zero.awns.toList = some (0, Awn.zero) ∧ (awnV - 1) % 2 = 0 ∧
      findAt (fun a : Awn => a.v && decide (a.id = 7) && decide (a.ctx = 5)) (withAwn 5 true Core.zero).awns.toList =
        some (0, ⟨true, 7, 5, 5, true⟩) ∧
      findAt (fun a : Awn => a.v && decide (a.id = 7) && decide (a.ctx = 5)) (withAwn 5 false Core.zero).awns.toList =
        some (0, ⟨true, 7, 5, 5, false⟩)) ∧
    ((sCmd 1 6 0).command 1 6 = some (cmd 6 0) ∧ ((sCmd 1 6 0).ctxRec 5).isSome = true) ∧
    (let c := cmd 7 (carg 0 0 3)
     let s := withTlb (sCmd 1 7 (carg 0 0 3))
     s.command 1 7 = some c ∧ c.arg 8 8 ≤ 1 ∧ c.arg 0 8 % 16 = 0 ∧ s.entryFor 5 0 0 = some pteData ∧
      (sCmd 1 7 0).entryFor 5 0 0 = none ∧ 1 < (cmd 7 (carg 0 2 0)).arg 8 8 ∧ (cmd 7 (carg 1 0 0)).arg 0 8 % 16 ≠ 0) := by
  decide +kernel

theorem wit_ContextCommands_more :
    (let s := { sCmd 0 2 5 with cores := [(0, withBal Core.zero)] }
     s.command 0 2 = some (cmd 2 5) ∧ (s.holders 5).all s.reachable? = true ∧ (s.ctxRec 5).isSome = true ∧
      ({ s with clusters := [(0, { Cluster.zero with rst := .retained })] }.holders 5).all
        { s with clusters := [(0, { Cluster.zero with rst := .retained })] }.reachable? = false) ∧
    (let c := cmd 3 (carg 0 0 0)
     pteV (c.arg 16 8) = false ∧ pteSz (c.arg 16 8) ≠ 3 ∧ c.arg 8 8 < 4 ∧ c.arg 0 8 < 2 ^ 48 ∧
      c.arg 0 8 % 2 ^ pageShift (pteSz (c.arg 16 8)) = 0) ∧
    (cmd 4 (carg 0 0 0)).arg 16 16 = 0 ∧
    (let s := withPte (pteData + 2 * 2 ^ 7) (sCmd 1 7 (carg 0 0 3))
     (s.entryFor 5 0 0).map pteKind = some 2) ∧
    (let s := { sCmd 1 7 (carg 0 1 3) with owned := [⟨5, 0, false, 1⟩], mem := table pteMig 1 }
     s.command 1 7 = some (cmd 7 (carg 0 1 3)) ∧ ((s.entryFor 5 1 0).map fun e => (pteKind e, paExists (ptePa e 0))) = some (0, true) ∧
      (s.owned.any fun o => decide (o.ctx = 5) && decide (o.page = pageOf o.big 0)) = true) := by
  decide +kernel

/-- A RESTORE block at 0x100: context 5, area base 0x4000, one core. -/
def sRestore (core : Nat) : State :=
  stored 0 0x4000 (sCmd 0 9 0x100 { s0 with
    mem := memWrite [] 0x100 (natBytes 26 (5 + 0x4000 * 2 ^ 64 + 2 ^ 128 + core * 2 ^ 192)), cores := [] })
/-- MIGRATE of context 5's page 0 to device 7. -/
def migV : Nat := 5 + 7 * 2 ^ 49
def sMove : State :=
  sCmd 0 10 migV { s0 with mem := table pteMig 1, owned := [⟨5, 0, false, 1⟩], fabcfg := 2 ^ 14 }
/-- QCREATE of queue 1 for context 5 with rings of 16 entries at 0x20000. -/
def newQ : Nat := 1 + (4 + 4 * 2 ^ 4 + 5 * 2 ^ 8) * 2 ^ 64 + 2 ^ 128 + 0x20000 * 2 ^ 192

theorem stored_not {at' a : Nat} (s : State) (h : at' + 5568 ≤ a) : (stored 0 at' s).areaAt 5 a = none := by
  have hl : (areaN 0).image.length = 5568 := by decide +kernel
  have e : (stored 0 at' s).sysMem = hostMask [] at' ((areaN 0).image.map some) := by rw [stored]
  have hf := hostMask_find (areaN 0).image [] at' (a + 0)
  rw [dif_neg (by omega), ← e, List.find?_nil, List.find?_eq_none] at hf
  have : (stored 0 at' s).areaStands a = false := by
    simp only [State.areaStands, List.all_eq_false, List.mem_range, List.any_eq_true, not_exists, not_and]
    exact ⟨0, by decide, hf⟩
  simp only [State.areaAt, this, Bool.not_false, if_true]

theorem stored_one (s : State) (at' fuel : Nat) : (stored 0 at' s).areasFrom 5 at' (fuel + 2) 0 = [areaN 0] := by
  rw [State.areasFrom, Nat.zero_mul, Nat.add_zero, stored_at (.inl rfl) s]
  rw [State.areasFrom, stored_not s (by omega)]

theorem restore_area (core : Nat) : (sRestore core).areasFrom 5 0x4000 768 0 = [areaN 0] := stored_one _ 0x4000 766

theorem wit_DeviceCommands : ((sCmd 0 8 5).command 0 8 = some (cmd 8 5) ∧ ((sCmd 0 8 5).ctxRec 5).isSome = true) ∧
    (let s := sRestore 0
     s.command 0 9 = some (cmd 9 0x100) ∧ (cmd 9 0x100).block 24 = some 0x100 ∧ s.arena 0x100 2 = 5 ∧ s.arena 0x108 8 = 0x4000 ∧
      s.arena 0x110 2 = 1 ∧ s.arena 0x118 2 = 0) ∧
    ((sRestore 0).areasFrom 5 0x4000 768 0 = [areaN 0] ∧ (sRestore 768).areasFrom 5 0x4000 768 0 = [areaN 0]) ∧
    (((sRestore 0).prepare [(0, areaN 0)]).isSome = true ∧ ((sRestore 768).prepare [(768, areaN 0)]).isSome = false ∧
      (sRestore 0).reachable? 0 = true ∧
      { sRestore 0 with clusters := [(0, { Cluster.zero with rst := .retained })] }.reachable? 0 = false) ∧
    (sRestore 768).arena 0x118 2 = 768 ∧
    (sMove.command 0 10 = some (cmd 10 migV) ∧ (cmd 10 migV).arg 0 16 = migV ∧ bitsOf migV 59 49 = 7 ∧
      sMove.ownedOf 5 0 false = some ⟨5, 0, false, 1⟩ ∧ (sMove.slotOf tr5 0 1 0).isSome = true ∧ sMove.fabricOn = true ∧
      7 < 2 * sMove.q * sMove.q ∧ sMove.migrations = [] ∧ sMove.freeStub ≠ none ∧ sMove.dev ≠ 7) ∧
    (sCmd 0 8 5).live 5 ∧
    ((sCmd 0 11 newQ).command 0 11 = some (cmd 11 newQ) ∧ (cmd 11 newQ).arg 0 2 = 1 ∧ bitsOf ((cmd 11 newQ).arg 8 8) 3 0 = 4 ∧
      bitsOf ((cmd 11 newQ).arg 8 8) 23 8 = 5 ∧ (cmd 11 newQ).arg 24 8 = 0x20000 ∧ ((sCmd 0 11 newQ).queue 1).st = .absent ∧
      (∀ i < 16, ∀ p ∈ ((sCmd 0 11 newQ).queue i).spans i, 0x20000 + 256 + 128 * 2 ^ 4 + 128 * 2 ^ 4 ≤ p.1 ∨ p.2 ≤ 0x20000)) ∧
    ((sCmd 0 12 1).command 0 12 = some (cmd 12 1) ∧ (cmd 12 1).arg 0 2 = 1 ∧ ((sCmd 0 12 1).queue 1).st = .absent ∧
      ((sCmd 0 12 1 (sCmd 1 3 0)).queue 1).st = .running ∧
      (let s := { sCmd 0 12 1 (sCmd 1 3 0) with mem := memWrite [] 0x10000 (natBytes 8 1) }
       (s.queue 1).lacc < 1 ∧ 1 ≤ (s.queue 1).htail s ∧ 1 ≤ (s.queue 1).lacc + 2 ^ (s.queue 1).ns)) ∧
    ((sCmd 0 13 0x200).command 0 13 = some (cmd 13 0x200) ∧ (cmd 13 0x200).block 72 = some 0x200 ∧ s0.life ≠ 0 ∧
      (sCmd 0 13 0x200).arena 0x240 8 % 2 ^ 26 % 64 = 0) ∧
    ((sCmd 0 14 0x200).command 0 14 = some (cmd 14 0x200) ∧ (cmd 14 0x200).block 148 = some 0x200 ∧ lifeStep s0.life 3 = true ∧
      lifeStep s0.life 0 = false) :=
  ⟨by decide +kernel, by decide +kernel, ⟨restore_area 0, restore_area 768⟩, by decide +kernel, by decide +kernel,
    by decide +kernel,
    live_of (r := ctx5 0) (by decide +kernel) (by decide +kernel), by decide +kernel⟩

/-! ### The machine as a whole -/

/-- The context's code page: region 0x02 page 0 at 0x300_0000, readable but not executable, in the TLB or not. -/
def sCode (tlb mapped : Bool) : State :=
  { s0 with
    mem := if mapped then table (1 + 2 ^ 3 + 0x300 * 2 ^ 31) 2 else []
    slices := if tlb then [(s0.home 5 2 0x1000, { Slice.zero with tlb := [tlbOf 5 2 0x1000 (1 + 2 ^ 3 + 0x300 * 2 ^ 31)] })] else [] }
def atPc (pc : W64) : Window := { w0 with pc := pc }
/-- A fetch of the window on top: 0 waits, 1 has no address, else what its word decodes to. -/
def fetched (s : State) : Option (DecErr ⊕ Instr) :=
  match s.top with
  | none => none
  | some w => match s.engRead (.fetch s.cur w.wid) (fetchAsk s w) with
    | .ok _ bs => match decode w.sys w.vn (ofBytes bs) with
      | .ok i => some (.inr i)
      | .error e => some (.inl e)
    | _ => none
/-- The same page at a frame above the stacks. -/
def sNowhere : State :=
  { s0 with slices := [(s0.home 5 2 0x1000, { Slice.zero with tlb := [tlbOf 5 2 0x1000 (1 + 2 ^ 3 + 2 ^ 6 + 3000000 * 2 ^ 31)] })] }
def fetchIs (s : State) (p : EngRes (List Byte) → Bool) : Bool :=
  s.top.any fun w => p (s.engRead (.fetch s.cur w.wid) (fetchAsk s w))
def engBad {α : Type} : EngRes α → Bool
  | .bad _ => true
  | _ => false

theorem wit_StepRunsDecoded : { s0 with agenda := [.core 0] }.moves s0 ∧ s0.top = some w0 ∧ s0.boundary s0.cur = true ∧
    (bestCand (s0.candidates s0.cur)).isNone = true ∧ s0.beforeIssue = none ∧ (sTrap.beforeIssue).isSome = true ∧
    s0.frozen w0.fr.ctx = false ∧ w0.pc.toNat % 4 = 0 ∧ w0.pc.toNat + 12 ≤ 2 ^ 48 ∧ s0.holds? w0.fr.ctx = true ∧
    { s0 with cores := [] }.top = none ∧ { s0 with contexts := [(5, { ctx5 0 with st := .frozen })] }.frozen 5 = true ∧
    (wakeEvent 0 .endWait).isSome = true ∧ (serving (.service 3)).top = some (inServ (.service 3)) ∧
    s0.blocked (.fetch 0 0) = false ∧ { s0 with contexts := [] }.holds? 5 = false ∧
    (atPc 0x1002).pc.toNat % 4 ≠ 0 ∧ 2 ^ 48 < (atPc 0xFFFF_FFFF_FFF8).pc.toNat + 12 :=
  ⟨Or.inr ⟨0, [], rfl, rfl⟩, rfl, by decide +kernel⟩

/-- A fetch completes with a word that decodes, with a reserved word, and with a privileged one; waits for its walk; and finds no address. -/
theorem wit_StepRunsDecoded_fetch :
    fetched (State.reset.placeWord 0x0720_0000_0000_0000_0000_0000) = some (.inr (.eret bare)) ∧
    fetched (State.reset.placeWord 0) = some (.inl .illegal) ∧
    fetched ((State.reset.placeWord 0x0720_0000_0000_0000_0000_0000).modTop fun w => { w with fr := { w.fr with sys := false } }) =
      some (.inl .priv) ∧
    fetchIs (sCode false true) engWaits = true ∧ fetchIs (sCode true true) engWaits = true ∧
    fetchIs sNowhere engBad = true := by
  decide +kernel

/-- A bundle that names too few stages is not accepted. -/
theorem wit_ModuleReset : { State.reset with flash := { State.reset.flash with stages := [] } }.bundleOk 0 = false := by
  simp [State.bundleOk]

theorem wit_EncodeDecode : Instr.wf (.nop bare) = true ∧ (encode (.nop bare)).isSome = true := by decide +kernel

theorem wit_DecodeEncode : (0x0720_0000_0000_0000_0000_0000 : Nat) < 2 ^ 96 ∧
    decode true 16 0x0720_0000_0000_0000_0000_0000 = .ok (.eret bare) := ⟨by decide, by rfl⟩

theorem wit_MemoryStaysCanonical : State.reset.canonical ∧ step State.reset = .next State.reset := ⟨rfl, by rfl⟩

end Sys2Proof.Tests
end

section
/-! The state after reset: what each table of it answers, and why the module stays idle there. -/

namespace Sys2Proof.Machine

open Sys2Proof

/-! ### Steps of an idle core -/

/-- A core on which nothing is admitted or trapped and no window stands leaves the state as it is. -/
theorem coreStep_of_idle {s : State} (hb : s.beforeIssue = none) (ht : s.top = none) : coreStep s = .next s := by
  simp [coreStep, State.coreTurn, hb, ht]

theorem step_of_idle {s : State} (ha : s.agenda = []) (hb : s.beforeIssue = none) (ht : s.top = none) :
    step s = .next s := by
  simp [step, ha, coreStep_of_idle hb ht]

/-- A core with no candidate to admit and no trap to take has nothing before the next instruction. -/
theorem beforeIssue_of_quiet {s : State} (hc : s.candidates s.cur = []) (ht : s.trapOf s.cur = none) :
    s.beforeIssue = none := by
  simp [State.beforeIssue, hc, bestCand, ht]

theorem candidates_of_no_waiter {s : State} {c : Nat} (hw : (s.core c).waiting = []) (hb : (s.core c).barrow = []) :
    s.candidates c = [] := by
  simp [State.candidates, hw, hb]

theorem trapOf_of_no_window {s : State} {c : Nat} (h : s.topOf c = none) : s.trapOf c = none := by
  simp [State.trapOf, h]

/-! ### The tables after reset -/

theorem reset_core (c : Nat) : State.reset.core c = Core.zero := rfl

theorem reset_cluster (c : Nat) : State.reset.cluster c = Cluster.zero := rfl

theorem reset_ctxRec (x : Ctx) : State.reset.ctxRec x = none := rfl

theorem reset_top : State.reset.top = none := rfl

theorem reset_topOf (c : Nat) : State.reset.topOf c = none := rfl

theorem reset_exchange (d : Fin 4) : State.reset.exchanges[d] = Exchange.zero := by
  simp [State.reset]

/-- The one listed cell of memory is byte 40, the NS and NE fields of queue 0's header (R484). -/
theorem reset_memGet (a : Nat) : memGet State.reset.mem a = if a = 40 then 0x44 else 0 := by
  simp [State.reset, memGet, eq_comm]

theorem reset_queue_zero : State.reset.queue 0 = Queue.zero0 := rfl

theorem reset_queue_absent {n : Nat} (h0 : 0 < n) (hn : n < 16) : State.reset.queue n = Queue.absent := by
  have hne : 0 ≠ n := Nat.ne_of_lt h0
  simp only [State.queue, State.reset, vget, Vector.getElem?_eq_getElem hn, Option.getD_some,
    Vector.getElem_set_ne (hj := hn) (h := hne), Vector.getElem_replicate]

/-! ### What the boot ROM measured (R498) -/

/-- A register extended by one digest holds that digest extended from zero. -/
theorem amVal_of_single {s : State} {i n : Nat} (h : vget [] s.am i = [n]) : s.amVal i = extend 0 (s.digest n) := by
  simp [State.amVal, h]

theorem bootAm_measured (life : Nat) {i : Nat} (h : i < 4) : vget [] (bootAm life) i = [i] := by
  have h8 : i < 8 := by omega
  simp [bootAm, vget, h, h8]

theorem reset_amVal {i : Nat} (h : i < 4) : State.reset.amVal i = extend 0 (State.reset.digest i) :=
  amVal_of_single (bootAm_measured 2 h)

/-! ### The module is idle after reset -/

theorem reset_beforeIssue : State.reset.beforeIssue = none :=
  beforeIssue_of_quiet (candidates_of_no_waiter rfl rfl) (trapOf_of_no_window (reset_topOf _))

theorem step_reset : step State.reset = .next State.reset :=
  step_of_idle rfl reset_beforeIssue reset_top

/-- Settles O60: each table of the reset state by its own lemma; nothing waits and no window stands, so a step is idle. -/
theorem resetState : Obligations.ResetState := by
  have canonical : State.reset.canonical := rfl
  have cores (c : Nat) : State.reset.core c = Core.zero ∧ (State.reset.core c).thr = 0 ∧ (State.reset.core c).wins = [] := by
    rw [reset_core]; exact ⟨rfl, rfl, rfl⟩
  have clusters (c : Nat) : (State.reset.cluster c).bud = 64 ∧ (State.reset.cluster c).rst = .active := by
    rw [reset_cluster]; exact ⟨rfl, rfl⟩
  have exchanges (d : Fin 4) : State.reset.exchanges[d].bellx = 14 ∧ State.reset.exchanges[d].insts = [] := by
    rw [reset_exchange]; exact ⟨rfl, rfl⟩
  have absent (n : Nat) (h0 : 0 < n) (hn : n < 16) : (State.reset.queue n).st = .absent := by
    rw [reset_queue_absent h0 hn]; rfl
  have queue0 : (State.reset.queue 0).st = .running ∧ (State.reset.queue 0).ns = 4 ∧ (State.reset.queue 0).ne = 4 ∧
      (State.reset.queue 0).cmds = [] := by
    rw [reset_queue_zero]; exact ⟨rfl, rfl, rfl, rfl⟩
  obtain ⟨running, ns, ne, cmds⟩ := queue0
  exact ⟨canonical, rfl, rfl, reset_top, step_reset, cores, clusters, exchanges, reset_ctxRec, reset_memGet, rfl,
    fun _ => reset_amVal, running, ns, ne, cmds, absent⟩

end Sys2Proof.Machine
end

section
/-! The matrix engine's commits and the spill area: flags of a row reach a spilled admission window, and so the S buffer. -/

namespace Sys2Proof.Machine

open Sys2Proof

/-- The byte of a spill frame that holds FLG in its low seven bits (R165). -/
def flgByte : Nat := 48

/-- The spill area of a core with one spilled window begins with the bytes of that window's frame. -/
theorem memGet_respill_single (k : Core) (w : Window) {i : Nat} (h : i < w.toBytes.length) :
    memGet (k.respill [w]).bufS (spillBase + i) = w.toBytes[i] := by
  simpa [Core.respill, writeSpill, spillTop] using memGet_memWrite_in (m := k.bufS) (a := spillBase) w.toBytes h

/-! ### A ticket that has called 32 deep while its MSCALE runs -/

/-- The frame of the ticket: context 5, priority 3, serial 1. -/
def scaleFrame : Frame := { probeFrame with ctx := 5, pri := 3, lvl := 3, serial := 1, sys := false }

def scaleAdmission : Window := { probeWindow with v := [], fr := scaleFrame }

/-- The 32 CALL windows over the admission window: they fill the key-register stack, so it has been spilled (R164). -/
def scaleCalls : List Window :=
  (List.range 32).map fun i => { scaleAdmission with wid := i + 1, callw := true, adm := false }

/-- The ticket's MSCALE of tile 1 into tile 0, row scales at A:0 and column scales at S:0, before its first row. -/
def scaleJob : MJob :=
  { tid := 1, word := 0, ctx := 5, fr := scaleFrame, stamp := 0, op := .scale 1 false 1 0 3 0, tile := 0, old := none,
    hnde := 0, nxt := 0, byt := 0, act := true, held := false, cur := 0, cancel := false, adata := [], rows := [],
    counted := 0 }

/-- Core 0 runs `scaleJob`, whose operands lie in its context's allocation and whose first row scale is +infinity. -/
def scaleCore : Core :=
  { Core.zero with
    wins := scaleCalls
    thr := 3
    bufA := memWrite [] 0 (natBytes 4 0x7F80_0000)
    bals := Core.zero.bals.set 0 ⟨true, 5, 0, 0, 0, 1, 0, 1, 3⟩
    mjobs := [scaleJob]
    mrun := some 1
    trestle := [⟨1, granOf 1 0 256 ++ granOf 3 0 256 ++ [tileGran 1, tileGran 0], [tileGran 0], [], none, scaleFrame⟩] }

def scaleState : State :=
  { State.reset with contexts := [(5, probeCtx)], cores := [(0, scaleCore.respill [scaleAdmission])] }

/-- What a step leaves in the FLG byte of the frame at the bottom of core 0's spill area. -/
def spilledFlg (o : Out) : Option Byte :=
  match o with
  | .next t => some (memGet (t.core 0).bufS (spillBase + flgByte))
  | _ => none

/-- Before the row no flag is set: the byte holds only the low bit of PRI = 3. -/
theorem spilledFlg_scaleState : spilledFlg (.next scaleState) = some 0x80 :=
  congrArg some <| (memGet_respill_single scaleCore scaleAdmission (i := flgByte) (by decide +kernel)).trans (by decide +kernel)

/-- The row's infinite scale raises NV and SPC, which its commit merges into the spilled admission window (R467). -/
theorem spilledFlg_scaleRow : spilledFlg (exec (.matrixRowCommit 0) scaleState) = some 0xC1 := by decide +kernel

/-- Refutes O45: its MSCALE clause keeps the whole S buffer, but the flags of a row go into FLG of the issuing ticket's
admission window (R467), and where that window is spilled its FLG stands in S (R165). -/
theorem not_matrixEvents : ¬ Obligations.MatrixEvents := by
  unfold Obligations.MatrixEvents
  intro h
  obtain ⟨-, running, -⟩ := h scaleState 0
  have unique : ∀ o ∈ (scaleState.core 0).mjobs, o.tid = scaleJob.tid → o = scaleJob :=
    fun o ho _ => List.mem_singleton.mp ho
  obtain ⟨-, -, -, scale, -⟩ := running scaleJob rfl unique
  obtain ⟨t, hrow, -, -, -, hbufS, -⟩ := scale 1 false 1 0 3 0 rfl (by decide) (by decide +kernel)
  have kept : spilledFlg (exec (.matrixRowCommit 0) scaleState) = spilledFlg (.next scaleState) := by
    rw [hrow]
    exact congrArg (fun m => some (memGet m (spillBase + flgByte))) hbufS
  rw [spilledFlg_scaleRow, spilledFlg_scaleState] at kept
  exact absurd kept (by decide)

end Sys2Proof.Machine
end
